-- ==== Sys2Proof/Word.lean ====
section
/-! DEFINITION. The bit-vector types of Zelash: a memory byte, a 32-bit lane value, a 64-bit scalar
and a mask of 64 lanes (spec 02 R43, 11 "Masks"). -/

namespace Sys2Proof

/-- One byte of memory, of a tile slot or of the local space. -/
abbrev Byte := BitVec 8

/-- The 32-bit value of one lane (02 R43). -/
abbrev LaneVal := BitVec 32

/-- A scalar register's value, an address, a page-table entry (02 R43). -/
abbrev Word := BitVec 64

/-- A lane mask: bit l stands for lane l (11, Masks). -/
abbrev Mask := BitVec 64

/-- The values of the 64 lanes of a register, lane 0 first; a missing lane reads zero. -/
abbrev Lanes := List LaneVal

end Sys2Proof
end

