-- ==== Sys2Proof/Config.lean ====
section
/-! DEFINITION. What is fixed for the part, and the values the manual leaves open: each of those is an
opaque constant, so that no proof can see a value of it. -/

namespace Sys2Proof.Config

/-- Lanes of a warp: WARPW reads 64 on Zelash (00 R8). -/
def warpw : Nat := 64

/-- HOLDMAX, in cycles (17 R348). -/
def holdMax : Nat := 2 ^ 20

/-- PINMAX, in cycles (05 R107). -/
def pinMax : Nat := 65536

/-- Bytes of main memory: twelve stacks of 48 GB, decimal (00 R2, R12; 03 R69). -/
def memBytes : Nat := 12 * 48 * 10 ^ 9

/-- What a byte of main memory reads as before anything has written it: DESIGN CHOICE, assumption log 4. -/
def freshByte : Byte := 0

/-- Bundle bytes (02 R39). -/
def bundleBytes : Nat := 32

/-- Words of a trap frame (18 R357). -/
def frameWords : Nat := 801

/-- The device part number, as native text names it (20 R376). -/
def partNumber : Nat := 0x0800

/-- The SFU result that the manual does not architect (12 R237): which of the values within the stated
bound an operation (by opcode) on an operand (by its bits) returns, counted from the least. Assumption log 10. -/
opaque sfuPick : Nat → Nat → Nat

/-- A free 64-bit value, by the counter State.freeCtr. Assumption log 9. -/
opaque freeWord : Nat → BitVec 64

/-- A free number, by the counter State.freeCtr. Assumption log 9. -/
opaque freeNat : Nat → Nat

/-- Which of the partitions owns a 64 KiB page of main memory, modulo their number (05 R102): Fjody's allocator gives each
partition its range, and no rule says which. Assumption log 12. -/
opaque addrOwner : Nat → Nat

/-- The set of a slice in which a line lies, modulo 2,048 (05 R103 does not give the index). Assumption log 12. -/
opaque l2Set : Nat → Nat

/-- What a walk takes from a page-table entry, by its address, whose granule is poisoned or unreadable: the manual does not say.
Assumption log 9. -/
opaque poisonedEntry : Nat → Nat

/-- Where a core of a die lies in the 16 × 16 grid of its mesh, modulo 256: 09 R187 does not number the places. Assumption
log 31. -/
opaque gridPlace : Nat → Nat

/-- Which granules of a page that it holds, by offset, a pool node can no longer deliver (03 R87): the manual does not say. Assumption log 9. -/
opaque lostGranules : Nat → List Nat

/-- The digest of the firmware image in the module's flash (21 R394), byte by byte. Assumption log 11. -/
opaque imageDigest : Nat → Nat

/-- The signature of the attestation report (21 R394): the keys are inside the device. Assumption log 11. -/
opaque attestSignature : List Nat → List Nat

end Sys2Proof.Config
end

