-- ==== Sys2Proof/Syntax.lean ====
section
/-! DEFINITION. The instructions of Zelash: one constructor of `Instr` per row of the opcode table.
196 rows are slot instructions (V, M, E, C syllables of a bundle, spec 02); 102 rows are the part's
other steps (spec 95): completions inside the machine, arrivals from outside it, host commands. -/

namespace Sys2Proof

/-- A register, handle or scalar number (02 R43). -/
abbrev Reg := Fin 64

/-- A completion flag f0 to f15 (02 R43). -/
abbrev FlagNo := Fin 16

/-- The four slots of a bundle, in the order of 02 Table 2.1. -/
inductive Slot where
  | V | M | E | C
  deriving DecidableEq, Repr

/-- Element types, 02 Table 2.8. -/
inductive Etype where
  | n32 | i32 | n16x2 | i16x2 | n8x4 | i8x4 | n4x8 | i4x8 | f32 | f16x2 | b16x2
  deriving DecidableEq, Repr

/-- Operand select, 02 Table 2.6: a vector register, a scalar, a latch or a six-bit constant. -/
inductive Sel where
  | v (r : Reg)
  | s (r : Reg)
  | x (k : Fin 8)
  | c (bits : BitVec 6)
  deriving DecidableEq, Repr

/-- Operand modifiers, 02 Table 2.7. -/
inductive Modifier where
  | none | lo | hi | swp | b0 | brev | neg | abs
  deriving DecidableEq, Repr

/-- An operand: what is selected, and its modifier (02 R53, R54). -/
structure Opd where
  sel : Sel
  md  : Modifier
  deriving DecidableEq, Repr

/-- The destination fields of a V syllable (02 Table 2.5). -/
structure Dst where
  reg : Reg
  wbs : Bool
  le  : Bool
  xn  : Fin 8
  deriving DecidableEq, Repr

/-- Etype, destination and nm of a V syllable in the register form (02 R52). -/
structure VHead where
  et : Etype
  d  : Dst
  nm : Bool
  deriving DecidableEq, Repr

/-- Etype and destination of a V syllable in the immediate form, which has no nm (02 R52). -/
structure VImm where
  et : Etype
  d  : Dst
  deriving DecidableEq, Repr

/-- Rounding modes (01 R16). -/
inductive Rnd where
  | rne | rz | rd | ru
  deriving DecidableEq, Repr

/-- Conditions of SCMP and VCMP (02 Table 2.9). -/
inductive Cmp where
  | eq | ne | lt | le | gt | ge | ltn | len | gtn | gen
  deriving DecidableEq, Repr

/-- Conditions of VFCMP (02 Table 2.9). -/
inductive FCmp where
  | eq | ne | lt | le | gt | ge | un | ord
  deriving DecidableEq, Repr

/-- Conditions of BC (02 Table 2.9). -/
inductive BCond where
  | eqz | nez | ltz | gez | gtz | lez
  deriving DecidableEq, Repr

/-- Modes of VLANE (11 Table 11.3). -/
inductive LaneMode where
  | lane | sub | grp
  deriving DecidableEq, Repr

/-- Modes of VSHFLR (12 Table 12.7). -/
inductive ShflMode where
  | up | dn | xor | rot
  deriving DecidableEq, Repr

/-- Operations of VSCAN and VRED (12 Table 12.8). -/
inductive RedOp where
  | add | mini | maxi | minn | maxn | and | or | xor
  deriving DecidableEq, Repr

/-- Scopes (07 Table 7.1). -/
inductive Scope where
  | warp | core | die | dev | fab | sys
  deriving DecidableEq, Repr

/-- Access widths of the M slot (02 Table 2.10). -/
inductive Width where
  | w8 | w16 | w32 | w64 | w128
  deriving DecidableEq, Repr

/-- Atomic operations (02 Table 2.11). -/
inductive Aop where
  | add | mini | maxi | minn | maxn | and | or | xor | xchg | fadd | fmin | fmax
  deriving DecidableEq, Repr

/-- The address fields of an S-layout lane access (02 R57, R58). -/
structure LAddr where
  sb  : Reg
  vi  : Reg
  uni : Bool
  sx  : Bool
  imm : BitVec 16
  deriving DecidableEq, Repr

/-- The address fields of an A-layout lane access (02 R57, 08 R140). -/
structure GAddr where
  sb  : Reg
  vi  : Reg
  imm : BitVec 16
  deriving DecidableEq, Repr

/-- Ordering class and scope (02 Table 2.10). -/
structure MHead where
  cls : Fin 16
  sc  : Scope
  deriving DecidableEq, Repr

/-- Fence kinds (07 Table 7.2). -/
inductive FenceKind where
  | rel | acq | full
  deriving DecidableEq, Repr

/-- The permission a PGFETCH asks for (08 R165). -/
inductive PgKind where
  | read | write | atomic | exec
  deriving DecidableEq, Repr

/-- Class, scope and pitch pair of a CPYFIL with a global destination (09 Table 9.4). -/
structure CpyG where
  k  : MHead
  sx : Reg
  deriving DecidableEq, Repr

/-- Etypes of the E slot (02 Table 2.17). -/
inductive MType where
  | f16 | b16 | block | f32 | i32
  deriving DecidableEq, Repr

/-- The rungs of the re-steep ladder (13, The re-steep ladder). -/
inductive Rung where
  | r2 | r3 | r4 | r6 | r8
  deriving DecidableEq, Repr

/-- The rung field of MBMM: a rung, or auto (02 Table 2.17). -/
inductive RungSel where
  | at (r : Rung)
  | auto
  deriving DecidableEq, Repr

/-- The window offsets of MHFA and MBMM, signed (02 Table 2.17). -/
structure Win where
  dy : BitVec 6
  dx : BitVec 6
  deriving DecidableEq, Repr

/-- The flag and threshold of a WAITF (16 R319). -/
structure WaitArg where
  f : FlagNo
  n : Fin 64
  deriving DecidableEq, Repr

/-! Operands of the steps that are not slot instructions. -/

/-- The header of a Fjody command (21 Table 21.1), but for its OP, which is the instruction itself, and the address that it comes from: SEQ and
SESSION, and MAGIC, VER, PART, LEN and the bytes 24 to 31, which in a command have the values that stand here, LEN bounding its content. -/
structure Hdr where
  src     : Nat
  session : Nat
  seq     : Nat
  magic   : Nat := 0x4A445946
  ver     : Nat := 1
  part    : Nat := 0
  len     : Nat := 8928
  zero    : Nat := 0
  deriving DecidableEq, Repr

/-- A datagram that is none of the commands of 21 Table 21.2: where it comes from and, where it has a command's header, that and its
OP value. -/
structure Datagram where
  src : Nat
  cmd : Option (Hdr × Nat)
  deriving DecidableEq, Repr

/-- Page sizes (04 R91). -/
inductive PageSize where
  | k64 | m2 | g1
  deriving DecidableEq, Repr

/-- Permissions of a mapping (04 Table 4.2). -/
structure Perm where
  r : Bool
  w : Bool
  a : Bool
  x : Bool
  deriving DecidableEq, Repr

/-- A MAP command's content (21 Table 21.2, 24 R403): pages of one size from va, their target from pa on,
and the physical addresses Fjody's allocator gives to new tables. -/
structure MapReq where
  va     : Nat
  pages  : Nat
  sz     : PageSize
  perm   : Perm
  tgt    : Nat
  win    : Nat
  pa     : Nat
  tier   : Bool
  defer  : Bool
  tables : List Nat
  deriving DecidableEq, Repr

/-- A .channel directive: cohort indices and flits per period (02 R68, 09 R188). -/
structure Channel where
  src  : Nat
  dst  : Nat
  rate : Nat
  deriving DecidableEq, Repr

/-- A kernel record: the directives of 02 R68, and what the loader gave: the address of the kernel's entry stub, of the body that the
stub's BR goes to (20 R381), and of the bundle labelled `trap`, if the kernel has one (22 R398). -/
structure Kernel where
  entry    : Nat
  body     : Nat
  trap     : Option Nat
  cohort   : Nat
  vregs    : Nat
  tiles    : Nat
  accs     : Nat
  scratch  : Nat
  fifo     : Nat
  l1       : Nat
  barriers : Nat
  stack    : Nat
  tls      : Nat
  width    : Nat
  glo      : Nat
  ghi      : Nat
  chans    : List Channel
  deriving DecidableEq, Repr

/-- What Caddy adds to a context's code heap (20 R381 to R383): 64 KiB pages, each range with its address, its number of pages and its place
in main memory; page tables for them; translated bodies with their addresses; the entry stubs of functions, each with the body that
its BR goes to; and where the bundle labelled `trap` of a re-translated kernel, which its entry names, lies now (22 R398). -/
structure CodePlan where
  pages  : List (Nat × Nat × Nat)
  tables : List Nat
  bodies : List (Nat × List Byte)
  stubs  : List (Nat × Nat)
  traps  : List (Nat × Nat)
  deriving DecidableEq, Repr

/-- A MODLOAD command's content: the module's byte image (20 Table 20.1), and what Caddy makes of it: its kernel records, the operations of
its Eloaden functions by mnemonic and the most handles that they park at a time (20 R378, R379), where each of its native texts
goes, the address of the loader's stub for kernels without a trap label (22 R398), and the rest of the code heap. -/
structure ModuleImage where
  image   : List Byte
  kernels : List Kernel
  ops     : List String
  parked  : Nat
  natives : List Nat
  halt    : Nat
  plan    : CodePlan
  deriving DecidableEq, Repr

/-- A launch record: its eight words (17 Table 17.1). -/
structure LaunchRec where
  words : List Word
  deriving DecidableEq, Repr

/-- A LAUNCH command's content: its records and, where the host asks for a recording, the input ranges that it names (19 R375). -/
structure LaunchBatch where
  recs   : List LaunchRec
  inputs : Option (List (Nat × Nat))
  deriving DecidableEq, Repr

/-- One partition of a PART command (17 R336, 19 R371). -/
structure PartReq where
  id     : Nat
  groups : List Nat
  prot   : Bool
  deriving DecidableEq, Repr

/-- The read:write lane ratios of a stack (03 Table 3.1). -/
inductive LaneRatio where
  | r28w4 | r24w8 | r20w12 | r16w16
  deriving DecidableEq, Repr

/-- Where one warp's areas lie, as the loader chose (20 R386). -/
structure WarpArea where
  stack   : Nat
  hstack  : Nat
  tls     : Nat
  deriving DecidableEq, Repr

/-- Where one cohort is placed (17 R342) and its warps' areas. -/
structure CohortPlace where
  core  : Nat
  areas : List WarpArea
  deriving DecidableEq, Repr

/-- A placement of one gang: the queue whose head is placed and the cores, in cohort order (17 R342); for each channel the cycles of a period
that its slot table gives it on its first link (09 R188); the mappings that the loader makes for the warps' areas and its exit stub
(20 R386). -/
structure Placement where
  q     : Nat
  cos   : List CohortPlace
  slots : List (List Nat)
  exitStub : Nat
  maps     : List MapReq
  /-- What Caddy adds to the code heap where it re-translates the kernel (20 R382). -/
  code     : Option CodePlan
  /-- A gang to pre-empt where the head has no room (18 R361). -/
  evict    : Option Nat
  deriving DecidableEq, Repr

/-- The physical frame a promoted page takes, where an evicted page goes (03 R84, R85), and the promotion window that Fjody has set for
the context, if it has set one since. -/
structure TierMove where
  window : Option Nat
  frame  : Nat
  outWin : Nat
  outOff : Nat
  deriving DecidableEq, Repr

/-- Lane training of a trunk's four ports (15 R281). -/
structure TrainResult where
  portsUp   : List Bool
  sameNode  : Bool
  accepts   : Bool
  deriving DecidableEq, Repr

/-- A lane's measured margin and its corrected symbol errors of the last 1 ms (15 R285). -/
structure LaneMargin where
  eyeh : Nat
  eyew : Nat
  errs : Nat
  down : Bool
  /-- The thresholds of 15 R285 that Fjody has set since, if it has set any: errors and eye height of WARN, then of RETIRED. -/
  thresh : Option (List Nat)
  deriving DecidableEq, Repr

/-- A stream: source device, core, warp and class (07 R137, 15 R289); `co` tells warps of one number apart that belong to different
cohorts of the core (17 R333). -/
structure Stream where
  dev  : Nat
  core : Nat
  co   : Nat
  warp : Nat
  cls  : Nat
  deriving DecidableEq, Repr

/-- What a fabric request asks (15 R295): offsets of a write's bytes count from the request's address; those of the second list carry a
poison mark (03 R75). -/
inductive RemOp where
  | read (len : Nat)
  | write (bytes : List (Nat × Byte)) (psn : List Nat)
  | atomic (op : Aop) (w : Width) (val : Word)
  | cas (w : Width) (exp new : Word)
  | signal (op : Aop) (val : Word)
  deriving DecidableEq, Repr

/-- A fabric request that arrives from another device (15 R286, R292, R293). -/
structure RemReq where
  st     : Stream
  sn     : Nat
  marked : Bool
  port   : Nat
  ctx    : Nat
  va     : Nat
  op     : RemOp
  job    : Nat
  deriving DecidableEq, Repr

/-- The answer to a request this device sent (15 R289, R293, R421), or the news that the request has frozen its stream, or that the
stream resumes; data comes with the offsets of its poisoned bytes, and a value with
whether its granule was poisoned (03 R77). -/
inductive Answer where
  | done
  | data (bytes : List Byte) (psn : List Nat)
  | value (v : Word) (psn : Bool)
  | stale | aborted | lost | unsup | nowin
  | frozen | resumed
  deriving DecidableEq, Repr

/-- A participant of a Decant job (15 R298). -/
inductive Member where
  | device (n : Nat)
  | node (n : Nat)
  deriving DecidableEq, Repr

/-- A participant set, in its fixed order (15 R298). -/
abbrev MemberList := List Member

/-- A QFIX's content (15 R302): a new participant set, if it names one; and whether a warp of the job is resident on another
participating device. -/
structure QfixReq where
  set  : Option MemberList
  away : Bool
  deriving DecidableEq, Repr

/-- What the other participants reported on one pass of a wave (15 R299). -/
structure WaveSum where
  i : Nat
  c : Nat
  a : Nat
  deriving DecidableEq, Repr

/-- A Caddy as the firmware of the module's flash starts it (21 R394; 27 R416): its registers x1 to x31, its pc, mtvec and mscratch, and its
memory. -/
structure Firmware where
  x        : List (Nat × Word)
  pc       : Word
  mtvec    : Word
  mscratch : Word
  mem      : List (Nat × Byte)
  deriving DecidableEq, Repr

/-- The outcome of verification and self-test at power-on or warm reset (21 R394, 19 R367), and the firmware of each die's Caddy, where it is
known. -/
structure SelfTest where
  sigOk  : Bool
  groups : BitVec 64
  stacksOk : BitVec 12
  ports  : BitVec 32
  fw     : List Firmware
  deriving DecidableEq, Repr

/-- A write of a Caddy to ALERT (27 R415): its value, and whether it falls in the very cycle in which the die's last estimate was made, which the
order of two steps cannot show. -/
structure AlertWrite where
  val  : Word
  same : Bool
  deriving DecidableEq, Repr

/-- One rail sample (21 R396). -/
structure RailValue where
  mv   : Nat
  ma   : Nat
  temp : Nat
  deriving DecidableEq, Repr

/-- What TELEM asks for (21 Table 21.2). -/
inductive TelemSel where
  | decant | counters | lanes | rails (rail : Nat) | power (die : Nat) | thermal (die : Nat)
  deriving DecidableEq, Repr

/-- The debugger's commands (18 R364, 16 R331, 18 R360). -/
inductive DbgCmd where
  | pcCmp (core idx : Nat) (ctl qual : Word)
  | dataCmp (core idx : Nat) (ctl qual : Word)
  | cmpCtx (core ctx : Nat)
  | halt (wid : Nat)
  | resume (wid : Nat)
  | kill (wid : Nat)
  | release (core : Nat)
  | step (wid : Nat) (on : Bool)
  deriving DecidableEq, Repr

/-- A word of a warp's storage (19 Table 19.1): of a vector register or a latch by lane, a scalar register, a word of the frame store. -/
inductive RegSite where
  | v (r lane : Nat)
  | x (k lane : Nat)
  | s (r : Nat)
  | frame (i : Nat)
  deriving DecidableEq, Repr

/-- A place in a cohort's banks: a 4-byte word of scratch, of a FIFO counted from its head, of a line in the L1. -/
inductive CoSite where
  | scratch (word : Nat)
  | fifo (q i : Nat)
  | l1 (line word : Nat)
  deriving DecidableEq, Repr

/-- A word of which the cores of a lockstep pair hold a copy each (19 R371): of a warp's storage, of a cohort's banks, of a slot. -/
inductive OddSite where
  | reg (wid : Nat) (r : RegSite)
  | bank (cid : Nat) (b : CoSite)
  | slot (core n word : Nat)
  deriving DecidableEq, Repr

/-- Where a soft error arises (19 R368, R371, 03 R73): `state` is the parity-protected state of a warp or a cohort, `odd` a word of the odd
core of a lockstep pair alone, with what it changes to, a slot's word none its metadata. -/
inductive ErrSite where
  | dram (granule : Nat) (correctable : Bool)
  | l2 (granule : Nat) (correctable : Bool)
  | reg (wid : Nat) (r : RegSite) (correctable : Bool)
  | odd (o : OddSite) (val : Word)
  | warpState (wid : Nat)
  | bank (cid : Nat) (b : CoSite) (correctable : Bool)
  | cohortState (cid : Nat)
  | slot (core n : Nat) (word : Option Nat) (correctable : Bool)
  | icache (core : Nat)
  | tlb (core : Nat)
  | dieTlb (die : Nat)
  deriving DecidableEq, Repr


/-- The instructions, one constructor per row of the opcode table. -/
inductive Instr where
  -- V slot (11, 12)
  | vnop
  | vadd (h : VHead) (a : Opd) (b : Opd) (sat : Bool)
  | vsub (h : VHead) (a : Opd) (b : Opd) (sat : Bool)
  | vmul (h : VHead) (a : Opd) (b : Opd) (sat : Bool)
  | vmulh (h : VHead) (a : Opd) (b : Opd)
  | vmad (h : VHead) (a : Opd) (b : Opd) (c : Opd) (sat : Bool)
  | vneg (h : VHead) (a : Opd) (sat : Bool)
  | vabs (h : VHead) (a : Opd) (sat : Bool)
  | vmin (h : VHead) (a : Opd) (b : Opd)
  | vmax (h : VHead) (a : Opd) (b : Opd)
  | vavg (h : VHead) (a : Opd) (b : Opd) (fl : Bool)
  | vsad (h : VHead) (a : Opd) (b : Opd) (c : Opd) (sat : Bool)
  | vdot (h : VHead) (a : Opd) (b : Opd) (c : Opd) (sat : Bool)
  | vshl (h : VHead) (a : Opd) (b : Opd) (sat : Bool)
  | vshr (h : VHead) (a : Opd) (b : Opd)
  | vsra (h : VHead) (a : Opd) (b : Opd)
  | vrot (h : VHead) (a : Opd) (b : Opd)
  | vand (h : VHead) (a : Opd) (b : Opd)
  | vor (h : VHead) (a : Opd) (b : Opd)
  | vxor (h : VHead) (a : Opd) (b : Opd)
  | vandn (h : VHead) (a : Opd) (b : Opd)
  | vnot (h : VHead) (a : Opd)
  | vclz (h : VHead) (a : Opd)
  | vpopc (h : VHead) (a : Opd)
  | vbrev (h : VHead) (a : Opd)
  | vbfx (h : VHead) (a : Opd) (b : Opd)
  | vbfi (h : VHead) (a : Opd) (b : Opd) (c : Opd)
  | vcmp (h : VHead) (a : Opd) (b : Opd) (cc : Cmp)
  | vsel (h : VHead) (a : Opd) (b : Opd) (c : Opd)
  | vmov (h : VHead) (a : Opd)
  | vprm (h : VHead) (a : Opd) (b : Opd) (c : Opd)
  | vlane (h : VHead) (m : LaneMode)
  | vaddi (h : VImm) (a : Sel) (imm : BitVec 32)
  | vandi (h : VImm) (a : Sel) (imm : BitVec 32)
  | vori (h : VImm) (a : Sel) (imm : BitVec 32)
  | vxori (h : VImm) (a : Sel) (imm : BitVec 32)
  | vimm (h : VImm) (imm : BitVec 32)
  | vfadd (h : VHead) (a : Opd) (b : Opd) (sat : Bool) (r : Rnd)
  | vfsub (h : VHead) (a : Opd) (b : Opd) (sat : Bool) (r : Rnd)
  | vfmul (h : VHead) (a : Opd) (b : Opd) (sat : Bool) (r : Rnd)
  | vfma (h : VHead) (a : Opd) (b : Opd) (c : Opd) (sat : Bool) (r : Rnd)
  | vfnma (h : VHead) (a : Opd) (b : Opd) (c : Opd) (sat : Bool) (r : Rnd)
  | vfmin (h : VHead) (a : Opd) (b : Opd)
  | vfmax (h : VHead) (a : Opd) (b : Opd)
  | vfcmp (h : VHead) (a : Opd) (b : Opd) (cc : FCmp)
  | vfclass (h : VHead) (a : Opd)
  | vfrnd (h : VHead) (a : Opd) (r : Rnd)
  | vfscl (h : VHead) (a : Opd) (b : Opd) (sat : Bool) (r : Rnd)
  | vfdot2 (h : VHead) (a : Opd) (b : Opd) (c : Opd) (sat : Bool) (r : Rnd)
  | vfkey (h : VHead) (a : Opd)
  | vcvt (h : VHead) (a : Opd) (src : Etype) (sat : Bool) (r : Rnd)
  | vpack (h : VHead) (a : Opd) (b : Opd) (src : Etype) (sat : Bool) (r : Rnd)
  | vunpk (h : VHead) (a : Opd) (src : Etype)
  | vbexp (h : VHead) (a : Opd)
  | vbq (h : VHead) (a : Opd)
  | vbdq (h : VHead) (a : Opd) (sat : Bool) (r : Rnd)
  | vrcp (h : VHead) (a : Opd) (sat : Bool)
  | vrsq (h : VHead) (a : Opd) (sat : Bool)
  | vsqrt (h : VHead) (a : Opd) (sat : Bool)
  | vexp2 (h : VHead) (a : Opd) (sat : Bool)
  | vlog2 (h : VHead) (a : Opd) (sat : Bool)
  | vsinp (h : VHead) (a : Opd) (sat : Bool)
  | vcosp (h : VHead) (a : Opd) (sat : Bool)
  | vtanh (h : VHead) (a : Opd) (sat : Bool)
  | vshfl (h : VHead) (a : Opd) (b : Opd)
  | vshflr (h : VHead) (a : Opd) (b : Opd) (m : ShflMode)
  | vbcst (h : VHead) (a : Opd) (b : Opd)
  | vscan (h : VHead) (a : Opd) (sat : Bool) (r : Rnd) (op : RedOp) (ex : Bool)
  | vred (h : VHead) (a : Opd) (sat : Bool) (r : Rnd) (op : RedOp)
  | vcomp (h : VHead) (a : Opd)
  | vget (h : VHead) (a : Opd) (b : Opd)
  | vins (h : VHead) (a : Opd) (b : Opd)
  | vtrd (h : VHead) (hd : Reg) (b : Opd)
  | vtwr (h : VHead) (a : Opd) (b : Opd)
  -- M slot (08)
  | mnop
  | lld (d : Reg) (w : Width) (a : LAddr) (le : Bool) (xn : Fin 8)
  | lst (d : Reg) (w : Width) (a : LAddr)
  | llds (d : Reg) (w : Width) (sb : Reg) (imm : BitVec 16)
  | lsts (d : Reg) (w : Width) (sb : Reg) (imm : BitVec 16)
  | latom (d : Reg) (w : Width) (a : GAddr) (op : Aop)
  | lcas (d : Reg) (w : Width) (a : GAddr)
  | qenq (d : Reg) (w : Width) (sb : Reg) (imm : BitVec 16)
  | qdeq (d : Reg) (w : Width) (sb : Reg) (imm : BitVec 16) (le : Bool) (xn : Fin 8)
  | qstat (d : Reg) (sb : Reg) (imm : BitVec 16)
  | gld (k : MHead) (f : FlagNo) (d : Reg) (w : Width) (a : GAddr)
  | gst (k : MHead) (f : Option FlagNo) (d : Reg) (w : Width) (a : GAddr)
  | gatom (k : MHead) (f : FlagNo) (d : Reg) (w : Width) (a : GAddr) (op : Aop)
  | gred (k : MHead) (f : Option FlagNo) (d : Reg) (w : Width) (a : GAddr) (op : Aop)
  | gcas (k : MHead) (f : FlagNo) (d : Reg) (w : Width) (a : GAddr)
  | gldc (k : MHead) (d : Reg) (w : Width) (a : LAddr) (le : Bool) (xn : Fin 8)
  | sldc (k : MHead) (d : Reg) (w : Width) (sb : Reg) (imm : BitVec 16)
  | sgld (k : MHead) (f : FlagNo) (d : Reg) (w : Width) (sb : Reg) (imm : BitVec 16)
  | sgst (k : MHead) (f : Option FlagNo) (d : Reg) (w : Width) (sb : Reg) (imm : BitVec 16)
  | fence (kind : FenceKind) (sc : Scope) (f : Option FlagNo) (mask : BitVec 16)
  | l1inv
  | wcfl (f : FlagNo)
  | pref (w : Width) (a : LAddr)
  | hint (f : Option FlagNo) (d : Reg) (sb : Reg) (sh : Reg) (imm : BitVec 16)
  | phase (imm : BitVec 16)
  | signal (k : MHead) (f : Option FlagNo) (d : Reg) (sb : Reg) (imm : BitVec 16) (op : Aop)
  | sack (sb : Reg) (imm : BitVec 16)
  | quiet (f : FlagNo) (d : Reg)
  | sarm (q : Fin 16) (sb : Reg) (imm : BitVec 16)
  | sarmOff (sb : Reg) (imm : BitVec 16)
  | launch (f : FlagNo) (d : Reg) (sb : Reg) (imm : BitVec 16)
  | pgfetch (f : FlagNo) (kind : PgKind) (d : Reg) (sb : Reg) (imm : BitVec 16)
  | xinv (f : Option FlagNo) (d : Reg) (sb : Reg) (imm : BitVec 16)
  -- E slot (09, 10, 14)
  | enop
  | cpygl (k : MHead) (f : FlagNo) (sa : Reg) (sd : Reg) (sg : Reg) (sx : Reg)
  | cpylg (k : MHead) (f : FlagNo) (sa : Reg) (sd : Reg) (sg : Reg) (sx : Reg)
  | cpyll (f : FlagNo) (sa : Reg) (sd : Reg) (sg : Reg) (sx : Reg)
  | cpygg (k : MHead) (f : FlagNo) (sa : Reg) (sd : Reg) (sg : Reg) (sx : Reg) (pk : Bool)
  | cpyfil (f : FlagNo) (sd : Reg) (sg : Reg) (imm : BitVec 16) (hi : Bool) (g : Option CpyG)
  | cpyp (f : FlagNo) (sa : Reg) (sg : Reg) (ch : BitVec 16)
  | tld (f : Option FlagNo) (hd : Reg) (base : Reg) (pit : Reg) (tr : Bool)
  | tst (f : FlagNo) (hd : Reg) (base : Reg) (pit : Reg) (tr : Bool)
  | talloc (hd : Reg) (sdesc : Reg) (sst : Reg)
  | tfree (hd : Reg)
  | thand (hd : Reg) (st : Reg)
  | ttake (hd : Reg) (se : Reg) (sst : Reg)
  | tdesc (hd : Reg) (sd : Reg)
  | tsetd (hd : Reg) (sdesc : Reg)
  | mzero (f : Option FlagNo) (hd : Reg)
  | mhfa (f : Option FlagNo) (et : MType) (hd : Reg) (ha : Reg) (hb : Reg) (x32 : Bool) (win : Option Win)
  | mbmm (f : Option FlagNo) (rg : RungSel) (hd : Reg) (ha : Reg) (hb : Reg) (win : Option Win)
  | msca (f : Option FlagNo) (hd : Reg) (ha : Reg)
  | mhad (f : Option FlagNo) (et : MType) (hd : Reg)
  | mdrn (f : Option FlagNo) (hd : Reg) (ha : Reg) (blk : Fin 16)
  | mcvt (f : Option FlagNo) (et : MType) (hd : Reg) (ha : Reg)
  | madd (f : Option FlagNo) (et : MType) (hd : Reg) (ha : Reg)
  | mscl (f : Option FlagNo) (hd : Reg) (ha : Reg) (row : Bool)
  | msetd (f : Option FlagNo) (sa : Reg)
  -- C slot (16)
  | cnop
  | sadd (d : Reg) (a : Reg) (b : Reg)
  | ssub (d : Reg) (a : Reg) (b : Reg)
  | smul (d : Reg) (a : Reg) (b : Reg)
  | smulh (d : Reg) (a : Reg) (b : Reg) (u : Bool)
  | sdiv (d : Reg) (a : Reg) (b : Reg) (u : Bool)
  | srem (d : Reg) (a : Reg) (b : Reg) (u : Bool)
  | sand (d : Reg) (a : Reg) (b : Reg)
  | sor (d : Reg) (a : Reg) (b : Reg)
  | sxor (d : Reg) (a : Reg) (b : Reg)
  | sandn (d : Reg) (a : Reg) (b : Reg)
  | sshl (d : Reg) (a : Reg) (b : Reg)
  | sshr (d : Reg) (a : Reg) (b : Reg)
  | ssra (d : Reg) (a : Reg) (b : Reg)
  | smin (d : Reg) (a : Reg) (b : Reg) (u : Bool)
  | smax (d : Reg) (a : Reg) (b : Reg) (u : Bool)
  | scmp (cc : Cmp) (d : Reg) (a : Reg) (b : Reg)
  | ssel (d : Reg) (a : Reg) (b : Reg) (c : Reg)
  | spopc (d : Reg) (a : Reg)
  | sclz (d : Reg) (a : Reg)
  | sctz (d : Reg) (a : Reg)
  | sbfx (d : Reg) (a : Reg) (b : Reg) (sx : Bool)
  | sbfi (d : Reg) (a : Reg) (b : Reg) (c : Reg)
  | saddi (d : Reg) (a : Reg) (imm : BitVec 32)
  | sandi (d : Reg) (a : Reg) (imm : BitVec 32)
  | sori (d : Reg) (a : Reg) (imm : BitVec 32)
  | sxori (d : Reg) (a : Reg) (imm : BitVec 32)
  | sli (d : Reg) (imm : BitVec 32)
  | slih (d : Reg) (a : Reg) (imm : BitVec 32)
  | sshli (d : Reg) (a : Reg) (n : Fin 64)
  | sshri (d : Reg) (a : Reg) (n : Fin 64) (ar : Bool)
  | sget (d : Reg) (n : BitVec 8)
  | sset (n : BitVec 8) (a : Reg)
  | emset (a : Reg)
  | emand (d : Reg) (a : Reg)
  | emget (d : Reg)
  | exit (m : Option Reg)
  | br (off : BitVec 32)
  | bc (cc : BCond) (cr : Reg) (off : BitVec 32)
  | bzm (off : BitVec 32)
  | jr (a : Reg) (kind : Fin 16)
  | call (d : Reg) (off : BitVec 32)
  | callr (d : Reg) (a : Reg) (kind : Fin 16)
  | ret (a : Reg)
  | lpad (kind : Fin 16)
  | loop (lvl : Fin 2) (cr : Reg) (off : BitVec 32)
  | loopi (lvl : Fin 2) (cnt : BitVec 16) (fin : BitVec 16)
  | loopx (lvl : Fin 2)
  | waitf (t : Option WaitArg)
  | yield
  | bjoin (a : Reg) (imm : BitVec 32)
  | bleave (a : Reg) (imm : BitVec 32)
  | barv (a : Reg) (imm : BitVec 32)
  | bwait (a : Reg) (imm : BitVec 32)
  | bsync (a : Reg) (imm : BitVec 32)
  | sent
  | sentClose
  | step (a : Reg)
  | trap (imm : BitVec 16)
  | rft
  | tfrd (d : Reg) (a : Reg) (imm : BitVec 32)
  | tfwr (v : Reg) (a : Reg) (imm : BitVec 32)
  | brk (imm : BitVec 12)
  | haltw
  -- The other steps (95)
  | bundleIssue (core : Nat)
  | resultWriteback (core : Nat)
  | asyncResultWrite (core : Nat) (id : Nat)
  | accessComplete (core : Nat) (id : Nat)
  | trapDelivery (wid : Nat)
  | sentenceRestart (wid : Nat)
  | lockstepDisagreement (wid : Nat)
  | warpSwitch (core : Nat)
  | quantumExpiry (core : Nat)
  | holdtmo (core : Nat)
  | waitfWake (wid : Nat)
  | barrierRelease (cid : Nat) (b : Nat)
  | fifoOpResume (core : Nat)
  | phaseDrainEnd (cid : Nat)
  | warpResourceRelease (wid : Nat)
  | slotClearDone (core : Nat) (slot : Nat)
  | vtwrCommit (core : Nat)
  | matrixEntryStart (core : Nat)
  | mbmmPassEnd (core : Nat) (id : Nat)
  | matrixEntryFinish (core : Nat) (id : Nat)
  | copyComplete (core : Nat) (id : Nat)
  | copySuspend (core : Nat) (id : Nat)
  | cpypFlitArrival (core : Nat) (id : Nat)
  | signalRecordAppend (core : Nat) (slot : Nat)
  | lineRequest (core : Nat) (id : Nat)
  | l2Atomic (core : Nat) (id : Nat)
  | pinRetryReplay (line : Nat)
  | pinTimeout (line : Nat)
  | l2Writeback (g : Nat)
  | eccWriteback (g : Nat)
  | scrub (g : Nat)
  | heartbeatReceived (stack : Nat)
  | heartbeatMiss (stack : Nat)
  | stackFailed (stack : Nat)
  | stackRetrainDone (stack : Nat)
  | tlbWalkStart (core : Nat) (ctx : Nat) (va : Nat)
  | walkComplete (die : Nat) (ctx : Nat) (va : Nat)
  | tierPromote (ctx : Nat) (p : TierMove)
  | migrationComplete (ctx : Nat) (va : Nat)
  | migrationNodeFailure (ctx : Nat) (va : Nat)
  | wcAgeDrain (core : Nat) (id : Nat)
  | linkTrain (trunk : Nat) (r : TrainResult)
  | laneStateChange (lane : Nat) (m : LaneMargin)
  | laneRetire (lane : Nat)
  | pathDown (path : Nat)
  | retransmit (path : Nat)
  | remoteRequestArrival (q : RemReq)
  | streamResume (st : Stream)
  | streamAbort (st : Stream)
  | remoteReply (rid : Nat) (ans : Answer)
  | drcExpire (port : Nat)
  | waveStart (job : Nat)
  | waveEnd (job : Nat) (p1 : WaveSum) (p2 : WaveSum)
  | qtmoExpiry (core : Nat) (id : Nat)
  | participantTimeout (job : Nat) (p : Member)
  | nodeFailure (node : Nat)
  | gangPlace (part : Nat) (p : Placement)
  | launchComplete (uid : Nat)
  | watchdogExpiry (uid : Nat)
  | stubRedirect (ctx : Nat) (stub : Nat) (off : BitVec 32)
  | powerOn (t : SelfTest)
  | inputDisconnect (volts : Nat)
  | railSample (rail : Nat) (r : RailValue)
  | fluxEstimate (die : Nat) (flux : Nat) (pwr : Nat)
  | backstop (die : Nat)
  | caddyExtInterrupt (die : Nat)
  | caddyTimerInterrupt (die : Nat)
  | alertClear (die : Nat) (w : AlertWrite)
  | throtWrite (die : Nat) (g : Nat) (val : Word)
  | capfluxWrite (die : Nat) (val : Word)
  | pcapWrite (die : Nat) (val : Word)
  | powerRegWrite (die : Nat) (off : Nat) (val : Word)
  | otherDatagram (d : Datagram)
  | session (k : Hdr)
  | ctxnew (k : Hdr) (ctx : Nat) (root : Nat)
  | ctxend (k : Hdr) (ctx : Nat)
  | map (k : Hdr) (ctx : Nat) (r : MapReq)
  | unmap (k : Hdr) (ctx : Nat) (va : Nat) (pages : Nat) (sz : PageSize)
  | write (k : Hdr) (ctx : Nat) (va : Nat) (data : List Byte)
  | read (k : Hdr) (ctx : Nat) (va : Nat) (len : Nat)
  | modload (k : Hdr) (ctx : Nat) (m : ModuleImage)
  | hostLaunch (k : Hdr) (q : Nat) (b : LaunchBatch)
  | queueCreate (k : Hdr) (q : Nat) (part : Nat) (level : Nat) (cap : Nat)
  | queueBind (k : Hdr) (q : Nat) (part : Nat)
  | queueEnd (k : Hdr) (q : Nat)
  | queueSet (k : Hdr) (q : Nat) (level : Nat) (cap : Nat) (wdt : Nat)
  | part (k : Hdr) (ps : List PartReq)
  | preempt (k : Hdr) (gang : Nat)
  | resume (k : Hdr) (gang : Nat) (p : Placement)
  | reset (k : Hdr) (t : SelfTest)
  | qfix (k : Hdr) (job : Nat) (r : QfixReq)
  | stackcfg (k : Hdr) (stack : Nat) (ratio : LaneRatio)
  | window (k : Hdr) (win : Nat) (w0 : Word) (w1 : Word) (path : Nat) (alt : Option Nat)
  | telem (k : Hdr) (what : TelemSel)
  | attest (k : Hdr) (nonce : BitVec 256)
  | power (k : Hdr) (die : Nat) (pcap : Nat) (capflux : Nat)
  | fjodyDebug (k : Hdr) (cmd : DbgCmd)
  | landingPadCheck (wid : Nat)
  | inflightReplay (wid : Nat)
  | refreshHandBack (stack : Nat)
  | registerParticipantSet (job : Nat) (set : MemberList)
  | softError (e : ErrSite)
  deriving DecidableEq, Repr

end Sys2Proof
end

