-- ==== Sys2Proof/WellFormed.lean ====
section
/-! DEFINITION. Static legality of an instruction: the ILLOP details of spec 02 Table 2.2 that the
instruction's own fields decide. Detail 1 (unmapped opcode), detail 2 (an operand select of 0x88 to
0xBF), a field with a reserved code and a nonzero zero field have no `Instr` and are Decode's; detail 6
(a register at or above the warp's count) and the cohort's and channel's checks are the machine's. -/

namespace Sys2Proof

/-- The least detail whose check is violated (02 R42: the detail code is the lowest that applies). -/
def lowest : List (Bool × Nat) → Option Nat
  | [] => none
  | (b, d) :: l =>
    match b, lowest l with
    | false, r => r
    | true, none => some d
    | true, some e => some (min d e)

theorem lowest_eq_none (l : List (Bool × Nat)) : lowest l = none ↔ ∀ p ∈ l, p.1 = false := by
  induction l with
  | nil => simp [lowest]
  | cons p l ih =>
    obtain ⟨b, d⟩ := p
    cases b
    · simpa [lowest] using ih
    · cases h : lowest l <;> simp [lowest, h]

/-- Elements per lane (02 Table 2.8). -/
def Etype.count : Etype → Nat
  | .n32 | .i32 | .f32 => 1
  | .n16x2 | .i16x2 | .f16x2 | .b16x2 => 2
  | .n8x4 | .i8x4 => 4
  | .n4x8 | .i4x8 => 8

/-- Element width in bits (02 Table 2.8). -/
def Etype.width (e : Etype) : Nat := 32 / e.count

/-- The unsigned integer types. -/
def Etype.isN : Etype → Bool
  | .n32 | .n16x2 | .n8x4 | .n4x8 => true
  | _ => false

/-- The signed integer types. -/
def Etype.isI : Etype → Bool
  | .i32 | .i16x2 | .i8x4 | .i4x8 => true
  | _ => false

/-- The floating-point types. -/
def Etype.isF : Etype → Bool
  | .f32 | .f16x2 | .b16x2 => true
  | _ => false

/-- The etype sets of 11 R212 and 12 R225. -/
inductive EtSet where
  | int | signed | all | i32s | w32 | flt | half | dot
  deriving DecidableEq, Repr

/-- Membership of an etype set. -/
def EtSet.has : EtSet → Etype → Bool
  | .int, e => e.isN || e.isI
  | .signed, e => e.isI
  | .all, _ => true
  | .i32s, e => e == .n32 || e == .i32
  | .w32, e => e == .n32 || e == .i32 || e == .f32
  | .flt, e => e.isF
  | .half, e => e == .f16x2 || e == .b16x2
  | .dot, e => e == .n8x4 || e == .i8x4 || e == .n4x8 || e == .i4x8

/-- Is the modifier legal on a value of this type (02 R54)? -/
def Modifier.okOn (e : Etype) : Modifier → Bool
  | .none => true
  | .neg | .abs => !e.isN
  | _ => e.count != 1

/-- The operand selects a scalar register or a constant, as "(s)" asks (11 R212, 12 R225). -/
def Sel.scalarLike : Sel → Bool
  | .s _ | .c _ => true
  | _ => false

/-- The operand selects a scalar register. -/
def Sel.isScalar : Sel → Bool
  | .s _ => true
  | _ => false

/-- The integer type that VFSCL reads its count as (12 Table 12.2). -/
def Etype.countType : Etype → Etype
  | .f32 => .i32
  | _ => .i16x2

/-- How an instruction reads an operand: as the etype, as a fixed type, as a scalar or constant of a
fixed type, as a scalar mask (11 Table 11.1, 12 Table 12.1). -/
inductive OpKind where
  | as (e : Etype)
  | sc (e : Etype)
  | mask
  deriving DecidableEq, Repr

/-- The violated checks of one operand. -/
def Opd.details (k : OpKind) (o : Opd) : List (Bool × Nat) :=
  match k with
  | .as e => [(!o.md.okOn e, 3)]
  | .sc e => [(!o.sel.scalarLike, 4), (!o.md.okOn e, 3)]
  | .mask => [(!o.sel.isScalar, 4), (o.md != .none, 3)]

/-- The checks of a V instruction: its etype, then its operands. -/
def vDetails (set : EtSet) (e : Etype) (ops : List (OpKind × Opd)) : List (Bool × Nat) :=
  (!set.has e, 4) :: ops.flatMap fun p => p.2.details p.1

/-- A pair or quad begins at an even register or a multiple of 4 (02 R44). -/
def Width.misaligned (w : Width) (d : Reg) : Bool :=
  match w with
  | .w64 => d.val % 2 != 0
  | .w128 => d.val % 4 != 0
  | _ => false

/-- The width of the register group of a CAS: twice the datum (08 R147). -/
def Width.doubled : Width → Width
  | .w64 => .w128
  | _ => .w64

/-- Widths 000 to 010. -/
def Width.upTo32 : Width → Bool
  | .w8 | .w16 | .w32 => true
  | _ => false

/-- Widths 000 to 011. -/
def Width.upTo64 : Width → Bool
  | .w128 => false
  | _ => true

/-- The widths of atomics, 010 and 011. -/
def Width.atomic : Width → Bool
  | .w32 | .w64 => true
  | _ => false

/-- FADD, FMIN and FMAX, legal only with width 010 (08 R147). -/
def Aop.isFloat : Aop → Bool
  | .fadd | .fmin | .fmax => true
  | _ => false

/-- The checks of an atomic's width, operation and data register (08 R140, R147). -/
def atomicDetails (w : Width) (d : Reg) (op : Aop) : List (Bool × Nat) :=
  [(!w.atomic, 4), (op.isFloat && w != .w32, 4), (w.misaligned d, 7)]

/-- The checks of a CAS's width and registers (08 R140, R147). -/
def casDetails (w : Width) (d : Reg) : List (Bool × Nat) :=
  [(!w.atomic, 4), (w.doubled.misaligned d, 7)]

/-- The read-only special registers (02 Table 2.12, access R). -/
def specialReadOnly (n : Nat) : Bool :=
  n ≤ 0x07 || n == 0x09 || n == 0x0A || n == 0x0D || n == 0x0E || n == 0x14 || n == 0x15 || n == 0x16 ||
  n == 0x28 || n == 0x29

/-- Numbers 0x2D to 0xFF are unassigned (02 R63). -/
def specialUnassigned (n : Nat) : Bool := 0x2D ≤ n

/-- An odd pitch pair (02 R59). -/
def oddPair (r : Reg) : Bool := r.val % 2 != 0

/-- The VSCAN and VRED operations that a float etype has (12 Table 12.8). -/
def RedOp.onFloat : RedOp → Bool
  | .add | .mini | .maxi => true
  | _ => false

/-- Every static check of an instruction, with its detail code (02 R42, Table 2.2). -/
def Instr.details : Instr → List (Bool × Nat)
  | .vadd h a b _ => vDetails .int h.et [(.as h.et, a), (.as h.et, b)]
  | .vsub h a b _ => vDetails .int h.et [(.as h.et, a), (.as h.et, b)]
  | .vmul h a b _ => vDetails .int h.et [(.as h.et, a), (.as h.et, b)]
  | .vmulh h a b => vDetails .int h.et [(.as h.et, a), (.as h.et, b)]
  | .vmad h a b c _ => vDetails .int h.et [(.as h.et, a), (.as h.et, b), (.as h.et, c)]
  | .vneg h a _ => vDetails .signed h.et [(.as h.et, a)]
  | .vabs h a _ => vDetails .signed h.et [(.as h.et, a)]
  | .vmin h a b => vDetails .int h.et [(.as h.et, a), (.as h.et, b)]
  | .vmax h a b => vDetails .int h.et [(.as h.et, a), (.as h.et, b)]
  | .vavg h a b _ => vDetails .int h.et [(.as h.et, a), (.as h.et, b)]
  | .vsad h a b c _ => vDetails .int h.et [(.as h.et, a), (.as h.et, b), (.as .n32, c)]
  | .vdot h a b c _ => vDetails .dot h.et [(.as h.et, a), (.as h.et, b), (.as .i32, c)]
  | .vshl h a b _ => vDetails .int h.et [(.as h.et, a), (.as h.et, b)]
  | .vshr h a b => vDetails .int h.et [(.as h.et, a), (.as h.et, b)]
  | .vsra h a b => vDetails .int h.et [(.as h.et, a), (.as h.et, b)]
  | .vrot h a b => vDetails .int h.et [(.as h.et, a), (.as h.et, b)]
  | .vand h a b => vDetails .all h.et [(.as h.et, a), (.as h.et, b)]
  | .vor h a b => vDetails .all h.et [(.as h.et, a), (.as h.et, b)]
  | .vxor h a b => vDetails .all h.et [(.as h.et, a), (.as h.et, b)]
  | .vandn h a b => vDetails .all h.et [(.as h.et, a), (.as h.et, b)]
  | .vnot h a => vDetails .all h.et [(.as h.et, a)]
  | .vclz h a => vDetails .int h.et [(.as h.et, a)]
  | .vpopc h a => vDetails .int h.et [(.as h.et, a)]
  | .vbrev h a => vDetails .int h.et [(.as h.et, a)]
  | .vbfx h a b => vDetails .i32s h.et [(.as h.et, a), (.as .n32, b)]
  | .vbfi h a b c => vDetails .i32s h.et [(.as h.et, a), (.as .n32, b), (.as h.et, c)]
  | .vcmp h a b _ => vDetails .i32s h.et [(.as h.et, a), (.as h.et, b)] ++ [(h.d.le, 4)]
  | .vsel h a b c => vDetails .all h.et [(.as h.et, a), (.as h.et, b), (.mask, c)]
  | .vmov h a => vDetails .all h.et [(.as h.et, a)]
  | .vprm h a b c => vDetails .i32s h.et [(.as h.et, a), (.as h.et, b), (.as h.et, c)]
  | .vlane h _ => vDetails .i32s h.et []
  | .vaddi h _ _ => vDetails .int h.et []
  | .vandi h _ _ => vDetails .all h.et []
  | .vori h _ _ => vDetails .all h.et []
  | .vxori h _ _ => vDetails .all h.et []
  | .vimm h _ => vDetails .all h.et []
  | .vfadd h a b _ _ => vDetails .flt h.et [(.as h.et, a), (.as h.et, b)]
  | .vfsub h a b _ _ => vDetails .flt h.et [(.as h.et, a), (.as h.et, b)]
  | .vfmul h a b _ _ => vDetails .flt h.et [(.as h.et, a), (.as h.et, b)]
  | .vfma h a b c _ _ => vDetails .flt h.et [(.as h.et, a), (.as h.et, b), (.as h.et, c)]
  | .vfnma h a b c _ _ => vDetails .flt h.et [(.as h.et, a), (.as h.et, b), (.as h.et, c)]
  | .vfmin h a b => vDetails .flt h.et [(.as h.et, a), (.as h.et, b)]
  | .vfmax h a b => vDetails .flt h.et [(.as h.et, a), (.as h.et, b)]
  | .vfcmp h a b _ => vDetails .flt h.et [(.as h.et, a), (.as h.et, b)] ++ [(h.d.le, 4)]
  | .vfclass h a => vDetails .flt h.et [(.as h.et, a)]
  | .vfrnd h a _ => vDetails .flt h.et [(.as h.et, a)]
  | .vfscl h a b _ _ => vDetails .flt h.et [(.as h.et, a), (.as h.et.countType, b)]
  | .vfdot2 h a b c _ _ => vDetails .half h.et [(.as h.et, a), (.as h.et, b), (.as .f32, c)]
  | .vfkey h a => vDetails .flt h.et [(.as h.et, a)]
  | .vcvt h a src _ _ => vDetails .all h.et [(.as src, a)] ++ [(src.count != h.et.count, 4)]
  | .vpack h a b src _ _ => vDetails .all h.et [(.as src, a), (.as src, b)] ++ [(src.width != 2 * h.et.width, 4)]
  | .vunpk h a src => vDetails .all h.et [(.as src, a)] ++ [(h.et.width != 2 * src.width, 4)]
  | .vbexp h a => vDetails .flt h.et [(.as h.et, a)]
  | .vbq h a => vDetails .flt h.et [(.as h.et, a)]
  | .vbdq h a _ _ => vDetails .flt h.et [(.as .n32, a)]
  | .vrcp h a _ => vDetails .flt h.et [(.as h.et, a)]
  | .vrsq h a _ => vDetails .flt h.et [(.as h.et, a)]
  | .vsqrt h a _ => vDetails .flt h.et [(.as h.et, a)]
  | .vexp2 h a _ => vDetails .flt h.et [(.as h.et, a)]
  | .vlog2 h a _ => vDetails .flt h.et [(.as h.et, a)]
  | .vsinp h a _ => vDetails .flt h.et [(.as h.et, a)]
  | .vcosp h a _ => vDetails .flt h.et [(.as h.et, a)]
  | .vtanh h a _ => vDetails .flt h.et [(.as h.et, a)]
  | .vshfl h a b => vDetails .all h.et [(.as h.et, a), (.as .n32, b)]
  | .vshflr h a b _ => vDetails .all h.et [(.as h.et, a), (.as .n32, b)]
  | .vbcst h a b => vDetails .all h.et [(.as h.et, a), (.sc .n32, b)]
  | .vscan h a _ _ op _ => vDetails .all h.et [(.as h.et, a)] ++ [(h.et.isF && !op.onFloat, 4)]
  | .vred h a _ _ op => vDetails .all h.et [(.as h.et, a)] ++ [(h.et.isF && !op.onFloat, 4)]
  | .vcomp h a => vDetails .all h.et [(.as h.et, a)]
  | .vget h a b => vDetails .w32 h.et [(.as h.et, a), (.sc .n32, b)] ++ [(h.d.le, 4)]
  | .vins h a b => vDetails .w32 h.et [(.sc h.et, a), (.sc .n32, b)]
  | .vtrd h _ b => vDetails .all h.et [(.as .n32, b)]
  | .vtwr h a b => vDetails .all h.et [(.as h.et, a), (.as .n32, b)] ++ [(h.d.wbs || h.d.le, 4)]
  | .lld d w _ le _ => [(le && !w.upTo32, 4), (w.misaligned d, 7)]
  | .lst d w _ => [(w.misaligned d, 7)]
  | .llds _ w _ _ => [(!w.upTo64, 4)]
  | .lsts _ w _ _ => [(!w.upTo64, 4)]
  | .latom d w _ op => atomicDetails w d op
  | .lcas d w _ => casDetails w d
  | .qenq d w _ _ => [(w.misaligned d, 7)]
  | .qdeq d w _ _ le _ => [(le && !w.upTo32, 4), (w.misaligned d, 7)]
  | .gld _ _ d w _ => [(w.misaligned d, 7)]
  | .gst _ _ d w _ => [(w.misaligned d, 7)]
  | .gatom _ _ d w _ op => atomicDetails w d op
  | .gred _ _ d w _ op => atomicDetails w d op
  | .gcas _ _ d w _ => casDetails w d
  | .gldc _ d w _ le _ => [(le && !w.upTo32, 4), (w.misaligned d, 7)]
  | .sldc _ _ w _ _ => [(!w.upTo64, 4)]
  | .sgld _ _ _ w _ _ => [(!w.upTo64, 4)]
  | .sgst _ _ _ w _ _ => [(!w.upTo64, 4)]
  | .phase imm => [(imm.getLsbD 15, 5)]
  | .signal _ _ _ _ _ op => [(op.isFloat, 4)]
  | .cpygl _ _ _ _ _ sx => [(oddPair sx, 7)]
  | .cpylg _ _ _ _ _ sx => [(oddPair sx, 7)]
  | .cpyll _ _ _ _ sx => [(oddPair sx, 7)]
  | .cpygg _ _ _ _ _ sx _ => [(oddPair sx, 7)]
  | .cpyfil _ _ _ _ _ g => [(g.any fun q => oddPair q.sx, 7)]
  | .mhfa _ et _ _ _ _ _ => [(!(et == .f16 || et == .b16), 4)]
  | .mhad _ et _ => [(!(et == .f16 || et == .b16 || et == .f32), 4)]
  | .mcvt _ et _ _ => [(et == .block, 4)]
  | .madd _ et _ _ => [(!(et == .f32 || et == .i32), 4)]
  | .sget _ n => [(specialUnassigned n.toNat, 8)]
  | .sset n _ => [(specialUnassigned n.toNat || specialReadOnly n.toNat, 8)]
  | .loop _ _ off => [(off.toInt ≤ 0, 4)]
  | .loopi _ _ fin => [(fin.toNat == 0, 4)]
  | .vnop | .mnop | .enop | .cnop => []
  | .qstat _ _ _ | .fence _ _ _ _ | .wcfl _ | .pref _ _ | .hint _ _ _ _ _ | .sack _ _ | .quiet _ _ | .sarm _ _ _ 
  | .sarmOff _ _ | .launch _ _ _ _ | .pgfetch _ _ _ _ _ | .xinv _ _ _ _ | .cpyp _ _ _ _ | .tld _ _ _ _ _ 
  | .tst _ _ _ _ _ | .talloc _ _ _ | .tfree _ | .thand _ _ | .ttake _ _ _ | .tdesc _ _ | .tsetd _ _ | .mzero _ _ 
  | .mbmm _ _ _ _ _ _ | .msca _ _ _ | .mdrn _ _ _ _ | .mscl _ _ _ _ | .msetd _ _ | .sadd _ _ _ | .ssub _ _ _ 
  | .smul _ _ _ | .smulh _ _ _ _ | .sdiv _ _ _ _ | .srem _ _ _ _ | .sand _ _ _ | .sor _ _ _ | .sxor _ _ _ 
  | .sandn _ _ _ | .sshl _ _ _ | .sshr _ _ _ | .ssra _ _ _ | .smin _ _ _ _ | .smax _ _ _ _ | .scmp _ _ _ _ 
  | .ssel _ _ _ _ | .spopc _ _ | .sclz _ _ | .sctz _ _ | .sbfx _ _ _ _ | .sbfi _ _ _ _ | .saddi _ _ _ 
  | .sandi _ _ _ | .sori _ _ _ | .sxori _ _ _ | .sli _ _ | .slih _ _ _ | .sshli _ _ _ | .sshri _ _ _ _ 
  | .emset _ | .emand _ _ | .emget _ | .exit _ | .br _ | .bc _ _ _ | .bzm _ | .jr _ _ | .call _ _ | .callr _ _ _ 
  | .ret _ | .lpad _ | .loopx _ | .waitf _ | .bjoin _ _ | .bleave _ _ | .barv _ _ | .bwait _ _ | .bsync _ _ 
  | .step _ | .trap _ | .tfrd _ _ _ | .tfwr _ _ _ | .brk _ | .bundleIssue _ | .resultWriteback _ 
  | .asyncResultWrite _ _ | .accessComplete _ _ | .trapDelivery _ | .sentenceRestart _ | .lockstepDisagreement _ 
  | .warpSwitch _ | .quantumExpiry _ | .holdtmo _ | .waitfWake _ | .barrierRelease _ _ | .fifoOpResume _ 
  | .phaseDrainEnd _ | .warpResourceRelease _ | .slotClearDone _ _ | .vtwrCommit _ | .matrixEntryStart _ 
  | .mbmmPassEnd _ _ | .matrixEntryFinish _ _ | .copyComplete _ _ | .copySuspend _ _ | .cpypFlitArrival _ _ 
  | .signalRecordAppend _ _ | .lineRequest _ _ | .l2Atomic _ _ | .pinRetryReplay _ | .pinTimeout _ 
  | .l2Writeback _ | .eccWriteback _ | .scrub _ | .heartbeatReceived _ | .heartbeatMiss _ | .stackFailed _ 
  | .stackRetrainDone _ | .tlbWalkStart _ _ _ | .walkComplete _ _ _ | .tierPromote _ _ | .migrationComplete _ _ 
  | .migrationNodeFailure _ _ | .wcAgeDrain _ _ | .linkTrain _ _ | .laneStateChange _ _ | .laneRetire _ 
  | .pathDown _ | .retransmit _ | .remoteRequestArrival _ | .streamResume _ | .streamAbort _ | .remoteReply _ _ 
  | .drcExpire _ | .waveStart _ | .waveEnd _ _ _ | .qtmoExpiry _ _ | .participantTimeout _ _ | .nodeFailure _ 
  | .gangPlace _ _ | .launchComplete _ | .watchdogExpiry _ | .stubRedirect _ _ _ | .powerOn _ 
  | .inputDisconnect _ | .railSample _ _ | .fluxEstimate _ _ _ | .backstop _ | .caddyExtInterrupt _ 
  | .caddyTimerInterrupt _ | .alertClear _ _ | .throtWrite _ _ _ | .capfluxWrite _ _ | .pcapWrite _ _ 
  | .powerRegWrite _ _ _ | .otherDatagram _ | .session _ | .ctxnew _ _ _ | .ctxend _ _ | .map _ _ _ 
  | .unmap _ _ _ _ _ | .write _ _ _ _ | .read _ _ _ _ | .modload _ _ _ | .hostLaunch _ _ _
  | .queueCreate _ _ _ _ _ | .queueBind _ _ _ | .queueEnd _ _ | .queueSet _ _ _ _ _ | .part _ _ | .preempt _ _ 
  | .resume _ _ _ | .reset _ _ | .qfix _ _ _ | .stackcfg _ _ _ | .window _ _ _ _ _ _ | .telem _ _ | .attest _ _ 
  | .power _ _ _ _ | .fjodyDebug _ _ | .landingPadCheck _ | .inflightReplay _ | .refreshHandBack _ 
  | .registerParticipantSet _ _ | .softError _ | .l1inv | .yield | .sent | .sentClose | .rft | .haltw => []

/-- The lowest ILLOP detail that the instruction's own fields raise, if any (02 R42). -/
def Instr.illop (i : Instr) : Option Nat := lowest i.details

/-- An instruction whose own fields are legal. -/
abbrev WellFormed (i : Instr) : Prop := i.illop = none

end Sys2Proof
end

