-- ==== Sys2Proof/Decode.lean ====
section
/-! DEFINITION. The encodings of spec 02: the four syllables of a bundle, read into instructions, and
after it the encoder, written from the same tables (Tables 2.5 to 2.19, 8.1, 9.4, 10.4, 14.1, 16.1).
Reading is total on any bits. A syllable that no instruction has is rejected with its ILLOP detail
(02 Table 2.2). -/

namespace Sys2Proof

/-- The field of n bits at bit lo of a word. -/
def fld (w lo n : Nat) : Nat := w / 2 ^ lo % 2 ^ n

/-- A one-bit field. -/
def isOne (n : Nat) : Bool := n == 1

/-- A six-bit register field. -/
def reg (n : Nat) : Reg := Fin.ofNat 64 n

/-- What a syllable reads as: the instruction, as far as its fields name one, and the checks that only
the raw fields can fail. -/
structure Dec where
  i   : Instr
  bad : List (Bool × Nat)

/-! Codes (02 Tables 2.6 to 2.11, 2.16, 2.17; 11 Table 11.3; 12 Tables 12.7, 12.8; 07 Table 7.2). -/

/-- 02 Table 2.6. The illegal values 0x88 to 0xBF are flagged by `selBad`. -/
def selOf (n : Nat) : Sel :=
  if n < 64 then .v (.ofNat 64 n)
  else if n < 128 then .s (.ofNat 64 n)
  else if n < 136 then .x (.ofNat 8 n)
  else if n < 192 then .s 0
  else .c (.ofNat 6 n)

/-- 0x88 to 0xBF in a field that is read (02 R53). -/
def selBad (n : Nat) : List (Bool × Nat) := [(decide (136 ≤ n ∧ n < 192), 2)]

/-- 02 Table 2.6. -/
def Sel.code : Sel → Nat
  | .v r => r.val
  | .s r => 64 + r.val
  | .x k => 128 + k.val
  | .c b => 192 + b.toNat

/-- 02 Table 2.7. -/
def modOf : Nat → Modifier
  | 1 => .lo | 2 => .hi | 3 => .swp | 4 => .b0 | 5 => .brev | 6 => .neg | 7 => .abs | _ => .none

/-- 02 Table 2.7. -/
def Modifier.code : Modifier → Nat
  | .none => 0 | .lo => 1 | .hi => 2 | .swp => 3 | .b0 => 4 | .brev => 5 | .neg => 6 | .abs => 7

/-- 02 Table 2.8. Reserved codes 11 to 15 are flagged where the field is used; I8X4, on which every
modifier is legal, stands in for them so that they raise no other detail. -/
def etypeOf : Nat → Etype
  | 0 => .n32 | 1 => .i32 | 2 => .n16x2 | 3 => .i16x2 | 4 => .n8x4 | 6 => .n4x8 | 7 => .i4x8
  | 8 => .f32 | 9 => .f16x2 | 10 => .b16x2 | _ => .i8x4

/-- 02 Table 2.8. -/
def Etype.code : Etype → Nat
  | .n32 => 0 | .i32 => 1 | .n16x2 => 2 | .i16x2 => 3 | .n8x4 => 4 | .i8x4 => 5 | .n4x8 => 6 | .i4x8 => 7
  | .f32 => 8 | .f16x2 => 9 | .b16x2 => 10

/-- 02 Table 2.5. -/
def rndOf : Nat → Rnd
  | 1 => .rz | 2 => .rd | 3 => .ru | _ => .rne

/-- 02 Table 2.5. -/
def Rnd.code : Rnd → Nat
  | .rne => 0 | .rz => 1 | .rd => 2 | .ru => 3

/-- 02 Table 2.9, SCMP and VCMP. -/
def cmpOf : Nat → Cmp
  | 1 => .ne | 2 => .lt | 3 => .le | 4 => .gt | 5 => .ge | 6 => .ltn | 7 => .len | 8 => .gtn | 9 => .gen
  | _ => .eq

/-- 02 Table 2.9, SCMP and VCMP. -/
def Cmp.code : Cmp → Nat
  | .eq => 0 | .ne => 1 | .lt => 2 | .le => 3 | .gt => 4 | .ge => 5 | .ltn => 6 | .len => 7 | .gtn => 8
  | .gen => 9

/-- 02 Table 2.9, VFCMP. -/
def fcmpOf : Nat → FCmp
  | 1 => .ne | 2 => .lt | 3 => .le | 4 => .gt | 5 => .ge | 6 => .un | 7 => .ord | _ => .eq

/-- 02 Table 2.9, VFCMP. -/
def FCmp.code : FCmp → Nat
  | .eq => 0 | .ne => 1 | .lt => 2 | .le => 3 | .gt => 4 | .ge => 5 | .un => 6 | .ord => 7

/-- 02 Table 2.9, BC. -/
def bcondOf : Nat → BCond
  | 1 => .nez | 2 => .ltz | 3 => .gez | 4 => .gtz | 5 => .lez | _ => .eqz

/-- 02 Table 2.9, BC. -/
def BCond.code : BCond → Nat
  | .eqz => 0 | .nez => 1 | .ltz => 2 | .gez => 3 | .gtz => 4 | .lez => 5

/-- 11 Table 11.3. -/
def laneModeOf : Nat → LaneMode
  | 1 => .sub | 2 => .grp | _ => .lane

/-- 11 Table 11.3. -/
def LaneMode.code : LaneMode → Nat
  | .lane => 0 | .sub => 1 | .grp => 2

/-- 12 Table 12.7. -/
def shflModeOf : Nat → ShflMode
  | 1 => .dn | 2 => .xor | 3 => .rot | _ => .up

/-- 12 Table 12.7. -/
def ShflMode.code : ShflMode → Nat
  | .up => 0 | .dn => 1 | .xor => 2 | .rot => 3

/-- 12 Table 12.8. -/
def redOpOf : Nat → RedOp
  | 1 => .mini | 2 => .maxi | 3 => .minn | 4 => .maxn | 5 => .and | 6 => .or | 7 => .xor | _ => .add

/-- 12 Table 12.8. -/
def RedOp.code : RedOp → Nat
  | .add => 0 | .mini => 1 | .maxi => 2 | .minn => 3 | .maxn => 4 | .and => 5 | .or => 6 | .xor => 7

/-- 02 Table 2.10. -/
def scopeOf : Nat → Scope
  | 1 => .core | 2 => .die | 3 => .dev | 4 => .fab | 5 => .sys | _ => .warp

/-- 02 Table 2.10. -/
def Scope.code : Scope → Nat
  | .warp => 0 | .core => 1 | .die => 2 | .dev => 3 | .fab => 4 | .sys => 5

/-- 02 Table 2.10. -/
def widthOf : Nat → Width
  | 1 => .w16 | 2 => .w32 | 3 => .w64 | 4 => .w128 | _ => .w8

/-- 02 Table 2.10. -/
def Width.code : Width → Nat
  | .w8 => 0 | .w16 => 1 | .w32 => 2 | .w64 => 3 | .w128 => 4

/-- 02 Table 2.11. -/
def aopOf : Nat → Aop
  | 1 => .mini | 2 => .maxi | 3 => .minn | 4 => .maxn | 5 => .and | 6 => .or | 7 => .xor | 8 => .xchg
  | 9 => .fadd | 10 => .fmin | 11 => .fmax | _ => .add

/-- 02 Table 2.11. -/
def Aop.code : Aop → Nat
  | .add => 0 | .mini => 1 | .maxi => 2 | .minn => 3 | .maxn => 4 | .and => 5 | .or => 6 | .xor => 7
  | .xchg => 8 | .fadd => 9 | .fmin => 10 | .fmax => 11

/-- 08 R152. -/
def fenceOf : Nat → FenceKind
  | 1 => .rel | 2 => .acq | _ => .full

/-- 08 R152. -/
def FenceKind.code : FenceKind → Nat
  | .rel => 1 | .acq => 2 | .full => 3

/-- 08 R165. -/
def pgOf : Nat → PgKind
  | 2 => .write | 3 => .atomic | 4 => .exec | _ => .read

/-- 08 R165. -/
def PgKind.code : PgKind → Nat
  | .read => 1 | .write => 2 | .atomic => 3 | .exec => 4

/-- 02 Table 2.17. -/
def mtypeOf : Nat → MType
  | 1 => .b16 | 2 => .block | 3 => .f32 | 4 => .i32 | _ => .f16

/-- 02 Table 2.17. -/
def MType.code : MType → Nat
  | .f16 => 0 | .b16 => 1 | .block => 2 | .f32 => 3 | .i32 => 4

/-- 02 Table 2.17. -/
def rungOf : Nat → RungSel
  | 1 => .at .r3 | 2 => .at .r4 | 3 => .at .r6 | 4 => .at .r8 | 7 => .auto | _ => .at .r2

/-- 02 Table 2.17. -/
def RungSel.code : RungSel → Nat
  | .at .r2 => 0 | .at .r3 => 1 | .at .r4 => 2 | .at .r6 => 3 | .at .r8 => 4 | .auto => 7

/-- fe of an optional field. -/
def feOf {α : Type} (f : Option α) : Nat := f.elim 0 fun _ => 1

/-- The flag field of an optional flag. -/
def flagOf (f : Option FlagNo) : Nat := f.elim 0 fun n => n.val

/-! The raw fields of each layout, read from a syllable and written into one. -/

/-- V syllable, register form (02 Table 2.5). -/
structure VReg where
  op   : Nat := 0
  et   : Nat := 0
  vd   : Nat := 0
  wbs  : Nat := 0
  le   : Nat := 0
  xn   : Nat := 0
  opa  : Nat := 0
  opb  : Nat := 0
  opc  : Nat := 0
  moda : Nat := 0
  modb : Nat := 0
  modc : Nat := 0
  rnd  : Nat := 0
  sat  : Nat := 0
  nm   : Nat := 0
  sub  : Nat := 0
  deriving DecidableEq, Repr

/-- The register form of a V syllable. -/
def VReg.of (w : Nat) : VReg :=
  { op := fld w 56 8, et := fld w 52 4, vd := fld w 46 6, wbs := fld w 45 1, le := fld w 44 1, xn := fld w 41 3,
    opa := fld w 33 8, opb := fld w 25 8, opc := fld w 17 8, moda := fld w 14 3, modb := fld w 11 3,
    modc := fld w 8 3, rnd := fld w 6 2, sat := fld w 5 1, nm := fld w 4 1, sub := fld w 0 4 }

/-- The V syllable of a register form. -/
def VReg.word (r : VReg) : Nat :=
  r.op * 2 ^ 56 + r.et * 2 ^ 52 + r.vd * 2 ^ 46 + r.wbs * 2 ^ 45 + r.le * 2 ^ 44 + r.xn * 2 ^ 41 + r.opa * 2 ^ 33 +
    r.opb * 2 ^ 25 + r.opc * 2 ^ 17 + r.moda * 2 ^ 14 + r.modb * 2 ^ 11 + r.modc * 2 ^ 8 + r.rnd * 2 ^ 6 +
    r.sat * 2 ^ 5 + r.nm * 2 ^ 4 + r.sub

/-- V syllable, immediate form (02 R52). -/
structure VImmRaw where
  op   : Nat := 0
  et   : Nat := 0
  vd   : Nat := 0
  wbs  : Nat := 0
  le   : Nat := 0
  xn   : Nat := 0
  opa  : Nat := 0
  imm  : Nat := 0
  z    : Nat := 0
  deriving DecidableEq, Repr

/-- The immediate form of a V syllable. -/
def VImmRaw.of (w : Nat) : VImmRaw :=
  { op := fld w 56 8, et := fld w 52 4, vd := fld w 46 6, wbs := fld w 45 1, le := fld w 44 1, xn := fld w 41 3,
    opa := fld w 33 8, imm := fld w 1 32, z := fld w 0 1 }

/-- The V syllable of an immediate form. -/
def VImmRaw.word (r : VImmRaw) : Nat :=
  r.op * 2 ^ 56 + r.et * 2 ^ 52 + r.vd * 2 ^ 46 + r.wbs * 2 ^ 45 + r.le * 2 ^ 44 + r.xn * 2 ^ 41 + r.opa * 2 ^ 33 +
    r.imm * 2 + r.z

/-- M syllable (02 Table 2.10); `low7` is bits [22:16]. -/
structure MRaw where
  op    : Nat := 0
  cls   : Nat := 0
  scope : Nat := 0
  fe    : Nat := 0
  flag  : Nat := 0
  dr    : Nat := 0
  sb    : Nat := 0
  vi    : Nat := 0
  width : Nat := 0
  low7  : Nat := 0
  imm   : Nat := 0
  deriving DecidableEq, Repr

/-- The fields of an M syllable. -/
def MRaw.of (w : Nat) : MRaw :=
  { op := fld w 56 8, cls := fld w 52 4, scope := fld w 49 3, fe := fld w 48 1, flag := fld w 44 4, dr := fld w 38 6,
    sb := fld w 32 6, vi := fld w 26 6, width := fld w 23 3, low7 := fld w 16 7, imm := fld w 0 16 }

/-- The M syllable of its fields. -/
def MRaw.word (r : MRaw) : Nat :=
  r.op * 2 ^ 56 + r.cls * 2 ^ 52 + r.scope * 2 ^ 49 + r.fe * 2 ^ 48 + r.flag * 2 ^ 44 + r.dr * 2 ^ 38 +
    r.sb * 2 ^ 32 + r.vi * 2 ^ 26 + r.width * 2 ^ 23 + r.low7 * 2 ^ 16 + r.imm

/-- E syllable, copy form (02 Table 2.16). -/
structure ECopy where
  op    : Nat := 0
  cls   : Nat := 0
  scope : Nat := 0
  fe    : Nat := 0
  flag  : Nat := 0
  sa    : Nat := 0
  sd    : Nat := 0
  sg    : Nat := 0
  sx    : Nat := 0
  sub   : Nat := 0
  imm   : Nat := 0
  deriving DecidableEq, Repr

/-- The copy form of an E syllable. -/
def ECopy.of (w : Nat) : ECopy :=
  { op := fld w 56 8, cls := fld w 52 4, scope := fld w 49 3, fe := fld w 48 1, flag := fld w 44 4, sa := fld w 38 6,
    sd := fld w 32 6, sg := fld w 26 6, sx := fld w 20 6, sub := fld w 16 4, imm := fld w 0 16 }

/-- The E syllable of a copy form. -/
def ECopy.word (r : ECopy) : Nat :=
  r.op * 2 ^ 56 + r.cls * 2 ^ 52 + r.scope * 2 ^ 49 + r.fe * 2 ^ 48 + r.flag * 2 ^ 44 + r.sa * 2 ^ 38 +
    r.sd * 2 ^ 32 + r.sg * 2 ^ 26 + r.sx * 2 ^ 20 + r.sub * 2 ^ 16 + r.imm

/-- E syllable, matrix and handle form (02 Table 2.17). -/
structure EMat where
  op    : Nat := 0
  et    : Nat := 0
  hd    : Nat := 0
  ha    : Nat := 0
  hb    : Nat := 0
  fe    : Nat := 0
  flag  : Nat := 0
  rung  : Nat := 0
  wmode : Nat := 0
  dy    : Nat := 0
  dx    : Nat := 0
  sub   : Nat := 0
  z     : Nat := 0
  deriving DecidableEq, Repr

/-- The matrix and handle form of an E syllable. -/
def EMat.of (w : Nat) : EMat :=
  { op := fld w 56 8, et := fld w 52 4, hd := fld w 46 6, ha := fld w 40 6, hb := fld w 34 6, fe := fld w 33 1,
    flag := fld w 29 4, rung := fld w 26 3, wmode := fld w 24 2, dy := fld w 18 6, dx := fld w 12 6,
    sub := fld w 8 4, z := fld w 0 8 }

/-- The E syllable of a matrix and handle form. -/
def EMat.word (r : EMat) : Nat :=
  r.op * 2 ^ 56 + r.et * 2 ^ 52 + r.hd * 2 ^ 46 + r.ha * 2 ^ 40 + r.hb * 2 ^ 34 + r.fe * 2 ^ 33 + r.flag * 2 ^ 29 +
    r.rung * 2 ^ 26 + r.wmode * 2 ^ 24 + r.dy * 2 ^ 18 + r.dx * 2 ^ 12 + r.sub * 2 ^ 8 + r.z

/-- C syllable, register form, below the gap and ys (02 Table 2.19); `top` is bits [59:56]. -/
structure CReg where
  top : Nat := 0
  op  : Nat := 0
  sd  : Nat := 0
  sa  : Nat := 0
  sb  : Nat := 0
  sc  : Nat := 0
  sub : Nat := 0
  z   : Nat := 0
  deriving DecidableEq, Repr

/-- The register form of a C syllable. -/
def CReg.of (w : Nat) : CReg :=
  { top := fld w 56 4, op := fld w 48 8, sd := fld w 42 6, sa := fld w 36 6, sb := fld w 30 6, sc := fld w 24 6,
    sub := fld w 20 4, z := fld w 0 20 }

/-- The C syllable of a register form, gap 0 and not yield-safe. -/
def CReg.word (r : CReg) : Nat :=
  r.top * 2 ^ 56 + r.op * 2 ^ 48 + r.sd * 2 ^ 42 + r.sa * 2 ^ 36 + r.sb * 2 ^ 30 + r.sc * 2 ^ 24 + r.sub * 2 ^ 20 + r.z

/-- C syllable, immediate and branch forms (02 Table 2.19): `sub` is the sub or condition field, `imm` the
immediate or offset. -/
structure CImm where
  top : Nat := 0
  op  : Nat := 0
  sd  : Nat := 0
  sa  : Nat := 0
  sub : Nat := 0
  imm : Nat := 0
  deriving DecidableEq, Repr

/-- The immediate or branch form of a C syllable. -/
def CImm.of (w : Nat) : CImm :=
  { top := fld w 56 4, op := fld w 48 8, sd := fld w 42 6, sa := fld w 36 6, sub := fld w 32 4, imm := fld w 0 32 }

/-- The C syllable of an immediate or branch form, gap 0 and not yield-safe. -/
def CImm.word (r : CImm) : Nat :=
  r.top * 2 ^ 56 + r.op * 2 ^ 48 + r.sd * 2 ^ 42 + r.sa * 2 ^ 36 + r.sub * 2 ^ 32 + r.imm

/-! Operands of the V slot. -/

def VReg.head (r : VReg) : VHead :=
  { et := etypeOf r.et, d := { reg := reg r.vd, wbs := isOne r.wbs, le := isOne r.le, xn := .ofNat 8 r.xn },
    nm := isOne r.nm }
def VReg.oa (r : VReg) : Opd := { sel := selOf r.opa, md := modOf r.moda }
def VReg.ob (r : VReg) : Opd := { sel := selOf r.opb, md := modOf r.modb }
def VReg.oc (r : VReg) : Opd := { sel := selOf r.opc, md := modOf r.modc }
/-- Etype codes 11 to 15 (02 R55). -/
def VReg.etBad (r : VReg) : List (Bool × Nat) := [(decide (11 ≤ r.et), 4)]
def VReg.oaBad (r : VReg) : List (Bool × Nat) := selBad r.opa
def VReg.obBad (r : VReg) : List (Bool × Nat) := selBad r.opb
def VReg.ocBad (r : VReg) : List (Bool × Nat) := selBad r.opc

def VImmRaw.head (r : VImmRaw) : VImm :=
  { et := etypeOf r.et, d := { reg := reg r.vd, wbs := isOne r.wbs, le := isOne r.le, xn := .ofNat 8 r.xn } }
def VImmRaw.sel (r : VImmRaw) : Sel := selOf r.opa
def VImmRaw.selBad (r : VImmRaw) : List (Bool × Nat) := Sys2Proof.selBad r.opa
/-- The etype's reserved codes, and bit [0], which is zero (02 R52). -/
def VImmRaw.immBad (r : VImmRaw) : List (Bool × Nat) := [(decide (11 ≤ r.et), 4), (r.z != 0, 5)]

/-- The register form of the V slot (02 Table 2.13; 11 Table 11.1; 12 Table 12.1). -/
def decodeVReg (r : VReg) : Dec :=
  match r.op with
  | 0x00 => ⟨.vnop, []⟩
  | 0x01 => ⟨.vadd r.head r.oa r.ob (isOne r.sat), r.etBad ++ r.oaBad ++ r.obBad⟩
  | 0x02 => ⟨.vsub r.head r.oa r.ob (isOne r.sat), r.etBad ++ r.oaBad ++ r.obBad⟩
  | 0x03 => ⟨.vmul r.head r.oa r.ob (isOne r.sat), r.etBad ++ r.oaBad ++ r.obBad⟩
  | 0x04 => ⟨.vmulh r.head r.oa r.ob, r.etBad ++ r.oaBad ++ r.obBad⟩
  | 0x05 => ⟨.vmad r.head r.oa r.ob r.oc (isOne r.sat), r.etBad ++ r.oaBad ++ r.obBad ++ r.ocBad⟩
  | 0x06 => ⟨.vneg r.head r.oa (isOne r.sat), r.etBad ++ r.oaBad⟩
  | 0x07 => ⟨.vabs r.head r.oa (isOne r.sat), r.etBad ++ r.oaBad⟩
  | 0x08 => ⟨.vmin r.head r.oa r.ob, r.etBad ++ r.oaBad ++ r.obBad⟩
  | 0x09 => ⟨.vmax r.head r.oa r.ob, r.etBad ++ r.oaBad ++ r.obBad⟩
  | 0x0A => ⟨.vavg r.head r.oa r.ob (isOne (r.sub % 2)), r.etBad ++ r.oaBad ++ r.obBad ++ [(r.sub / 2 != 0, 4)]⟩
  | 0x0B => ⟨.vsad r.head r.oa r.ob r.oc (isOne r.sat), r.etBad ++ r.oaBad ++ r.obBad ++ r.ocBad⟩
  | 0x0C => ⟨.vdot r.head r.oa r.ob r.oc (isOne r.sat), r.etBad ++ r.oaBad ++ r.obBad ++ r.ocBad⟩
  | 0x0D => ⟨.vshl r.head r.oa r.ob (isOne r.sat), r.etBad ++ r.oaBad ++ r.obBad⟩
  | 0x0E => ⟨.vshr r.head r.oa r.ob, r.etBad ++ r.oaBad ++ r.obBad⟩
  | 0x0F => ⟨.vsra r.head r.oa r.ob, r.etBad ++ r.oaBad ++ r.obBad⟩
  | 0x10 => ⟨.vrot r.head r.oa r.ob, r.etBad ++ r.oaBad ++ r.obBad⟩
  | 0x11 => ⟨.vand r.head r.oa r.ob, r.etBad ++ r.oaBad ++ r.obBad⟩
  | 0x12 => ⟨.vor r.head r.oa r.ob, r.etBad ++ r.oaBad ++ r.obBad⟩
  | 0x13 => ⟨.vxor r.head r.oa r.ob, r.etBad ++ r.oaBad ++ r.obBad⟩
  | 0x14 => ⟨.vandn r.head r.oa r.ob, r.etBad ++ r.oaBad ++ r.obBad⟩
  | 0x15 => ⟨.vnot r.head r.oa, r.etBad ++ r.oaBad⟩
  | 0x16 => ⟨.vclz r.head r.oa, r.etBad ++ r.oaBad⟩
  | 0x17 => ⟨.vpopc r.head r.oa, r.etBad ++ r.oaBad⟩
  | 0x18 => ⟨.vbrev r.head r.oa, r.etBad ++ r.oaBad⟩
  | 0x19 => ⟨.vbfx r.head r.oa r.ob, r.etBad ++ r.oaBad ++ r.obBad⟩
  | 0x1A => ⟨.vbfi r.head r.oa r.ob r.oc, r.etBad ++ r.oaBad ++ r.obBad ++ r.ocBad⟩
  | 0x1B => ⟨.vcmp r.head r.oa r.ob (cmpOf r.sub), r.etBad ++ r.oaBad ++ r.obBad ++ [(decide (10 ≤ r.sub), 4)]⟩
  | 0x1C => ⟨.vsel r.head r.oa r.ob r.oc, r.etBad ++ r.oaBad ++ r.obBad ++ r.ocBad⟩
  | 0x1D => ⟨.vmov r.head r.oa, r.etBad ++ r.oaBad⟩
  | 0x1E => ⟨.vprm r.head r.oa r.ob r.oc, r.etBad ++ r.oaBad ++ r.obBad ++ r.ocBad⟩
  | 0x1F => ⟨.vlane r.head (laneModeOf r.sub), r.etBad ++ [(decide (3 ≤ r.sub), 4)]⟩
  | 0x30 => ⟨.vfadd r.head r.oa r.ob (isOne r.sat) (rndOf r.rnd), r.etBad ++ r.oaBad ++ r.obBad⟩
  | 0x31 => ⟨.vfsub r.head r.oa r.ob (isOne r.sat) (rndOf r.rnd), r.etBad ++ r.oaBad ++ r.obBad⟩
  | 0x32 => ⟨.vfmul r.head r.oa r.ob (isOne r.sat) (rndOf r.rnd), r.etBad ++ r.oaBad ++ r.obBad⟩
  | 0x33 => ⟨.vfma r.head r.oa r.ob r.oc (isOne r.sat) (rndOf r.rnd), r.etBad ++ r.oaBad ++ r.obBad ++ r.ocBad⟩
  | 0x34 => ⟨.vfnma r.head r.oa r.ob r.oc (isOne r.sat) (rndOf r.rnd), r.etBad ++ r.oaBad ++ r.obBad ++ r.ocBad⟩
  | 0x35 => ⟨.vfmin r.head r.oa r.ob, r.etBad ++ r.oaBad ++ r.obBad⟩
  | 0x36 => ⟨.vfmax r.head r.oa r.ob, r.etBad ++ r.oaBad ++ r.obBad⟩
  | 0x37 => ⟨.vfcmp r.head r.oa r.ob (fcmpOf r.sub), r.etBad ++ r.oaBad ++ r.obBad ++ [(decide (8 ≤ r.sub), 4)]⟩
  | 0x38 => ⟨.vfclass r.head r.oa, r.etBad ++ r.oaBad⟩
  | 0x39 => ⟨.vfrnd r.head r.oa (rndOf r.rnd), r.etBad ++ r.oaBad⟩
  | 0x3A => ⟨.vfscl r.head r.oa r.ob (isOne r.sat) (rndOf r.rnd), r.etBad ++ r.oaBad ++ r.obBad⟩
  | 0x3B => ⟨.vfdot2 r.head r.oa r.ob r.oc (isOne r.sat) (rndOf r.rnd), r.etBad ++ r.oaBad ++ r.obBad ++ r.ocBad⟩
  | 0x3C => ⟨.vfkey r.head r.oa, r.etBad ++ r.oaBad⟩
  | 0x40 => ⟨.vcvt r.head r.oa (etypeOf r.sub) (isOne r.sat) (rndOf r.rnd), r.etBad ++ r.oaBad ++ [(decide (11 ≤ r.sub), 4)]⟩
  | 0x41 => ⟨.vpack r.head r.oa r.ob (etypeOf r.sub) (isOne r.sat) (rndOf r.rnd), r.etBad ++ r.oaBad ++ r.obBad ++ [(decide (11 ≤ r.sub), 4)]⟩
  | 0x42 => ⟨.vunpk r.head r.oa (etypeOf r.sub), r.etBad ++ r.oaBad ++ [(decide (11 ≤ r.sub), 4)]⟩
  | 0x43 => ⟨.vbexp r.head r.oa, r.etBad ++ r.oaBad⟩
  | 0x44 => ⟨.vbq r.head r.oa, r.etBad ++ r.oaBad⟩
  | 0x45 => ⟨.vbdq r.head r.oa (isOne r.sat) (rndOf r.rnd), r.etBad ++ r.oaBad⟩
  | 0x50 => ⟨.vrcp r.head r.oa (isOne r.sat), r.etBad ++ r.oaBad⟩
  | 0x51 => ⟨.vrsq r.head r.oa (isOne r.sat), r.etBad ++ r.oaBad⟩
  | 0x52 => ⟨.vsqrt r.head r.oa (isOne r.sat), r.etBad ++ r.oaBad⟩
  | 0x53 => ⟨.vexp2 r.head r.oa (isOne r.sat), r.etBad ++ r.oaBad⟩
  | 0x54 => ⟨.vlog2 r.head r.oa (isOne r.sat), r.etBad ++ r.oaBad⟩
  | 0x55 => ⟨.vsinp r.head r.oa (isOne r.sat), r.etBad ++ r.oaBad⟩
  | 0x56 => ⟨.vcosp r.head r.oa (isOne r.sat), r.etBad ++ r.oaBad⟩
  | 0x57 => ⟨.vtanh r.head r.oa (isOne r.sat), r.etBad ++ r.oaBad⟩
  | 0x60 => ⟨.vshfl r.head r.oa r.ob, r.etBad ++ r.oaBad ++ r.obBad⟩
  | 0x61 => ⟨.vshflr r.head r.oa r.ob (shflModeOf r.sub), r.etBad ++ r.oaBad ++ r.obBad ++ [(decide (4 ≤ r.sub), 4)]⟩
  | 0x62 => ⟨.vbcst r.head r.oa r.ob, r.etBad ++ r.oaBad ++ r.obBad⟩
  | 0x63 => ⟨.vscan r.head r.oa (isOne r.sat) (rndOf r.rnd) (redOpOf (r.sub % 8)) (isOne (r.sub / 8)), r.etBad ++ r.oaBad⟩
  | 0x64 => ⟨.vred r.head r.oa (isOne r.sat) (rndOf r.rnd) (redOpOf (r.sub % 8)), r.etBad ++ r.oaBad ++ [(r.sub / 8 != 0, 4)]⟩
  | 0x65 => ⟨.vcomp r.head r.oa, r.etBad ++ r.oaBad⟩
  | 0x66 => ⟨.vget r.head r.oa r.ob, r.etBad ++ r.oaBad ++ r.obBad⟩
  | 0x67 => ⟨.vins r.head r.oa r.ob, r.etBad ++ r.oaBad ++ r.obBad⟩
  | 0x70 => ⟨.vtrd r.head (reg r.opa) r.ob, r.etBad ++ [(r.opa / 64 != 0, 4)] ++ r.obBad⟩
  | 0x71 => ⟨.vtwr r.head r.oa r.ob, r.etBad ++ r.oaBad ++ r.obBad⟩
  | _ => ⟨.vnop, [(true, 1)]⟩

/-- The immediate form of the V slot. -/
def decodeVImm (r : VImmRaw) : Dec :=
  match r.op with
  | 0x20 => ⟨.vaddi r.head r.sel (.ofNat 32 r.imm), r.immBad ++ r.selBad⟩
  | 0x21 => ⟨.vandi r.head r.sel (.ofNat 32 r.imm), r.immBad ++ r.selBad⟩
  | 0x22 => ⟨.vori r.head r.sel (.ofNat 32 r.imm), r.immBad ++ r.selBad⟩
  | 0x23 => ⟨.vxori r.head r.sel (.ofNat 32 r.imm), r.immBad ++ r.selBad⟩
  | 0x24 => ⟨.vimm r.head (.ofNat 32 r.imm), r.immBad⟩
  | _ => ⟨.vnop, [(true, 1)]⟩

/-- The V slot: the immediate form lies at opcodes 0x20 to 0x24 (02 Table 2.13). -/
def decodeV (w : Nat) : Dec :=
  if 0x20 ≤ fld w 56 8 ∧ fld w 56 8 ≤ 0x24 then decodeVImm (.of w) else decodeVReg (.of w)

/-! Operands of the M slot. -/

def MRaw.le (r : MRaw) : Nat := fld r.low7 6 1
def MRaw.xn (r : MRaw) : Nat := fld r.low7 3 3
def MRaw.laddr (r : MRaw) : LAddr :=
  { sb := reg r.sb, vi := reg r.vi, uni := isOne (fld r.low7 0 1), sx := isOne (fld r.low7 1 1), imm := .ofNat 16 r.imm }
def MRaw.gaddr (r : MRaw) : GAddr := { sb := reg r.sb, vi := reg r.vi, imm := .ofNat 16 r.imm }
def MRaw.mhead (r : MRaw) : MHead := { cls := .ofNat 16 r.cls, sc := scopeOf r.scope }
def MRaw.fno (r : MRaw) : FlagNo := .ofNat 16 r.flag
def MRaw.oflag (r : MRaw) : Option FlagNo := if r.fe = 1 then some r.fno else none
/-- Bit 18 of the S layout is zero (02 R57). -/
def MRaw.sBad (r : MRaw) : List (Bool × Nat) := [(fld r.low7 2 1 != 0, 5)]
/-- le must be 0 (08 Table 8.1). -/
def MRaw.noLe (r : MRaw) : List (Bool × Nat) := [(r.le != 0, 4)]
/-- aop is a zero field (02 R57). -/
def MRaw.aZero (r : MRaw) : List (Bool × Nat) := [(r.low7 != 0, 5)]
def MRaw.widthBad (r : MRaw) : List (Bool × Nat) := [(decide (5 ≤ r.width), 4)]
def MRaw.scBad (r : MRaw) : List (Bool × Nat) := [(decide (6 ≤ r.scope), 4)]
def MRaw.feBad (r : MRaw) : List (Bool × Nat) := [(r.fe != 1, 4)]
/-- aop codes 12 to 127 (02 Table 2.11). -/
def MRaw.aopBad (r : MRaw) : List (Bool × Nat) := [(decide (12 ≤ r.low7), 4)]

/-- The M slot (02 Table 2.14, 08 Table 8.1). -/
def decodeM (r : MRaw) : Dec :=
  match r.op with
  | 0x00 => ⟨.mnop, []⟩
  | 0x01 => ⟨.lld (reg r.dr) (widthOf r.width) r.laddr (isOne r.le) (.ofNat 8 r.xn), r.sBad ++ r.widthBad⟩
  | 0x02 => ⟨.lst (reg r.dr) (widthOf r.width) r.laddr, r.sBad ++ r.noLe ++ r.widthBad⟩
  | 0x03 => ⟨.llds (reg r.dr) (widthOf r.width) (reg r.sb) (.ofNat 16 r.imm), r.sBad ++ r.noLe ++ r.widthBad⟩
  | 0x04 => ⟨.lsts (reg r.dr) (widthOf r.width) (reg r.sb) (.ofNat 16 r.imm), r.sBad ++ r.noLe ++ r.widthBad⟩
  | 0x05 => ⟨.latom (reg r.dr) (widthOf r.width) r.gaddr (aopOf r.low7), r.widthBad ++ r.aopBad⟩
  | 0x06 => ⟨.lcas (reg r.dr) (widthOf r.width) r.gaddr, r.aZero ++ r.widthBad⟩
  | 0x08 => ⟨.qenq (reg r.dr) (widthOf r.width) (reg r.sb) (.ofNat 16 r.imm), r.sBad ++ r.noLe ++ r.widthBad⟩
  | 0x09 => ⟨.qdeq (reg r.dr) (widthOf r.width) (reg r.sb) (.ofNat 16 r.imm) (isOne r.le) (.ofNat 8 r.xn), r.sBad ++ r.widthBad⟩
  | 0x0A => ⟨.qstat (reg r.dr) (reg r.sb) (.ofNat 16 r.imm), r.sBad ++ r.noLe⟩
  | 0x10 => ⟨.gld r.mhead r.fno (reg r.dr) (widthOf r.width) r.gaddr, r.aZero ++ r.scBad ++ r.feBad ++ r.widthBad⟩
  | 0x11 => ⟨.gst r.mhead r.oflag (reg r.dr) (widthOf r.width) r.gaddr, r.aZero ++ r.scBad ++ r.widthBad⟩
  | 0x12 => ⟨.gatom r.mhead r.fno (reg r.dr) (widthOf r.width) r.gaddr (aopOf r.low7), r.scBad ++ r.feBad ++ r.widthBad ++ r.aopBad⟩
  | 0x13 => ⟨.gred r.mhead r.oflag (reg r.dr) (widthOf r.width) r.gaddr (aopOf r.low7), r.scBad ++ r.widthBad ++ r.aopBad⟩
  | 0x14 => ⟨.gcas r.mhead r.fno (reg r.dr) (widthOf r.width) r.gaddr, r.aZero ++ r.scBad ++ r.feBad ++ r.widthBad⟩
  | 0x15 => ⟨.gldc r.mhead (reg r.dr) (widthOf r.width) r.laddr (isOne r.le) (.ofNat 8 r.xn), r.sBad ++ r.scBad ++ r.widthBad⟩
  | 0x16 => ⟨.sldc r.mhead (reg r.dr) (widthOf r.width) (reg r.sb) (.ofNat 16 r.imm), r.sBad ++ r.noLe ++ r.scBad ++ r.widthBad⟩
  | 0x17 => ⟨.sgld r.mhead r.fno (reg r.dr) (widthOf r.width) (reg r.sb) (.ofNat 16 r.imm), r.aZero ++ r.scBad ++ r.feBad ++ r.widthBad⟩
  | 0x18 => ⟨.sgst r.mhead r.oflag (reg r.dr) (widthOf r.width) (reg r.sb) (.ofNat 16 r.imm), r.aZero ++ r.scBad ++ r.widthBad⟩
  | 0x20 => ⟨.fence (fenceOf (r.dr % 4)) (scopeOf r.scope) r.oflag (.ofNat 16 r.imm), r.sBad ++ r.noLe ++ [(r.dr / 4 != 0, 5), (r.dr % 4 == 0, 4)] ++ r.scBad⟩
  | 0x21 => ⟨.l1inv, r.sBad ++ r.noLe⟩
  | 0x22 => ⟨.wcfl r.fno, r.sBad ++ r.noLe ++ r.feBad⟩
  | 0x23 => ⟨.pref (widthOf r.width) r.laddr, r.sBad ++ r.noLe ++ r.widthBad⟩
  | 0x24 => ⟨.hint r.oflag (reg r.dr) (reg r.sb) (reg r.vi) (.ofNat 16 r.imm), r.sBad ++ r.noLe⟩
  | 0x25 => ⟨.phase (.ofNat 16 r.imm), r.sBad ++ r.noLe⟩
  | 0x28 => ⟨.signal r.mhead r.oflag (reg r.dr) (reg r.sb) (.ofNat 16 r.imm) (aopOf r.low7), r.scBad ++ r.aopBad ++ [(r.width != 3, 4)]⟩
  | 0x29 => ⟨.sack (reg r.sb) (.ofNat 16 r.imm), r.sBad ++ r.noLe⟩
  | 0x2A => ⟨.quiet r.fno (reg r.dr), r.aZero ++ r.feBad⟩
  | 0x2B =>
    if r.dr / 32 = 1 then ⟨.sarmOff (reg r.sb) (.ofNat 16 r.imm), r.sBad ++ r.noLe ++ [(r.dr / 16 % 2 != 0, 5)]⟩
    else ⟨.sarm (.ofNat 16 (r.dr % 16)) (reg r.sb) (.ofNat 16 r.imm), r.sBad ++ r.noLe ++ [(r.dr / 16 % 2 != 0, 5)]⟩
  | 0x30 => ⟨.launch r.fno (reg r.dr) (reg r.sb) (.ofNat 16 r.imm), r.aZero ++ r.feBad⟩
  | 0x38 => ⟨.pgfetch r.fno (pgOf r.width) (reg r.dr) (reg r.sb) (.ofNat 16 r.imm), r.aZero ++ r.feBad ++ [(r.width == 0 || decide (5 ≤ r.width), 4)]⟩
  | 0x39 => ⟨.xinv r.oflag (reg r.dr) (reg r.sb) (.ofNat 16 r.imm), r.aZero⟩
  | _ => ⟨.mnop, [(true, 1)]⟩

/-! Operands of the E slot. -/

def ECopy.fno (r : ECopy) : FlagNo := .ofNat 16 r.flag
def ECopy.mhead (r : ECopy) : MHead := { cls := .ofNat 16 r.cls, sc := scopeOf r.scope }
/-- fe must be 1 (02 R59). -/
def ECopy.feBad (r : ECopy) : List (Bool × Nat) := [(r.fe != 1, 4)]
def ECopy.scBad (r : ECopy) : List (Bool × Nat) := [(decide (6 ≤ r.scope), 4)]

def EMat.fno (r : EMat) : FlagNo := .ofNat 16 r.flag
def EMat.oflag (r : EMat) : Option FlagNo := if r.fe = 1 then some r.fno else none
def EMat.feBad (r : EMat) : List (Bool × Nat) := [(r.fe != 1, 4)]
def EMat.etBad (r : EMat) : List (Bool × Nat) := [(decide (5 ≤ r.et), 4)]
/-- Bits [7:0] are zero (02 Table 2.17). -/
def EMat.zBad (r : EMat) : List (Bool × Nat) := [(r.z != 0, 5)]
/-- dy and dx are read only when wmode = 01 (14 R263). -/
def EMat.win (r : EMat) : Option Win := if r.wmode = 1 then some { dy := .ofNat 6 r.dy, dx := .ofNat 6 r.dx } else none

/-- The copy form of the E slot (09 Table 9.4). -/
def decodeECopy (r : ECopy) : Dec :=
  match r.op with
  | 0x00 => ⟨.enop, []⟩
  | 0x01 => ⟨.cpygl r.mhead r.fno (reg r.sa) (reg r.sd) (reg r.sg) (reg r.sx), r.feBad ++ r.scBad ++ [(r.sub != 0, 4)]⟩
  | 0x02 => ⟨.cpylg r.mhead r.fno (reg r.sa) (reg r.sd) (reg r.sg) (reg r.sx), r.feBad ++ r.scBad ++ [(r.sub != 0, 4)]⟩
  | 0x03 => ⟨.cpyll r.fno (reg r.sa) (reg r.sd) (reg r.sg) (reg r.sx), r.feBad ++ [(r.sub != 0, 4)]⟩
  | 0x04 => ⟨.cpygg r.mhead r.fno (reg r.sa) (reg r.sd) (reg r.sg) (reg r.sx) (isOne (r.sub % 2)), r.feBad ++ r.scBad ++ [(r.sub / 2 != 0, 4)]⟩
  | 0x05 => ⟨.cpyfil r.fno (reg r.sd) (reg r.sg) (.ofNat 16 r.imm) (isOne (r.sub / 2 % 2)) (if r.sub % 2 = 1 then some ⟨r.mhead, reg r.sx⟩ else none), r.feBad ++ [(r.sub / 4 != 0, 4), (r.sub % 2 == 1 && decide (6 ≤ r.scope), 4)]⟩
  | 0x06 => ⟨.cpyp r.fno (reg r.sa) (reg r.sg) (.ofNat 16 r.imm), r.feBad ++ [(r.sub != 0, 4)]⟩
  | _ => ⟨.enop, [(true, 1)]⟩

/-- The matrix and handle form of the E slot (10 Table 10.4, 14 Table 14.1). -/
def decodeEMat (r : EMat) : Dec :=
  match r.op with
  | 0x08 => ⟨.tld r.oflag (reg r.hd) (reg r.ha) (reg r.hb) (isOne (r.sub % 2)), r.zBad ++ [(r.sub / 2 != 0, 4)]⟩
  | 0x09 => ⟨.tst r.fno (reg r.hd) (reg r.ha) (reg r.hb) (isOne (r.sub % 2)), r.zBad ++ [(r.sub / 2 != 0, 4)] ++ r.feBad⟩
  | 0x10 => ⟨.talloc (reg r.hd) (reg r.ha) (reg r.hb), r.zBad ++ [(r.sub != 0, 4)]⟩
  | 0x11 => ⟨.tfree (reg r.hd), r.zBad ++ [(r.sub != 0, 4)]⟩
  | 0x12 => ⟨.thand (reg r.hd) (reg r.ha), r.zBad ++ [(r.sub != 0, 4)]⟩
  | 0x13 => ⟨.ttake (reg r.hd) (reg r.ha) (reg r.hb), r.zBad ++ [(r.sub != 0, 4)]⟩
  | 0x14 => ⟨.tdesc (reg r.hd) (reg r.hb), r.zBad ++ [(r.sub != 0, 4)]⟩
  | 0x15 => ⟨.tsetd (reg r.hd) (reg r.ha), r.zBad ++ [(r.sub != 0, 4)]⟩
  | 0x20 => ⟨.mzero r.oflag (reg r.hd), r.zBad ++ [(r.sub != 0, 4)]⟩
  | 0x21 => ⟨.mhfa r.oflag (mtypeOf r.et) (reg r.hd) (reg r.ha) (reg r.hb) (isOne (r.sub % 2)) r.win, r.zBad ++ [(r.sub / 2 != 0, 4)] ++ r.etBad ++ [(decide (2 ≤ r.wmode), 4)]⟩
  | 0x22 => ⟨.mbmm r.oflag (rungOf r.rung) (reg r.hd) (reg r.ha) (reg r.hb) r.win, r.zBad ++ [(r.sub != 0, 4)] ++ [(r.rung == 5 || r.rung == 6, 4)] ++ [(decide (2 ≤ r.wmode), 4)] ++ [(r.et != 2, 4)]⟩
  | 0x23 => ⟨.msca r.oflag (reg r.hd) (reg r.ha), r.zBad ++ [(r.sub != 0, 4)] ++ [(r.et != 3, 4)]⟩
  | 0x24 => ⟨.mhad r.oflag (mtypeOf r.et) (reg r.hd), r.zBad ++ [(r.sub != 0, 4)] ++ r.etBad⟩
  | 0x25 => ⟨.mdrn r.oflag (reg r.hd) (reg r.ha) (.ofNat 16 r.sub), r.zBad ++ [(r.et != 2, 4)]⟩
  | 0x26 => ⟨.mcvt r.oflag (mtypeOf r.et) (reg r.hd) (reg r.ha), r.zBad ++ [(r.sub != 0, 4)] ++ r.etBad⟩
  | 0x27 => ⟨.madd r.oflag (mtypeOf r.et) (reg r.hd) (reg r.ha), r.zBad ++ [(r.sub != 0, 4)] ++ r.etBad⟩
  | 0x28 => ⟨.mscl r.oflag (reg r.hd) (reg r.ha) (isOne (r.sub % 2)), r.zBad ++ [(r.sub / 2 != 0, 4)] ++ [(r.et != 3, 4)]⟩
  | 0x29 => ⟨.msetd r.oflag (reg r.ha), r.zBad ++ [(r.sub != 0, 4)]⟩
  | _ => ⟨.enop, [(true, 1)]⟩

/-- The E slot: the copy form lies at opcodes 0x01 to 0x06 (02 Table 2.15). -/
def decodeE (w : Nat) : Dec :=
  if fld w 56 8 ≤ 0x06 then decodeECopy (.of w) else decodeEMat (.of w)

/-! The C slot. -/

/-- Bits [59:56], and [19:0] of the register form, are zero (02 R40, Table 2.19). -/
def CReg.zBad (r : CReg) : List (Bool × Nat) := [(r.z != 0, 5)]
def CReg.topBad (r : CReg) : List (Bool × Nat) := [(r.top != 0, 5)]
def CImm.topBad (r : CImm) : List (Bool × Nat) := [(r.top != 0, 5)]

/-- The register form of the C slot (16 Table 16.1). -/
def decodeCReg (r : CReg) : Dec :=
  match r.op with
  | 0x01 => ⟨.sadd (reg r.sd) (reg r.sa) (reg r.sb), r.zBad ++ [(r.sub != 0, 4)]⟩
  | 0x02 => ⟨.ssub (reg r.sd) (reg r.sa) (reg r.sb), r.zBad ++ [(r.sub != 0, 4)]⟩
  | 0x03 => ⟨.smul (reg r.sd) (reg r.sa) (reg r.sb), r.zBad ++ [(r.sub != 0, 4)]⟩
  | 0x04 => ⟨.smulh (reg r.sd) (reg r.sa) (reg r.sb) (isOne (r.sub % 2)), r.zBad ++ [(r.sub / 2 != 0, 4)]⟩
  | 0x05 => ⟨.sdiv (reg r.sd) (reg r.sa) (reg r.sb) (isOne (r.sub % 2)), r.zBad ++ [(r.sub / 2 != 0, 4)]⟩
  | 0x06 => ⟨.srem (reg r.sd) (reg r.sa) (reg r.sb) (isOne (r.sub % 2)), r.zBad ++ [(r.sub / 2 != 0, 4)]⟩
  | 0x07 => ⟨.sand (reg r.sd) (reg r.sa) (reg r.sb), r.zBad ++ [(r.sub != 0, 4)]⟩
  | 0x08 => ⟨.sor (reg r.sd) (reg r.sa) (reg r.sb), r.zBad ++ [(r.sub != 0, 4)]⟩
  | 0x09 => ⟨.sxor (reg r.sd) (reg r.sa) (reg r.sb), r.zBad ++ [(r.sub != 0, 4)]⟩
  | 0x0A => ⟨.sandn (reg r.sd) (reg r.sa) (reg r.sb), r.zBad ++ [(r.sub != 0, 4)]⟩
  | 0x0B => ⟨.sshl (reg r.sd) (reg r.sa) (reg r.sb), r.zBad ++ [(r.sub != 0, 4)]⟩
  | 0x0C => ⟨.sshr (reg r.sd) (reg r.sa) (reg r.sb), r.zBad ++ [(r.sub != 0, 4)]⟩
  | 0x0D => ⟨.ssra (reg r.sd) (reg r.sa) (reg r.sb), r.zBad ++ [(r.sub != 0, 4)]⟩
  | 0x0E => ⟨.smin (reg r.sd) (reg r.sa) (reg r.sb) (isOne (r.sub % 2)), r.zBad ++ [(r.sub / 2 != 0, 4)]⟩
  | 0x0F => ⟨.smax (reg r.sd) (reg r.sa) (reg r.sb) (isOne (r.sub % 2)), r.zBad ++ [(r.sub / 2 != 0, 4)]⟩
  | 0x10 => ⟨.scmp (cmpOf r.sub) (reg r.sd) (reg r.sa) (reg r.sb), r.zBad ++ [(decide (10 ≤ r.sub), 4)]⟩
  | 0x11 => ⟨.ssel (reg r.sd) (reg r.sa) (reg r.sb) (reg r.sc), r.zBad ++ [(r.sub != 0, 4)]⟩
  | 0x12 => ⟨.spopc (reg r.sd) (reg r.sa), r.zBad ++ [(r.sub != 0, 4)]⟩
  | 0x13 => ⟨.sclz (reg r.sd) (reg r.sa), r.zBad ++ [(r.sub != 0, 4)]⟩
  | 0x14 => ⟨.sctz (reg r.sd) (reg r.sa), r.zBad ++ [(r.sub != 0, 4)]⟩
  | 0x15 => ⟨.sbfx (reg r.sd) (reg r.sa) (reg r.sb) (isOne (r.sub % 2)), r.zBad ++ [(r.sub / 2 != 0, 4)]⟩
  | 0x16 => ⟨.sbfi (reg r.sd) (reg r.sa) (reg r.sb) (reg r.sc), r.zBad ++ [(r.sub != 0, 4)]⟩
  | 0x24 => ⟨.emset (reg r.sa), r.zBad ++ [(r.sub != 0, 4)]⟩
  | 0x25 => ⟨.emand (reg r.sd) (reg r.sa), r.zBad ++ [(r.sub != 0, 4)]⟩
  | 0x26 => ⟨.emget (reg r.sd), r.zBad ++ [(r.sub != 0, 4)]⟩
  | 0x27 => ⟨.exit (if r.sub % 2 = 1 then some (reg r.sa) else none), r.zBad ++ [(r.sub / 2 != 0, 4)]⟩
  | 0x33 => ⟨.jr (reg r.sa) (.ofNat 16 r.sub), r.zBad⟩
  | 0x35 => ⟨.callr (reg r.sd) (reg r.sa) (.ofNat 16 r.sub), r.zBad⟩
  | 0x36 => ⟨.ret (reg r.sa), r.zBad ++ [(r.sub != 0, 4)]⟩
  | 0x3A => ⟨.loopx (.ofNat 2 r.sub), r.zBad ++ [(r.sub / 2 != 0, 4)]⟩
  | 0x40 => ⟨.waitf (if r.sub % 2 = 1 then none else some ⟨.ofNat 16 r.sa, reg r.sb⟩), r.zBad ++ [(r.sub / 2 != 0, 4)] ++ [(r.sub % 2 == 0 && r.sa / 16 != 0, 5)]⟩
  | 0x41 => ⟨.yield, r.zBad ++ [(r.sub != 0, 4)]⟩
  | 0x47 =>
    if r.sub % 2 = 1 then ⟨.sentClose, r.zBad ++ [(r.sub / 2 != 0, 4)]⟩
    else ⟨.sent, r.zBad ++ [(r.sub / 2 != 0, 4)]⟩
  | 0x48 => ⟨.step (reg r.sa), r.zBad ++ [(r.sub != 0, 4)]⟩
  | 0x51 => ⟨.rft, r.zBad ++ [(r.sub != 0, 4)]⟩
  | 0x55 => ⟨.haltw, r.zBad ++ [(r.sub != 0, 4)]⟩
  | _ => ⟨.cnop, [(true, 1)]⟩

/-- The immediate and branch forms of the C slot (16 Table 16.1). -/
def decodeCImm (r : CImm) : Dec :=
  match r.op with
  | 0x18 => ⟨.saddi (reg r.sd) (reg r.sa) (.ofNat 32 r.imm), [(r.sub != 0, 4)]⟩
  | 0x19 => ⟨.sandi (reg r.sd) (reg r.sa) (.ofNat 32 r.imm), [(r.sub != 0, 4)]⟩
  | 0x1A => ⟨.sori (reg r.sd) (reg r.sa) (.ofNat 32 r.imm), [(r.sub != 0, 4)]⟩
  | 0x1B => ⟨.sxori (reg r.sd) (reg r.sa) (.ofNat 32 r.imm), [(r.sub != 0, 4)]⟩
  | 0x1C => ⟨.sli (reg r.sd) (.ofNat 32 r.imm), [(r.sub != 0, 4)]⟩
  | 0x1D => ⟨.slih (reg r.sd) (reg r.sa) (.ofNat 32 r.imm), [(r.sub != 0, 4)]⟩
  | 0x1E => ⟨.sshli (reg r.sd) (reg r.sa) (.ofNat 64 r.imm), [(r.sub != 0, 4)] ++ [(r.imm / 64 != 0, 4)]⟩
  | 0x1F => ⟨.sshri (reg r.sd) (reg r.sa) (.ofNat 64 r.imm) (isOne (r.sub % 2)), [(r.sub / 2 != 0, 4)] ++ [(r.imm / 64 != 0, 4)]⟩
  | 0x20 => ⟨.sget (reg r.sd) (.ofNat 8 r.imm), [(r.sub != 0, 4)] ++ [(r.imm / 256 != 0, 5)]⟩
  | 0x21 => ⟨.sset (.ofNat 8 r.imm) (reg r.sa), [(r.sub != 0, 4)] ++ [(r.imm / 256 != 0, 5)]⟩
  | 0x30 => ⟨.br (.ofNat 32 r.imm), []⟩
  | 0x31 => ⟨.bc (bcondOf r.sub) (reg r.sa) (.ofNat 32 r.imm), [(decide (6 ≤ r.sub), 4)]⟩
  | 0x32 => ⟨.bzm (.ofNat 32 r.imm), []⟩
  | 0x34 => ⟨.call (reg r.sd) (.ofNat 32 r.imm), []⟩
  | 0x37 => ⟨.lpad (.ofNat 16 r.sub), [(r.imm != 0, 4)]⟩
  | 0x38 => ⟨.loop (.ofNat 2 r.sub) (reg r.sa) (.ofNat 32 r.imm), [(decide (2 ≤ r.sub), 4)]⟩
  | 0x39 => ⟨.loopi (.ofNat 2 r.sub) (.ofNat 16 (r.imm / 65536)) (.ofNat 16 r.imm), [(r.sub / 2 != 0, 4)]⟩
  | 0x42 => ⟨.bjoin (reg r.sa) (.ofNat 32 r.imm), [(r.sub != 0, 4)]⟩
  | 0x43 => ⟨.bleave (reg r.sa) (.ofNat 32 r.imm), [(r.sub != 0, 4)]⟩
  | 0x44 => ⟨.barv (reg r.sa) (.ofNat 32 r.imm), [(r.sub != 0, 4)]⟩
  | 0x45 => ⟨.bwait (reg r.sa) (.ofNat 32 r.imm), [(r.sub != 0, 4)]⟩
  | 0x46 => ⟨.bsync (reg r.sa) (.ofNat 32 r.imm), [(r.sub != 0, 4)]⟩
  | 0x50 => ⟨.trap (.ofNat 16 r.imm), [(r.sub != 0, 4)] ++ [(r.imm / 65536 != 0, 4)]⟩
  | 0x52 => ⟨.tfrd (reg r.sd) (reg r.sa) (.ofNat 32 r.imm), [(r.sub != 0, 4)]⟩
  | 0x53 => ⟨.tfwr (reg r.sd) (reg r.sa) (.ofNat 32 r.imm), [(r.sub != 0, 4)]⟩
  | 0x54 => ⟨.brk (.ofNat 12 r.imm), [(r.sub != 0, 4)] ++ [(r.imm / 4096 != 0, 4)]⟩
  | _ => ⟨.cnop, [(true, 1)]⟩

/-- The opcodes of the register form (02 Table 2.18). -/
def cRegForm (op : Nat) : Bool :=
  decide (0x01 ≤ op ∧ op ≤ 0x16) || decide (0x24 ≤ op ∧ op ≤ 0x27) ||
    [0x33, 0x35, 0x36, 0x3A, 0x40, 0x41, 0x47, 0x48, 0x51, 0x55].contains op

/-- The C slot. CNOP gives nothing but its gap and ys (02 R41). -/
def decodeC (w : Nat) : Dec :=
  if fld w 48 8 = 0 then ⟨.cnop, []⟩
  else if cRegForm (fld w 48 8) then
    ⟨(decodeCReg (.of w)).i, (decodeCReg (.of w)).bad ++ (CReg.of w).topBad⟩
  else ⟨(decodeCImm (.of w)).i, (decodeCImm (.of w)).bad ++ (CImm.of w).topBad⟩

/-- A syllable of a slot, with every check that its bits alone can fail (02 R42). -/
def decodeSyl : Slot → Nat → Dec
  | .V, w => decodeV w
  | .M, w => decodeM (.of w)
  | .E, w => decodeE w
  | .C, w => decodeC w

/-- The instruction of a syllable, or the ILLOP detail it is rejected with: the lowest that applies. -/
def decodeSlot (sl : Slot) (w : Nat) : Except Nat Instr :=
  match lowest ((decodeSyl sl w).bad ++ (decodeSyl sl w).i.details) with
  | none => .ok (decodeSyl sl w).i
  | some d => .error d

/-- A bundle read from its 256 bits, the V syllable in [63:0] (02 R39, R40). A rejected syllable stands as
its ILLOP detail. -/
structure Bundle where
  v   : Except Nat Instr
  m   : Except Nat Instr
  e   : Except Nat Instr
  c   : Except Nat Instr
  gap : Nat
  ys  : Bool

/-- The bundle whose 256 bits are w. -/
def decodeBundle (w : Nat) : Bundle :=
  { v := decodeSlot .V (fld w 0 64), m := decodeSlot .M (fld w 64 64), e := decodeSlot .E (fld w 128 64),
    c := decodeSlot .C (fld w 192 64), gap := fld w 253 3, ys := isOne (fld w 252 1) }

/-- A little-endian number from bytes. -/
def leNat : List Byte → Nat
  | [] => 0
  | b :: l => b.toNat + 256 * leNat l

/-- The n low bytes of a number, little-endian. -/
def leBytes : Nat → Nat → List Byte
  | 0, _ => []
  | n + 1, w => BitVec.ofNat 8 w :: leBytes n (w / 256)

/-- The bundle that 32 bytes hold (02 R39). -/
def decodeBytes (l : List Byte) : Bundle := decodeBundle (leNat (l.take Config.bundleBytes))

/-! The encoder. -/

/-- The slot of an instruction; a step of the machine has none. -/
def Instr.slot : Instr → Option Slot
  | .vnop | .vadd _ _ _ _ | .vsub _ _ _ _ | .vmul _ _ _ _ | .vmulh _ _ _ | .vmad _ _ _ _ _ | .vneg _ _ _
  | .vabs _ _ _ | .vmin _ _ _ | .vmax _ _ _ | .vavg _ _ _ _ | .vsad _ _ _ _ _ | .vdot _ _ _ _ _ | .vshl _ _ _ _
  | .vshr _ _ _ | .vsra _ _ _ | .vrot _ _ _ | .vand _ _ _ | .vor _ _ _ | .vxor _ _ _ | .vandn _ _ _ | .vnot _ _
  | .vclz _ _ | .vpopc _ _ | .vbrev _ _ | .vbfx _ _ _ | .vbfi _ _ _ _ | .vcmp _ _ _ _ | .vsel _ _ _ _
  | .vmov _ _ | .vprm _ _ _ _ | .vlane _ _ | .vaddi _ _ _ | .vandi _ _ _ | .vori _ _ _ | .vxori _ _ _
  | .vimm _ _ | .vfadd _ _ _ _ _ | .vfsub _ _ _ _ _ | .vfmul _ _ _ _ _ | .vfma _ _ _ _ _ _ | .vfnma _ _ _ _ _ _
  | .vfmin _ _ _ | .vfmax _ _ _ | .vfcmp _ _ _ _ | .vfclass _ _ | .vfrnd _ _ _ | .vfscl _ _ _ _ _
  | .vfdot2 _ _ _ _ _ _ | .vfkey _ _ | .vcvt _ _ _ _ _ | .vpack _ _ _ _ _ _ | .vunpk _ _ _ | .vbexp _ _
  | .vbq _ _ | .vbdq _ _ _ _ | .vrcp _ _ _ | .vrsq _ _ _ | .vsqrt _ _ _ | .vexp2 _ _ _ | .vlog2 _ _ _
  | .vsinp _ _ _ | .vcosp _ _ _ | .vtanh _ _ _ | .vshfl _ _ _ | .vshflr _ _ _ _ | .vbcst _ _ _
  | .vscan _ _ _ _ _ _ | .vred _ _ _ _ _ | .vcomp _ _ | .vget _ _ _ | .vins _ _ _ | .vtrd _ _ _ | .vtwr _ _ _ => some .V
  | .mnop | .lld _ _ _ _ _ | .lst _ _ _ | .llds _ _ _ _ | .lsts _ _ _ _ | .latom _ _ _ _ | .lcas _ _ _
  | .qenq _ _ _ _ | .qdeq _ _ _ _ _ _ | .qstat _ _ _ | .gld _ _ _ _ _ | .gst _ _ _ _ _ | .gatom _ _ _ _ _ _
  | .gred _ _ _ _ _ _ | .gcas _ _ _ _ _ | .gldc _ _ _ _ _ _ | .sldc _ _ _ _ _ | .sgld _ _ _ _ _ _
  | .sgst _ _ _ _ _ _ | .fence _ _ _ _ | .l1inv | .wcfl _ | .pref _ _ | .hint _ _ _ _ _ | .phase _
  | .signal _ _ _ _ _ _ | .sack _ _ | .quiet _ _ | .sarm _ _ _ | .sarmOff _ _ | .launch _ _ _ _
  | .pgfetch _ _ _ _ _ | .xinv _ _ _ _ => some .M
  | .enop | .cpygl _ _ _ _ _ _ | .cpylg _ _ _ _ _ _ | .cpyll _ _ _ _ _ | .cpygg _ _ _ _ _ _ _
  | .cpyfil _ _ _ _ _ _ | .cpyp _ _ _ _ | .tld _ _ _ _ _ | .tst _ _ _ _ _ | .talloc _ _ _ | .tfree _
  | .thand _ _ | .ttake _ _ _ | .tdesc _ _ | .tsetd _ _ | .mzero _ _ | .mhfa _ _ _ _ _ _ _ | .mbmm _ _ _ _ _ _
  | .msca _ _ _ | .mhad _ _ _ | .mdrn _ _ _ _ | .mcvt _ _ _ _ | .madd _ _ _ _ | .mscl _ _ _ _ | .msetd _ _ => some .E
  | .cnop | .sadd _ _ _ | .ssub _ _ _ | .smul _ _ _ | .smulh _ _ _ _ | .sdiv _ _ _ _ | .srem _ _ _ _
  | .sand _ _ _ | .sor _ _ _ | .sxor _ _ _ | .sandn _ _ _ | .sshl _ _ _ | .sshr _ _ _ | .ssra _ _ _
  | .smin _ _ _ _ | .smax _ _ _ _ | .scmp _ _ _ _ | .ssel _ _ _ _ | .spopc _ _ | .sclz _ _ | .sctz _ _
  | .sbfx _ _ _ _ | .sbfi _ _ _ _ | .saddi _ _ _ | .sandi _ _ _ | .sori _ _ _ | .sxori _ _ _ | .sli _ _
  | .slih _ _ _ | .sshli _ _ _ | .sshri _ _ _ _ | .sget _ _ | .sset _ _ | .emset _ | .emand _ _ | .emget _
  | .exit _ | .br _ | .bc _ _ _ | .bzm _ | .jr _ _ | .call _ _ | .callr _ _ _ | .ret _ | .lpad _ | .loop _ _ _
  | .loopi _ _ _ | .loopx _ | .waitf _ | .yield | .bjoin _ _ | .bleave _ _ | .barv _ _ | .bwait _ _
  | .bsync _ _ | .sent | .sentClose | .step _ | .trap _ | .rft | .tfrd _ _ _ | .tfwr _ _ _ | .brk _ | .haltw => some .C
  | .bundleIssue _ | .resultWriteback _ | .asyncResultWrite _ _ | .accessComplete _ _ | .trapDelivery _
  | .sentenceRestart _ | .lockstepDisagreement _ | .warpSwitch _ | .quantumExpiry _ | .holdtmo _ | .waitfWake _
  | .barrierRelease _ _ | .fifoOpResume _ | .phaseDrainEnd _ | .warpResourceRelease _ | .slotClearDone _ _
  | .vtwrCommit _ | .matrixEntryStart _ | .mbmmPassEnd _ _ | .matrixEntryFinish _ _ | .copyComplete _ _
  | .copySuspend _ _ | .cpypFlitArrival _ _ | .signalRecordAppend _ _ | .lineRequest _ _ | .l2Atomic _ _
  | .pinRetryReplay _ | .pinTimeout _ | .l2Writeback _ | .eccWriteback _ | .scrub _ | .heartbeatReceived _
  | .heartbeatMiss _ | .stackFailed _ | .stackRetrainDone _ | .tlbWalkStart _ _ _ | .walkComplete _ _ _
  | .tierPromote _ _ | .migrationComplete _ _ | .migrationNodeFailure _ _ | .wcAgeDrain _ _ | .linkTrain _ _
  | .laneStateChange _ _ | .laneRetire _ | .pathDown _ | .retransmit _ | .remoteRequestArrival _
  | .streamResume _ | .streamAbort _ | .remoteReply _ _ | .drcExpire _ | .waveStart _ | .waveEnd _ _ _
  | .qtmoExpiry _ _ | .participantTimeout _ _ | .nodeFailure _ | .gangPlace _ _ | .launchComplete _
  | .watchdogExpiry _ | .stubRedirect _ _ _ | .powerOn _ | .inputDisconnect _ | .railSample _ _
  | .fluxEstimate _ _ _ | .backstop _ | .caddyExtInterrupt _ | .caddyTimerInterrupt _ | .alertClear _ _
  | .throtWrite _ _ _ | .capfluxWrite _ _ | .pcapWrite _ _ | .powerRegWrite _ _ _ | .otherDatagram _
  | .session _ | .ctxnew _ _ _ | .ctxend _ _ | .map _ _ _ | .unmap _ _ _ _ _ | .write _ _ _ _ | .read _ _ _ _
  | .modload _ _ _ | .hostLaunch _ _ _ | .queueCreate _ _ _ _ _ | .queueBind _ _ _ | .queueEnd _ _
  | .queueSet _ _ _ _ _ | .part _ _ | .preempt _ _ | .resume _ _ _ | .reset _ _ | .qfix _ _ _ | .stackcfg _ _ _
  | .window _ _ _ _ _ _ | .telem _ _ | .attest _ _ | .power _ _ _ _ | .fjodyDebug _ _ | .landingPadCheck _
  | .inflightReplay _ | .refreshHandBack _ | .registerParticipantSet _ _ | .softError _ => none

/-- The syllable of an instruction, its unused fields zero, gap 0 and not yield-safe. A step of the machine
has no encoding. -/
def encode : Instr → Nat
  | .vnop => 0
  | .vadd h a b sat => VReg.word { op := 0x01, et := h.et.code, vd := h.d.reg.val, wbs := h.d.wbs.toNat, le := h.d.le.toNat, xn := h.d.xn.val, nm := h.nm.toNat, opa := a.sel.code, moda := a.md.code, opb := b.sel.code, modb := b.md.code, sat := sat.toNat }
  | .vsub h a b sat => VReg.word { op := 0x02, et := h.et.code, vd := h.d.reg.val, wbs := h.d.wbs.toNat, le := h.d.le.toNat, xn := h.d.xn.val, nm := h.nm.toNat, opa := a.sel.code, moda := a.md.code, opb := b.sel.code, modb := b.md.code, sat := sat.toNat }
  | .vmul h a b sat => VReg.word { op := 0x03, et := h.et.code, vd := h.d.reg.val, wbs := h.d.wbs.toNat, le := h.d.le.toNat, xn := h.d.xn.val, nm := h.nm.toNat, opa := a.sel.code, moda := a.md.code, opb := b.sel.code, modb := b.md.code, sat := sat.toNat }
  | .vmulh h a b => VReg.word { op := 0x04, et := h.et.code, vd := h.d.reg.val, wbs := h.d.wbs.toNat, le := h.d.le.toNat, xn := h.d.xn.val, nm := h.nm.toNat, opa := a.sel.code, moda := a.md.code, opb := b.sel.code, modb := b.md.code }
  | .vmad h a b c sat => VReg.word { op := 0x05, et := h.et.code, vd := h.d.reg.val, wbs := h.d.wbs.toNat, le := h.d.le.toNat, xn := h.d.xn.val, nm := h.nm.toNat, opa := a.sel.code, moda := a.md.code, opb := b.sel.code, modb := b.md.code, opc := c.sel.code, modc := c.md.code, sat := sat.toNat }
  | .vneg h a sat => VReg.word { op := 0x06, et := h.et.code, vd := h.d.reg.val, wbs := h.d.wbs.toNat, le := h.d.le.toNat, xn := h.d.xn.val, nm := h.nm.toNat, opa := a.sel.code, moda := a.md.code, sat := sat.toNat }
  | .vabs h a sat => VReg.word { op := 0x07, et := h.et.code, vd := h.d.reg.val, wbs := h.d.wbs.toNat, le := h.d.le.toNat, xn := h.d.xn.val, nm := h.nm.toNat, opa := a.sel.code, moda := a.md.code, sat := sat.toNat }
  | .vmin h a b => VReg.word { op := 0x08, et := h.et.code, vd := h.d.reg.val, wbs := h.d.wbs.toNat, le := h.d.le.toNat, xn := h.d.xn.val, nm := h.nm.toNat, opa := a.sel.code, moda := a.md.code, opb := b.sel.code, modb := b.md.code }
  | .vmax h a b => VReg.word { op := 0x09, et := h.et.code, vd := h.d.reg.val, wbs := h.d.wbs.toNat, le := h.d.le.toNat, xn := h.d.xn.val, nm := h.nm.toNat, opa := a.sel.code, moda := a.md.code, opb := b.sel.code, modb := b.md.code }
  | .vavg h a b fl => VReg.word { op := 0x0A, et := h.et.code, vd := h.d.reg.val, wbs := h.d.wbs.toNat, le := h.d.le.toNat, xn := h.d.xn.val, nm := h.nm.toNat, opa := a.sel.code, moda := a.md.code, opb := b.sel.code, modb := b.md.code, sub := fl.toNat }
  | .vsad h a b c sat => VReg.word { op := 0x0B, et := h.et.code, vd := h.d.reg.val, wbs := h.d.wbs.toNat, le := h.d.le.toNat, xn := h.d.xn.val, nm := h.nm.toNat, opa := a.sel.code, moda := a.md.code, opb := b.sel.code, modb := b.md.code, opc := c.sel.code, modc := c.md.code, sat := sat.toNat }
  | .vdot h a b c sat => VReg.word { op := 0x0C, et := h.et.code, vd := h.d.reg.val, wbs := h.d.wbs.toNat, le := h.d.le.toNat, xn := h.d.xn.val, nm := h.nm.toNat, opa := a.sel.code, moda := a.md.code, opb := b.sel.code, modb := b.md.code, opc := c.sel.code, modc := c.md.code, sat := sat.toNat }
  | .vshl h a b sat => VReg.word { op := 0x0D, et := h.et.code, vd := h.d.reg.val, wbs := h.d.wbs.toNat, le := h.d.le.toNat, xn := h.d.xn.val, nm := h.nm.toNat, opa := a.sel.code, moda := a.md.code, opb := b.sel.code, modb := b.md.code, sat := sat.toNat }
  | .vshr h a b => VReg.word { op := 0x0E, et := h.et.code, vd := h.d.reg.val, wbs := h.d.wbs.toNat, le := h.d.le.toNat, xn := h.d.xn.val, nm := h.nm.toNat, opa := a.sel.code, moda := a.md.code, opb := b.sel.code, modb := b.md.code }
  | .vsra h a b => VReg.word { op := 0x0F, et := h.et.code, vd := h.d.reg.val, wbs := h.d.wbs.toNat, le := h.d.le.toNat, xn := h.d.xn.val, nm := h.nm.toNat, opa := a.sel.code, moda := a.md.code, opb := b.sel.code, modb := b.md.code }
  | .vrot h a b => VReg.word { op := 0x10, et := h.et.code, vd := h.d.reg.val, wbs := h.d.wbs.toNat, le := h.d.le.toNat, xn := h.d.xn.val, nm := h.nm.toNat, opa := a.sel.code, moda := a.md.code, opb := b.sel.code, modb := b.md.code }
  | .vand h a b => VReg.word { op := 0x11, et := h.et.code, vd := h.d.reg.val, wbs := h.d.wbs.toNat, le := h.d.le.toNat, xn := h.d.xn.val, nm := h.nm.toNat, opa := a.sel.code, moda := a.md.code, opb := b.sel.code, modb := b.md.code }
  | .vor h a b => VReg.word { op := 0x12, et := h.et.code, vd := h.d.reg.val, wbs := h.d.wbs.toNat, le := h.d.le.toNat, xn := h.d.xn.val, nm := h.nm.toNat, opa := a.sel.code, moda := a.md.code, opb := b.sel.code, modb := b.md.code }
  | .vxor h a b => VReg.word { op := 0x13, et := h.et.code, vd := h.d.reg.val, wbs := h.d.wbs.toNat, le := h.d.le.toNat, xn := h.d.xn.val, nm := h.nm.toNat, opa := a.sel.code, moda := a.md.code, opb := b.sel.code, modb := b.md.code }
  | .vandn h a b => VReg.word { op := 0x14, et := h.et.code, vd := h.d.reg.val, wbs := h.d.wbs.toNat, le := h.d.le.toNat, xn := h.d.xn.val, nm := h.nm.toNat, opa := a.sel.code, moda := a.md.code, opb := b.sel.code, modb := b.md.code }
  | .vnot h a => VReg.word { op := 0x15, et := h.et.code, vd := h.d.reg.val, wbs := h.d.wbs.toNat, le := h.d.le.toNat, xn := h.d.xn.val, nm := h.nm.toNat, opa := a.sel.code, moda := a.md.code }
  | .vclz h a => VReg.word { op := 0x16, et := h.et.code, vd := h.d.reg.val, wbs := h.d.wbs.toNat, le := h.d.le.toNat, xn := h.d.xn.val, nm := h.nm.toNat, opa := a.sel.code, moda := a.md.code }
  | .vpopc h a => VReg.word { op := 0x17, et := h.et.code, vd := h.d.reg.val, wbs := h.d.wbs.toNat, le := h.d.le.toNat, xn := h.d.xn.val, nm := h.nm.toNat, opa := a.sel.code, moda := a.md.code }
  | .vbrev h a => VReg.word { op := 0x18, et := h.et.code, vd := h.d.reg.val, wbs := h.d.wbs.toNat, le := h.d.le.toNat, xn := h.d.xn.val, nm := h.nm.toNat, opa := a.sel.code, moda := a.md.code }
  | .vbfx h a b => VReg.word { op := 0x19, et := h.et.code, vd := h.d.reg.val, wbs := h.d.wbs.toNat, le := h.d.le.toNat, xn := h.d.xn.val, nm := h.nm.toNat, opa := a.sel.code, moda := a.md.code, opb := b.sel.code, modb := b.md.code }
  | .vbfi h a b c => VReg.word { op := 0x1A, et := h.et.code, vd := h.d.reg.val, wbs := h.d.wbs.toNat, le := h.d.le.toNat, xn := h.d.xn.val, nm := h.nm.toNat, opa := a.sel.code, moda := a.md.code, opb := b.sel.code, modb := b.md.code, opc := c.sel.code, modc := c.md.code }
  | .vcmp h a b cc => VReg.word { op := 0x1B, et := h.et.code, vd := h.d.reg.val, wbs := h.d.wbs.toNat, le := h.d.le.toNat, xn := h.d.xn.val, nm := h.nm.toNat, opa := a.sel.code, moda := a.md.code, opb := b.sel.code, modb := b.md.code, sub := cc.code }
  | .vsel h a b c => VReg.word { op := 0x1C, et := h.et.code, vd := h.d.reg.val, wbs := h.d.wbs.toNat, le := h.d.le.toNat, xn := h.d.xn.val, nm := h.nm.toNat, opa := a.sel.code, moda := a.md.code, opb := b.sel.code, modb := b.md.code, opc := c.sel.code, modc := c.md.code }
  | .vmov h a => VReg.word { op := 0x1D, et := h.et.code, vd := h.d.reg.val, wbs := h.d.wbs.toNat, le := h.d.le.toNat, xn := h.d.xn.val, nm := h.nm.toNat, opa := a.sel.code, moda := a.md.code }
  | .vprm h a b c => VReg.word { op := 0x1E, et := h.et.code, vd := h.d.reg.val, wbs := h.d.wbs.toNat, le := h.d.le.toNat, xn := h.d.xn.val, nm := h.nm.toNat, opa := a.sel.code, moda := a.md.code, opb := b.sel.code, modb := b.md.code, opc := c.sel.code, modc := c.md.code }
  | .vlane h m => VReg.word { op := 0x1F, et := h.et.code, vd := h.d.reg.val, wbs := h.d.wbs.toNat, le := h.d.le.toNat, xn := h.d.xn.val, nm := h.nm.toNat, sub := m.code }
  | .vaddi h a imm => VImmRaw.word { op := 0x20, et := h.et.code, vd := h.d.reg.val, wbs := h.d.wbs.toNat, le := h.d.le.toNat, xn := h.d.xn.val, opa := a.code, imm := imm.toNat }
  | .vandi h a imm => VImmRaw.word { op := 0x21, et := h.et.code, vd := h.d.reg.val, wbs := h.d.wbs.toNat, le := h.d.le.toNat, xn := h.d.xn.val, opa := a.code, imm := imm.toNat }
  | .vori h a imm => VImmRaw.word { op := 0x22, et := h.et.code, vd := h.d.reg.val, wbs := h.d.wbs.toNat, le := h.d.le.toNat, xn := h.d.xn.val, opa := a.code, imm := imm.toNat }
  | .vxori h a imm => VImmRaw.word { op := 0x23, et := h.et.code, vd := h.d.reg.val, wbs := h.d.wbs.toNat, le := h.d.le.toNat, xn := h.d.xn.val, opa := a.code, imm := imm.toNat }
  | .vimm h imm => VImmRaw.word { op := 0x24, et := h.et.code, vd := h.d.reg.val, wbs := h.d.wbs.toNat, le := h.d.le.toNat, xn := h.d.xn.val, imm := imm.toNat }
  | .vfadd h a b sat r => VReg.word { op := 0x30, et := h.et.code, vd := h.d.reg.val, wbs := h.d.wbs.toNat, le := h.d.le.toNat, xn := h.d.xn.val, nm := h.nm.toNat, opa := a.sel.code, moda := a.md.code, opb := b.sel.code, modb := b.md.code, sat := sat.toNat, rnd := r.code }
  | .vfsub h a b sat r => VReg.word { op := 0x31, et := h.et.code, vd := h.d.reg.val, wbs := h.d.wbs.toNat, le := h.d.le.toNat, xn := h.d.xn.val, nm := h.nm.toNat, opa := a.sel.code, moda := a.md.code, opb := b.sel.code, modb := b.md.code, sat := sat.toNat, rnd := r.code }
  | .vfmul h a b sat r => VReg.word { op := 0x32, et := h.et.code, vd := h.d.reg.val, wbs := h.d.wbs.toNat, le := h.d.le.toNat, xn := h.d.xn.val, nm := h.nm.toNat, opa := a.sel.code, moda := a.md.code, opb := b.sel.code, modb := b.md.code, sat := sat.toNat, rnd := r.code }
  | .vfma h a b c sat r => VReg.word { op := 0x33, et := h.et.code, vd := h.d.reg.val, wbs := h.d.wbs.toNat, le := h.d.le.toNat, xn := h.d.xn.val, nm := h.nm.toNat, opa := a.sel.code, moda := a.md.code, opb := b.sel.code, modb := b.md.code, opc := c.sel.code, modc := c.md.code, sat := sat.toNat, rnd := r.code }
  | .vfnma h a b c sat r => VReg.word { op := 0x34, et := h.et.code, vd := h.d.reg.val, wbs := h.d.wbs.toNat, le := h.d.le.toNat, xn := h.d.xn.val, nm := h.nm.toNat, opa := a.sel.code, moda := a.md.code, opb := b.sel.code, modb := b.md.code, opc := c.sel.code, modc := c.md.code, sat := sat.toNat, rnd := r.code }
  | .vfmin h a b => VReg.word { op := 0x35, et := h.et.code, vd := h.d.reg.val, wbs := h.d.wbs.toNat, le := h.d.le.toNat, xn := h.d.xn.val, nm := h.nm.toNat, opa := a.sel.code, moda := a.md.code, opb := b.sel.code, modb := b.md.code }
  | .vfmax h a b => VReg.word { op := 0x36, et := h.et.code, vd := h.d.reg.val, wbs := h.d.wbs.toNat, le := h.d.le.toNat, xn := h.d.xn.val, nm := h.nm.toNat, opa := a.sel.code, moda := a.md.code, opb := b.sel.code, modb := b.md.code }
  | .vfcmp h a b cc => VReg.word { op := 0x37, et := h.et.code, vd := h.d.reg.val, wbs := h.d.wbs.toNat, le := h.d.le.toNat, xn := h.d.xn.val, nm := h.nm.toNat, opa := a.sel.code, moda := a.md.code, opb := b.sel.code, modb := b.md.code, sub := cc.code }
  | .vfclass h a => VReg.word { op := 0x38, et := h.et.code, vd := h.d.reg.val, wbs := h.d.wbs.toNat, le := h.d.le.toNat, xn := h.d.xn.val, nm := h.nm.toNat, opa := a.sel.code, moda := a.md.code }
  | .vfrnd h a r => VReg.word { op := 0x39, et := h.et.code, vd := h.d.reg.val, wbs := h.d.wbs.toNat, le := h.d.le.toNat, xn := h.d.xn.val, nm := h.nm.toNat, opa := a.sel.code, moda := a.md.code, rnd := r.code }
  | .vfscl h a b sat r => VReg.word { op := 0x3A, et := h.et.code, vd := h.d.reg.val, wbs := h.d.wbs.toNat, le := h.d.le.toNat, xn := h.d.xn.val, nm := h.nm.toNat, opa := a.sel.code, moda := a.md.code, opb := b.sel.code, modb := b.md.code, sat := sat.toNat, rnd := r.code }
  | .vfdot2 h a b c sat r => VReg.word { op := 0x3B, et := h.et.code, vd := h.d.reg.val, wbs := h.d.wbs.toNat, le := h.d.le.toNat, xn := h.d.xn.val, nm := h.nm.toNat, opa := a.sel.code, moda := a.md.code, opb := b.sel.code, modb := b.md.code, opc := c.sel.code, modc := c.md.code, sat := sat.toNat, rnd := r.code }
  | .vfkey h a => VReg.word { op := 0x3C, et := h.et.code, vd := h.d.reg.val, wbs := h.d.wbs.toNat, le := h.d.le.toNat, xn := h.d.xn.val, nm := h.nm.toNat, opa := a.sel.code, moda := a.md.code }
  | .vcvt h a src sat r => VReg.word { op := 0x40, et := h.et.code, vd := h.d.reg.val, wbs := h.d.wbs.toNat, le := h.d.le.toNat, xn := h.d.xn.val, nm := h.nm.toNat, opa := a.sel.code, moda := a.md.code, sub := src.code, sat := sat.toNat, rnd := r.code }
  | .vpack h a b src sat r => VReg.word { op := 0x41, et := h.et.code, vd := h.d.reg.val, wbs := h.d.wbs.toNat, le := h.d.le.toNat, xn := h.d.xn.val, nm := h.nm.toNat, opa := a.sel.code, moda := a.md.code, opb := b.sel.code, modb := b.md.code, sub := src.code, sat := sat.toNat, rnd := r.code }
  | .vunpk h a src => VReg.word { op := 0x42, et := h.et.code, vd := h.d.reg.val, wbs := h.d.wbs.toNat, le := h.d.le.toNat, xn := h.d.xn.val, nm := h.nm.toNat, opa := a.sel.code, moda := a.md.code, sub := src.code }
  | .vbexp h a => VReg.word { op := 0x43, et := h.et.code, vd := h.d.reg.val, wbs := h.d.wbs.toNat, le := h.d.le.toNat, xn := h.d.xn.val, nm := h.nm.toNat, opa := a.sel.code, moda := a.md.code }
  | .vbq h a => VReg.word { op := 0x44, et := h.et.code, vd := h.d.reg.val, wbs := h.d.wbs.toNat, le := h.d.le.toNat, xn := h.d.xn.val, nm := h.nm.toNat, opa := a.sel.code, moda := a.md.code }
  | .vbdq h a sat r => VReg.word { op := 0x45, et := h.et.code, vd := h.d.reg.val, wbs := h.d.wbs.toNat, le := h.d.le.toNat, xn := h.d.xn.val, nm := h.nm.toNat, opa := a.sel.code, moda := a.md.code, sat := sat.toNat, rnd := r.code }
  | .vrcp h a sat => VReg.word { op := 0x50, et := h.et.code, vd := h.d.reg.val, wbs := h.d.wbs.toNat, le := h.d.le.toNat, xn := h.d.xn.val, nm := h.nm.toNat, opa := a.sel.code, moda := a.md.code, sat := sat.toNat }
  | .vrsq h a sat => VReg.word { op := 0x51, et := h.et.code, vd := h.d.reg.val, wbs := h.d.wbs.toNat, le := h.d.le.toNat, xn := h.d.xn.val, nm := h.nm.toNat, opa := a.sel.code, moda := a.md.code, sat := sat.toNat }
  | .vsqrt h a sat => VReg.word { op := 0x52, et := h.et.code, vd := h.d.reg.val, wbs := h.d.wbs.toNat, le := h.d.le.toNat, xn := h.d.xn.val, nm := h.nm.toNat, opa := a.sel.code, moda := a.md.code, sat := sat.toNat }
  | .vexp2 h a sat => VReg.word { op := 0x53, et := h.et.code, vd := h.d.reg.val, wbs := h.d.wbs.toNat, le := h.d.le.toNat, xn := h.d.xn.val, nm := h.nm.toNat, opa := a.sel.code, moda := a.md.code, sat := sat.toNat }
  | .vlog2 h a sat => VReg.word { op := 0x54, et := h.et.code, vd := h.d.reg.val, wbs := h.d.wbs.toNat, le := h.d.le.toNat, xn := h.d.xn.val, nm := h.nm.toNat, opa := a.sel.code, moda := a.md.code, sat := sat.toNat }
  | .vsinp h a sat => VReg.word { op := 0x55, et := h.et.code, vd := h.d.reg.val, wbs := h.d.wbs.toNat, le := h.d.le.toNat, xn := h.d.xn.val, nm := h.nm.toNat, opa := a.sel.code, moda := a.md.code, sat := sat.toNat }
  | .vcosp h a sat => VReg.word { op := 0x56, et := h.et.code, vd := h.d.reg.val, wbs := h.d.wbs.toNat, le := h.d.le.toNat, xn := h.d.xn.val, nm := h.nm.toNat, opa := a.sel.code, moda := a.md.code, sat := sat.toNat }
  | .vtanh h a sat => VReg.word { op := 0x57, et := h.et.code, vd := h.d.reg.val, wbs := h.d.wbs.toNat, le := h.d.le.toNat, xn := h.d.xn.val, nm := h.nm.toNat, opa := a.sel.code, moda := a.md.code, sat := sat.toNat }
  | .vshfl h a b => VReg.word { op := 0x60, et := h.et.code, vd := h.d.reg.val, wbs := h.d.wbs.toNat, le := h.d.le.toNat, xn := h.d.xn.val, nm := h.nm.toNat, opa := a.sel.code, moda := a.md.code, opb := b.sel.code, modb := b.md.code }
  | .vshflr h a b m => VReg.word { op := 0x61, et := h.et.code, vd := h.d.reg.val, wbs := h.d.wbs.toNat, le := h.d.le.toNat, xn := h.d.xn.val, nm := h.nm.toNat, opa := a.sel.code, moda := a.md.code, opb := b.sel.code, modb := b.md.code, sub := m.code }
  | .vbcst h a b => VReg.word { op := 0x62, et := h.et.code, vd := h.d.reg.val, wbs := h.d.wbs.toNat, le := h.d.le.toNat, xn := h.d.xn.val, nm := h.nm.toNat, opa := a.sel.code, moda := a.md.code, opb := b.sel.code, modb := b.md.code }
  | .vscan h a sat r op ex => VReg.word { op := 0x63, et := h.et.code, vd := h.d.reg.val, wbs := h.d.wbs.toNat, le := h.d.le.toNat, xn := h.d.xn.val, nm := h.nm.toNat, opa := a.sel.code, moda := a.md.code, sat := sat.toNat, rnd := r.code, sub := op.code + 8 * ex.toNat }
  | .vred h a sat r op => VReg.word { op := 0x64, et := h.et.code, vd := h.d.reg.val, wbs := h.d.wbs.toNat, le := h.d.le.toNat, xn := h.d.xn.val, nm := h.nm.toNat, opa := a.sel.code, moda := a.md.code, sat := sat.toNat, rnd := r.code, sub := op.code }
  | .vcomp h a => VReg.word { op := 0x65, et := h.et.code, vd := h.d.reg.val, wbs := h.d.wbs.toNat, le := h.d.le.toNat, xn := h.d.xn.val, nm := h.nm.toNat, opa := a.sel.code, moda := a.md.code }
  | .vget h a b => VReg.word { op := 0x66, et := h.et.code, vd := h.d.reg.val, wbs := h.d.wbs.toNat, le := h.d.le.toNat, xn := h.d.xn.val, nm := h.nm.toNat, opa := a.sel.code, moda := a.md.code, opb := b.sel.code, modb := b.md.code }
  | .vins h a b => VReg.word { op := 0x67, et := h.et.code, vd := h.d.reg.val, wbs := h.d.wbs.toNat, le := h.d.le.toNat, xn := h.d.xn.val, nm := h.nm.toNat, opa := a.sel.code, moda := a.md.code, opb := b.sel.code, modb := b.md.code }
  | .vtrd h hd b => VReg.word { op := 0x70, et := h.et.code, vd := h.d.reg.val, wbs := h.d.wbs.toNat, le := h.d.le.toNat, xn := h.d.xn.val, nm := h.nm.toNat, opa := hd.val, opb := b.sel.code, modb := b.md.code }
  | .vtwr h a b => VReg.word { op := 0x71, et := h.et.code, vd := h.d.reg.val, wbs := h.d.wbs.toNat, le := h.d.le.toNat, xn := h.d.xn.val, nm := h.nm.toNat, opa := a.sel.code, moda := a.md.code, opb := b.sel.code, modb := b.md.code }
  | .mnop => 0
  | .lld d w a le xn => MRaw.word { op := 0x01, dr := d.val, width := w.code, sb := a.sb.val, vi := a.vi.val, imm := a.imm.toNat, low7 := (a.uni.toNat + 2 * a.sx.toNat) + 64 * le.toNat + 8 * xn.val }
  | .lst d w a => MRaw.word { op := 0x02, dr := d.val, width := w.code, sb := a.sb.val, vi := a.vi.val, imm := a.imm.toNat, low7 := (a.uni.toNat + 2 * a.sx.toNat) }
  | .llds d w sb imm => MRaw.word { op := 0x03, dr := d.val, width := w.code, sb := sb.val, imm := imm.toNat }
  | .lsts d w sb imm => MRaw.word { op := 0x04, dr := d.val, width := w.code, sb := sb.val, imm := imm.toNat }
  | .latom d w a op => MRaw.word { op := 0x05, dr := d.val, width := w.code, sb := a.sb.val, vi := a.vi.val, imm := a.imm.toNat, low7 := op.code }
  | .lcas d w a => MRaw.word { op := 0x06, dr := d.val, width := w.code, sb := a.sb.val, vi := a.vi.val, imm := a.imm.toNat }
  | .qenq d w sb imm => MRaw.word { op := 0x08, dr := d.val, width := w.code, sb := sb.val, imm := imm.toNat }
  | .qdeq d w sb imm le xn => MRaw.word { op := 0x09, dr := d.val, width := w.code, sb := sb.val, imm := imm.toNat, low7 := 64 * le.toNat + 8 * xn.val }
  | .qstat d sb imm => MRaw.word { op := 0x0A, dr := d.val, sb := sb.val, imm := imm.toNat }
  | .gld k f d w a => MRaw.word { op := 0x10, cls := k.cls.val, scope := k.sc.code, fe := 1, flag := f.val, dr := d.val, width := w.code, sb := a.sb.val, vi := a.vi.val, imm := a.imm.toNat }
  | .gst k f d w a => MRaw.word { op := 0x11, cls := k.cls.val, scope := k.sc.code, fe := (feOf f), flag := (flagOf f), dr := d.val, width := w.code, sb := a.sb.val, vi := a.vi.val, imm := a.imm.toNat }
  | .gatom k f d w a op => MRaw.word { op := 0x12, cls := k.cls.val, scope := k.sc.code, fe := 1, flag := f.val, dr := d.val, width := w.code, sb := a.sb.val, vi := a.vi.val, imm := a.imm.toNat, low7 := op.code }
  | .gred k f d w a op => MRaw.word { op := 0x13, cls := k.cls.val, scope := k.sc.code, fe := (feOf f), flag := (flagOf f), dr := d.val, width := w.code, sb := a.sb.val, vi := a.vi.val, imm := a.imm.toNat, low7 := op.code }
  | .gcas k f d w a => MRaw.word { op := 0x14, cls := k.cls.val, scope := k.sc.code, fe := 1, flag := f.val, dr := d.val, width := w.code, sb := a.sb.val, vi := a.vi.val, imm := a.imm.toNat }
  | .gldc k d w a le xn => MRaw.word { op := 0x15, cls := k.cls.val, scope := k.sc.code, dr := d.val, width := w.code, sb := a.sb.val, vi := a.vi.val, imm := a.imm.toNat, low7 := (a.uni.toNat + 2 * a.sx.toNat) + 64 * le.toNat + 8 * xn.val }
  | .sldc k d w sb imm => MRaw.word { op := 0x16, cls := k.cls.val, scope := k.sc.code, dr := d.val, width := w.code, sb := sb.val, imm := imm.toNat }
  | .sgld k f d w sb imm => MRaw.word { op := 0x17, cls := k.cls.val, scope := k.sc.code, fe := 1, flag := f.val, dr := d.val, width := w.code, sb := sb.val, imm := imm.toNat }
  | .sgst k f d w sb imm => MRaw.word { op := 0x18, cls := k.cls.val, scope := k.sc.code, fe := (feOf f), flag := (flagOf f), dr := d.val, width := w.code, sb := sb.val, imm := imm.toNat }
  | .fence kind sc f mask => MRaw.word { op := 0x20, dr := kind.code, scope := sc.code, fe := (feOf f), flag := (flagOf f), imm := mask.toNat }
  | .l1inv => MRaw.word { op := 0x21 }
  | .wcfl f => MRaw.word { op := 0x22, fe := 1, flag := f.val }
  | .pref w a => MRaw.word { op := 0x23, width := w.code, sb := a.sb.val, vi := a.vi.val, imm := a.imm.toNat, low7 := (a.uni.toNat + 2 * a.sx.toNat) }
  | .hint f d sb sh imm => MRaw.word { op := 0x24, fe := (feOf f), flag := (flagOf f), dr := d.val, sb := sb.val, vi := sh.val, imm := imm.toNat }
  | .phase imm => MRaw.word { op := 0x25, imm := imm.toNat }
  | .signal k f d sb imm op => MRaw.word { op := 0x28, cls := k.cls.val, scope := k.sc.code, fe := (feOf f), flag := (flagOf f), dr := d.val, sb := sb.val, imm := imm.toNat, low7 := op.code, width := 3 }
  | .sack sb imm => MRaw.word { op := 0x29, sb := sb.val, imm := imm.toNat }
  | .quiet f d => MRaw.word { op := 0x2A, fe := 1, flag := f.val, dr := d.val }
  | .sarm q sb imm => MRaw.word { op := 0x2B, dr := q.val, sb := sb.val, imm := imm.toNat }
  | .sarmOff sb imm => MRaw.word { op := 0x2B, sb := sb.val, imm := imm.toNat, dr := 32 }
  | .launch f d sb imm => MRaw.word { op := 0x30, fe := 1, flag := f.val, dr := d.val, sb := sb.val, imm := imm.toNat }
  | .pgfetch f kind d sb imm => MRaw.word { op := 0x38, fe := 1, flag := f.val, width := kind.code, dr := d.val, sb := sb.val, imm := imm.toNat }
  | .xinv f d sb imm => MRaw.word { op := 0x39, fe := (feOf f), flag := (flagOf f), dr := d.val, sb := sb.val, imm := imm.toNat }
  | .enop => 0
  | .cpygl k f sa sd sg sx => ECopy.word { op := 0x01, cls := k.cls.val, scope := k.sc.code, fe := 1, flag := f.val, sa := sa.val, sd := sd.val, sg := sg.val, sx := sx.val }
  | .cpylg k f sa sd sg sx => ECopy.word { op := 0x02, cls := k.cls.val, scope := k.sc.code, fe := 1, flag := f.val, sa := sa.val, sd := sd.val, sg := sg.val, sx := sx.val }
  | .cpyll f sa sd sg sx => ECopy.word { op := 0x03, fe := 1, flag := f.val, sa := sa.val, sd := sd.val, sg := sg.val, sx := sx.val }
  | .cpygg k f sa sd sg sx pk => ECopy.word { op := 0x04, cls := k.cls.val, scope := k.sc.code, fe := 1, flag := f.val, sa := sa.val, sd := sd.val, sg := sg.val, sx := sx.val, sub := pk.toNat }
  | .cpyfil f sd sg imm hi g => ECopy.word { op := 0x05, fe := 1, flag := f.val, sd := sd.val, sg := sg.val, imm := imm.toNat, sub := (feOf g + 2 * hi.toNat), cls := (g.elim 0 fun q => q.k.cls.val), scope := (g.elim 0 fun q => q.k.sc.code), sx := (g.elim 0 fun q => q.sx.val) }
  | .cpyp f sa sg ch => ECopy.word { op := 0x06, fe := 1, flag := f.val, sa := sa.val, sg := sg.val, imm := ch.toNat }
  | .tld f hd base pit tr => EMat.word { op := 0x08, fe := (feOf f), flag := (flagOf f), hd := hd.val, ha := base.val, hb := pit.val, sub := tr.toNat }
  | .tst f hd base pit tr => EMat.word { op := 0x09, fe := 1, flag := f.val, hd := hd.val, ha := base.val, hb := pit.val, sub := tr.toNat }
  | .talloc hd sdesc sst => EMat.word { op := 0x10, hd := hd.val, ha := sdesc.val, hb := sst.val }
  | .tfree hd => EMat.word { op := 0x11, hd := hd.val }
  | .thand hd st => EMat.word { op := 0x12, hd := hd.val, ha := st.val }
  | .ttake hd se sst => EMat.word { op := 0x13, hd := hd.val, ha := se.val, hb := sst.val }
  | .tdesc hd sd => EMat.word { op := 0x14, hd := hd.val, hb := sd.val }
  | .tsetd hd sdesc => EMat.word { op := 0x15, hd := hd.val, ha := sdesc.val }
  | .mzero f hd => EMat.word { op := 0x20, fe := (feOf f), flag := (flagOf f), hd := hd.val }
  | .mhfa f et hd ha hb x32 win => EMat.word { op := 0x21, fe := (feOf f), flag := (flagOf f), et := et.code, hd := hd.val, ha := ha.val, hb := hb.val, sub := x32.toNat, wmode := (feOf win), dy := (win.elim 0 fun q => q.dy.toNat), dx := (win.elim 0 fun q => q.dx.toNat) }
  | .mbmm f rg hd ha hb win => EMat.word { op := 0x22, fe := (feOf f), flag := (flagOf f), rung := rg.code, hd := hd.val, ha := ha.val, hb := hb.val, wmode := (feOf win), dy := (win.elim 0 fun q => q.dy.toNat), dx := (win.elim 0 fun q => q.dx.toNat), et := 2 }
  | .msca f hd ha => EMat.word { op := 0x23, fe := (feOf f), flag := (flagOf f), hd := hd.val, ha := ha.val, et := 3 }
  | .mhad f et hd => EMat.word { op := 0x24, fe := (feOf f), flag := (flagOf f), et := et.code, hd := hd.val }
  | .mdrn f hd ha blk => EMat.word { op := 0x25, fe := (feOf f), flag := (flagOf f), hd := hd.val, ha := ha.val, sub := blk.val, et := 2 }
  | .mcvt f et hd ha => EMat.word { op := 0x26, fe := (feOf f), flag := (flagOf f), et := et.code, hd := hd.val, ha := ha.val }
  | .madd f et hd ha => EMat.word { op := 0x27, fe := (feOf f), flag := (flagOf f), et := et.code, hd := hd.val, ha := ha.val }
  | .mscl f hd ha row => EMat.word { op := 0x28, fe := (feOf f), flag := (flagOf f), hd := hd.val, ha := ha.val, sub := row.toNat, et := 3 }
  | .msetd f sa => EMat.word { op := 0x29, fe := (feOf f), flag := (flagOf f), ha := sa.val }
  | .cnop => 0
  | .sadd d a b => CReg.word { op := 0x01, sd := d.val, sa := a.val, sb := b.val }
  | .ssub d a b => CReg.word { op := 0x02, sd := d.val, sa := a.val, sb := b.val }
  | .smul d a b => CReg.word { op := 0x03, sd := d.val, sa := a.val, sb := b.val }
  | .smulh d a b u => CReg.word { op := 0x04, sd := d.val, sa := a.val, sb := b.val, sub := u.toNat }
  | .sdiv d a b u => CReg.word { op := 0x05, sd := d.val, sa := a.val, sb := b.val, sub := u.toNat }
  | .srem d a b u => CReg.word { op := 0x06, sd := d.val, sa := a.val, sb := b.val, sub := u.toNat }
  | .sand d a b => CReg.word { op := 0x07, sd := d.val, sa := a.val, sb := b.val }
  | .sor d a b => CReg.word { op := 0x08, sd := d.val, sa := a.val, sb := b.val }
  | .sxor d a b => CReg.word { op := 0x09, sd := d.val, sa := a.val, sb := b.val }
  | .sandn d a b => CReg.word { op := 0x0A, sd := d.val, sa := a.val, sb := b.val }
  | .sshl d a b => CReg.word { op := 0x0B, sd := d.val, sa := a.val, sb := b.val }
  | .sshr d a b => CReg.word { op := 0x0C, sd := d.val, sa := a.val, sb := b.val }
  | .ssra d a b => CReg.word { op := 0x0D, sd := d.val, sa := a.val, sb := b.val }
  | .smin d a b u => CReg.word { op := 0x0E, sd := d.val, sa := a.val, sb := b.val, sub := u.toNat }
  | .smax d a b u => CReg.word { op := 0x0F, sd := d.val, sa := a.val, sb := b.val, sub := u.toNat }
  | .scmp cc d a b => CReg.word { op := 0x10, sub := cc.code, sd := d.val, sa := a.val, sb := b.val }
  | .ssel d a b c => CReg.word { op := 0x11, sd := d.val, sa := a.val, sb := b.val, sc := c.val }
  | .spopc d a => CReg.word { op := 0x12, sd := d.val, sa := a.val }
  | .sclz d a => CReg.word { op := 0x13, sd := d.val, sa := a.val }
  | .sctz d a => CReg.word { op := 0x14, sd := d.val, sa := a.val }
  | .sbfx d a b sx => CReg.word { op := 0x15, sd := d.val, sa := a.val, sb := b.val, sub := sx.toNat }
  | .sbfi d a b c => CReg.word { op := 0x16, sd := d.val, sa := a.val, sb := b.val, sc := c.val }
  | .saddi d a imm => CImm.word { op := 0x18, sd := d.val, sa := a.val, imm := imm.toNat }
  | .sandi d a imm => CImm.word { op := 0x19, sd := d.val, sa := a.val, imm := imm.toNat }
  | .sori d a imm => CImm.word { op := 0x1A, sd := d.val, sa := a.val, imm := imm.toNat }
  | .sxori d a imm => CImm.word { op := 0x1B, sd := d.val, sa := a.val, imm := imm.toNat }
  | .sli d imm => CImm.word { op := 0x1C, sd := d.val, imm := imm.toNat }
  | .slih d a imm => CImm.word { op := 0x1D, sd := d.val, sa := a.val, imm := imm.toNat }
  | .sshli d a n => CImm.word { op := 0x1E, sd := d.val, sa := a.val, imm := n.val }
  | .sshri d a n ar => CImm.word { op := 0x1F, sd := d.val, sa := a.val, imm := n.val, sub := ar.toNat }
  | .sget d n => CImm.word { op := 0x20, sd := d.val, imm := n.toNat }
  | .sset n a => CImm.word { op := 0x21, imm := n.toNat, sa := a.val }
  | .emset a => CReg.word { op := 0x24, sa := a.val }
  | .emand d a => CReg.word { op := 0x25, sd := d.val, sa := a.val }
  | .emget d => CReg.word { op := 0x26, sd := d.val }
  | .exit m => CReg.word { op := 0x27, sub := (feOf m), sa := (m.elim 0 fun q => q.val) }
  | .br off => CImm.word { op := 0x30, imm := off.toNat }
  | .bc cc cr off => CImm.word { op := 0x31, sub := cc.code, sa := cr.val, imm := off.toNat }
  | .bzm off => CImm.word { op := 0x32, imm := off.toNat }
  | .jr a kind => CReg.word { op := 0x33, sa := a.val, sub := kind.val }
  | .call d off => CImm.word { op := 0x34, sd := d.val, imm := off.toNat }
  | .callr d a kind => CReg.word { op := 0x35, sd := d.val, sa := a.val, sub := kind.val }
  | .ret a => CReg.word { op := 0x36, sa := a.val }
  | .lpad kind => CImm.word { op := 0x37, sub := kind.val }
  | .loop lvl cr off => CImm.word { op := 0x38, sub := lvl.val, sa := cr.val, imm := off.toNat }
  | .loopi lvl cnt fin => CImm.word { op := 0x39, sub := lvl.val, imm := (cnt.toNat * 65536 + fin.toNat) }
  | .loopx lvl => CReg.word { op := 0x3A, sub := lvl.val }
  | .waitf t => CReg.word { op := 0x40, sub := (1 - feOf t), sa := (t.elim 0 fun q => q.f.val), sb := (t.elim 0 fun q => q.n.val) }
  | .yield => CReg.word { op := 0x41 }
  | .bjoin a imm => CImm.word { op := 0x42, sa := a.val, imm := imm.toNat }
  | .bleave a imm => CImm.word { op := 0x43, sa := a.val, imm := imm.toNat }
  | .barv a imm => CImm.word { op := 0x44, sa := a.val, imm := imm.toNat }
  | .bwait a imm => CImm.word { op := 0x45, sa := a.val, imm := imm.toNat }
  | .bsync a imm => CImm.word { op := 0x46, sa := a.val, imm := imm.toNat }
  | .sent => CReg.word { op := 0x47 }
  | .sentClose => CReg.word { op := 0x47, sub := 1 }
  | .step a => CReg.word { op := 0x48, sa := a.val }
  | .trap imm => CImm.word { op := 0x50, imm := imm.toNat }
  | .rft => CReg.word { op := 0x51 }
  | .tfrd d a imm => CImm.word { op := 0x52, sd := d.val, sa := a.val, imm := imm.toNat }
  | .tfwr v a imm => CImm.word { op := 0x53, sd := v.val, sa := a.val, imm := imm.toNat }
  | .brk imm => CImm.word { op := 0x54, imm := imm.toNat }
  | .haltw => CReg.word { op := 0x55 }
  | .bundleIssue _ | .resultWriteback _ | .asyncResultWrite _ _ | .accessComplete _ _ | .trapDelivery _
  | .sentenceRestart _ | .lockstepDisagreement _ | .warpSwitch _ | .quantumExpiry _ | .holdtmo _ | .waitfWake _
  | .barrierRelease _ _ | .fifoOpResume _ | .phaseDrainEnd _ | .warpResourceRelease _ | .slotClearDone _ _
  | .vtwrCommit _ | .matrixEntryStart _ | .mbmmPassEnd _ _ | .matrixEntryFinish _ _ | .copyComplete _ _
  | .copySuspend _ _ | .cpypFlitArrival _ _ | .signalRecordAppend _ _ | .lineRequest _ _ | .l2Atomic _ _
  | .pinRetryReplay _ | .pinTimeout _ | .l2Writeback _ | .eccWriteback _ | .scrub _ | .heartbeatReceived _
  | .heartbeatMiss _ | .stackFailed _ | .stackRetrainDone _ | .tlbWalkStart _ _ _ | .walkComplete _ _ _
  | .tierPromote _ _ | .migrationComplete _ _ | .migrationNodeFailure _ _ | .wcAgeDrain _ _ | .linkTrain _ _
  | .laneStateChange _ _ | .laneRetire _ | .pathDown _ | .retransmit _ | .remoteRequestArrival _
  | .streamResume _ | .streamAbort _ | .remoteReply _ _ | .drcExpire _ | .waveStart _ | .waveEnd _ _ _
  | .qtmoExpiry _ _ | .participantTimeout _ _ | .nodeFailure _ | .gangPlace _ _ | .launchComplete _
  | .watchdogExpiry _ | .stubRedirect _ _ _ | .powerOn _ | .inputDisconnect _ | .railSample _ _
  | .fluxEstimate _ _ _ | .backstop _ | .caddyExtInterrupt _ | .caddyTimerInterrupt _ | .alertClear _ _
  | .throtWrite _ _ _ | .capfluxWrite _ _ | .pcapWrite _ _ | .powerRegWrite _ _ _ | .otherDatagram _
  | .session _ | .ctxnew _ _ _ | .ctxend _ _ | .map _ _ _ | .unmap _ _ _ _ _ | .write _ _ _ _ | .read _ _ _ _
  | .modload _ _ _ | .hostLaunch _ _ _ | .queueCreate _ _ _ _ _ | .queueBind _ _ _ | .queueEnd _ _
  | .queueSet _ _ _ _ _ | .part _ _ | .preempt _ _ | .resume _ _ _ | .reset _ _ | .qfix _ _ _ | .stackcfg _ _ _
  | .window _ _ _ _ _ _ | .telem _ _ | .attest _ _ | .power _ _ _ _ | .fjodyDebug _ _ | .landingPadCheck _
  | .inflightReplay _ | .refreshHandBack _ | .registerParticipantSet _ _ | .softError _ => 0

/-- The bit at which a slot's syllable begins in a bundle (02 Table 2.1). -/
def Slot.bit : Slot → Nat
  | .V => 0 | .M => 64 | .E => 128 | .C => 192

/-- The 256 bits of a bundle that holds i alone. -/
def encodeBundle (i : Instr) : Nat :=
  match i.slot with
  | some sl => encode i * 2 ^ sl.bit
  | none => 0

/-- Is the syllable of a slot not the slot's NOP, or rejected? -/
def notNop (x : Except Nat Instr) : Bool :=
  match x with
  | .ok .vnop | .ok .mnop | .ok .enop | .ok .cnop => false
  | _ => true

/-- The one instruction of a bundle beside NOPs; a bundle of NOPs reads as its VNOP. -/
def Bundle.sole (b : Bundle) : Option Instr :=
  match [b.v, b.m, b.e, b.c].filter notNop with
  | [] => some .vnop
  | [.ok i] => some i
  | _ => none

/-- The instruction read from a bundle of nbits bits. -/
def decodeTableWord (nbits w : Nat) : Option Instr := (decodeBundle (w % 2 ^ nbits)).sole

end Sys2Proof
end

