-- ==== Sys2Proof/Machine/Num.lean ====
section
/-! DEFINITION. Numbers bit by bit (spec 01): integers of any width, the three float formats, exact
dyadic values, rounding, overflow, flushes, saturation and the sticky flags. A float is the Nat of its
bits; a flag set is the Nat of FPSTAT's bits. -/

namespace Sys2Proof.Num

/-! ## Integers (01 R15) -/

/-- The signed reading of the low w bits of n. -/
def sval (w n : Nat) : Int :=
  let m := n % 2 ^ w
  if m < 2 ^ (w - 1) then (m : Int) else (m : Int) - 2 ^ w

/-- The low w bits of an exact value: the wrap of 01 R15. -/
def wrap (w : Nat) (z : Int) : Nat := (z % (2 ^ w : Int)).toNat

/-- z held between lo and hi. -/
def clamp (lo hi z : Int) : Int := if z < lo then lo else if hi < z then hi else z

/-- The range of a w-bit integer type (01 R15). -/
def loOf (signed : Bool) (w : Nat) : Int := if signed then -(2 ^ (w - 1)) else 0
def hiOf (signed : Bool) (w : Nat) : Int := if signed then 2 ^ (w - 1) - 1 else 2 ^ w - 1

/-- "Fit" of 11: a wrap, or under sat a clamp to the type's range. -/
def fit (signed sat : Bool) (w : Nat) (z : Int) : Nat :=
  wrap w (if sat then clamp (loOf signed w) (hiOf signed w) z else z)

/-- The reading of an element, signed or unsigned. -/
def rd (signed : Bool) (w n : Nat) : Int := if signed then sval w n else (n % 2 ^ w : Nat)

/-- Bits in n (0 for 0): the position of its leading one, plus one. -/
def bitLen (n : Nat) : Nat := if n = 0 then 0 else Nat.log2 n + 1

/-- One bits among the low w. -/
def popc : Nat → Nat → Nat
  | 0, _ => 0
  | w + 1, n => n % 2 + popc w (n / 2)

/-- The low w bits in reverse order. -/
def rev : Nat → Nat → Nat
  | 0, _ => 0
  | w + 1, n => n % 2 * 2 ^ w + rev w (n / 2)

/-- Trailing zero bits among the low w. -/
def ctz : Nat → Nat → Nat
  | 0, _ => 0
  | w + 1, n => if n % 2 = 1 then 0 else 1 + ctz w (n / 2)

/-! ## Flags (01 Table 1.4) -/

def NV : Nat := 1
def DZ : Nat := 2
def OF : Nat := 4
def UF : Nat := 8
def IX : Nat := 16
def ID : Nat := 32
def BS : Nat := 64

/-! ## Formats (01 Table 1.1) -/

/-- The floating-point formats. -/
inductive Fmt where
  | f32 | f16 | b16
  deriving DecidableEq, Repr

/-- Exponent bits. -/
def Fmt.eb : Fmt → Nat
  | .f16 => 5
  | _ => 8

/-- Fraction bits. -/
def Fmt.fb : Fmt → Nat
  | .f32 => 23
  | .f16 => 10
  | .b16 => 7

def Fmt.bias (f : Fmt) : Nat := 2 ^ (f.eb - 1) - 1
def Fmt.w (f : Fmt) : Nat := 1 + f.eb + f.fb
/-- The bit of a sign. -/
def Fmt.sbit (f : Fmt) (neg : Bool) : Nat := if neg then 2 ^ (f.w - 1) else 0
def Fmt.inf (f : Fmt) (neg : Bool) : Nat := f.sbit neg + (2 ^ f.eb - 1) * 2 ^ f.fb
def Fmt.maxFin (f : Fmt) (neg : Bool) : Nat := f.inf neg - 1
/-- The canonical NaN (01 R18). -/
def Fmt.nan (f : Fmt) : Nat := (2 ^ f.eb - 1) * 2 ^ f.fb + 2 ^ (f.fb - 1)
def Fmt.one (f : Fmt) (neg : Bool) : Nat := f.sbit neg + f.bias * 2 ^ f.fb

/-- The operand flush bit of FPCTL (01 Table 1.3). -/
def Fmt.fin (f : Fmt) (ctl : Nat) : Bool :=
  match f with
  | .f32 => ctl.testBit 0
  | .f16 => ctl.testBit 2
  | .b16 => ctl.testBit 4

/-- The result flush bit of FPCTL. -/
def Fmt.fout (f : Fmt) (ctl : Nat) : Bool :=
  match f with
  | .f32 => ctl.testBit 1
  | .f16 => ctl.testBit 3
  | .b16 => ctl.testBit 5

/-- What a float's bits stand for: a NaN (signalling or not), an infinity, or (−1)^neg × m × 2^e. -/
inductive FV where
  | nan (sig : Bool)
  | inf (neg : Bool)
  | num (neg : Bool) (m : Nat) (e : Int)
  deriving DecidableEq, Repr

/-- The value of a float's bits (01 R13). -/
def unpack (f : Fmt) (b : Nat) : FV :=
  let s := b / 2 ^ (f.w - 1) % 2 == 1
  let ex := b / 2 ^ f.fb % 2 ^ f.eb
  let fr := b % 2 ^ f.fb
  if ex = 2 ^ f.eb - 1 then
    if fr = 0 then .inf s else .nan (fr / 2 ^ (f.fb - 1) == 0)
  else if ex = 0 then .num s fr (1 - (f.bias : Int) - f.fb)
  else .num s (fr + 2 ^ f.fb) ((ex : Int) - f.bias - f.fb)

/-- Is the float subnormal? -/
def isSub (f : Fmt) (b : Nat) : Bool := b / 2 ^ f.fb % 2 ^ f.eb == 0 && b % 2 ^ f.fb != 0

def FV.isNan : FV → Bool
  | .nan _ => true
  | _ => false
def FV.isInf : FV → Bool
  | .inf _ => true
  | _ => false
def FV.neg : FV → Bool
  | .nan _ => false
  | .inf s => s
  | .num s _ _ => s
def FV.isZero : FV → Bool
  | .num _ 0 _ => true
  | _ => false

/-- An operand of an arithmetic instruction: flushed under R23 (ID), a signalling NaN raising NV (R19). -/
def load (f : Fmt) (ctl b : Nat) : FV × Nat :=
  if isSub f b && f.fin ctl then
    (.num (b / 2 ^ (f.w - 1) % 2 == 1) 0 0, ID)
  else
    match unpack f b with
    | .nan true => (.nan true, NV)
    | v => (v, 0)

/-! ## Rounding (01 R16, R17, R24) -/

/-- m / 2^sh rounded to an integer by rnd, and whether that changed it. A shift past every bit of m is cut
to one that is just past them, which rounds alike. -/
def roundShift (m : Nat) (sh : Int) (neg : Bool) (rnd : Rnd) : Nat × Bool :=
  if sh ≤ 0 then (m * 2 ^ (-sh).toNat, false)
  else
    let k := min sh.toNat (bitLen m + 2)
    let q := m / 2 ^ k
    let r := m % 2 ^ k
    let up := match rnd with
      | .rne => 2 ^ k < 2 * r || (2 * r == 2 ^ k && q % 2 == 1)
      | .rz => false
      | .rd => neg && r != 0
      | .ru => !neg && r != 0
    (if up then q + 1 else q, r != 0)

/-- Table 1.2: does an overflow of this sign give an infinity? -/
def ovInf (rnd : Rnd) (neg : Bool) : Bool :=
  match rnd with
  | .rne => true
  | .rz => false
  | .rd => neg
  | .ru => !neg

/-- The infinity of a sign, clamped under sat (R17). -/
def infRes (f : Fmt) (sat neg : Bool) : Nat := if sat then f.maxFin neg else f.inf neg

/-- The exact value (−1)^neg × m × 2^e rounded once to f: overflow after rounding with an unbounded exponent
(R16), the result flush (R24) when fl is set, then sat (R17). Bits and flags. A value that is tiny in that sense and yet is
delivered as the smallest normal raises UF with IX, and so does a tiny nonzero one that, where nothing flushes it, rounds to zero: assumption
log 48. -/
def pack (f : Fmt) (rnd : Rnd) (fl sat neg : Bool) (m : Nat) (e : Int) : Nat × Nat :=
  if m = 0 then (f.sbit neg, 0)
  else
    let sh : Int := (bitLen m : Int) - (f.fb + 1)
    let u := roundShift m sh neg rnd
    let top : Int := e + sh + bitLen u.1 - 1
    if (f.bias : Int) < top then
      (if ovInf rnd neg then infRes f sat neg else f.maxFin neg, OF + IX)
    else if top < 1 - (f.bias : Int) then
      if fl then (f.sbit neg, UF + IX)
      else
        let d := roundShift m (1 - (f.bias : Int) - f.fb - e) neg rnd
        (f.sbit neg + d.1, if d.2 then UF + IX else 0)
    else
      let frac := if bitLen u.1 = f.fb + 1 then u.1 else u.1 / 2
      (f.sbit neg + (top + f.bias).toNat * 2 ^ f.fb + (frac - 2 ^ f.fb), if u.2 then IX else 0)

/-- A computed value delivered in format f. -/
def deliver (f : Fmt) (rnd : Rnd) (fl sat : Bool) : FV → Nat × Nat
  | .nan _ => (f.nan, 0)
  | .inf s => (infRes f sat s, 0)
  | .num s m e => pack f rnd fl sat s m e

/-! ## Exact products and sums (01 R37) -/

/-- The exact product; 0 × ∞ is invalid (R19). -/
def mulV : FV → FV → FV × Nat
  | .nan _, _ => (.nan false, 0)
  | _, .nan _ => (.nan false, 0)
  | .inf s, .inf t => (.inf (s != t), 0)
  | .inf s, .num t m _ => if m = 0 then (.nan false, NV) else (.inf (s != t), 0)
  | .num s m _, .inf t => if m = 0 then (.nan false, NV) else (.inf (s != t), 0)
  | .num s m e, .num t k d => (.num (s != t) (m * k) (e + d), 0)

/-- The value with its sign reversed. -/
def negV : FV → FV
  | .nan s => .nan s
  | .inf s => .inf (!s)
  | .num s m e => .num (!s) m e

/-- The least exponent of the finite addends. -/
def minExp : List FV → Int → Int
  | [], e => e
  | .num _ _ d :: l, e => minExp l (if d < e then d else e)
  | _ :: l, e => minExp l e

/-- The finite addends' sum in units of 2^e0. -/
def sumAt (e0 : Int) : List FV → Int
  | [] => 0
  | .num s m e :: l => (if s then -((m * 2 ^ (e - e0).toNat : Nat) : Int) else ((m * 2 ^ (e - e0).toNat : Nat) : Int)) + sumAt e0 l
  | _ :: l => sumAt e0 l

/-- The exact sum: NaN if any addend is, or (invalid) if infinities of both signs meet; an exact zero's sign
follows 12 R227: that of the addends where they all agree, else −0 under RD and +0 otherwise. A NaN is looked for first, so
that opposite infinities beside a quiet one raise nothing: assumption log 48. -/
def sumV (rnd : Rnd) (l : List FV) : FV × Nat :=
  if l.any FV.isNan then (.nan false, 0)
  else
    let pi := l.any fun v => v.isInf && !v.neg
    let ni := l.any fun v => v.isInf && v.neg
    if pi && ni then (.nan false, NV)
    else if pi then (.inf false, 0)
    else if ni then (.inf true, 0)
    else
      let e0 := minExp l 1000
      let t := sumAt e0 l
      if t = 0 then
        (.num (if l.all FV.neg then true else if l.all fun v => !v.neg then false else rnd == .rd) 0 0, 0)
      else (.num (decide (t < 0)) t.natAbs e0, 0)

/-! ## Conversions (01 R28 to R31) -/

/-- Float to integer (R29): clamped whatever sat says, NaN gives 0. -/
def toInt (signed : Bool) (w : Nat) (rnd : Rnd) : FV → Nat × Nat
  | .nan _ => (0, NV)
  | .inf s => (wrap w (if s then loOf signed w else hiOf signed w), NV)
  | .num s m e =>
    let q := roundShift m (-e) s rnd
    let v : Int := if s then -(q.1 : Int) else q.1
    if v < loOf signed w then (wrap w (loOf signed w), NV)
    else if hiOf signed w < v then (wrap w (hiOf signed w), NV)
    else (wrap w v, if q.2 then IX else 0)

/-- Integer to float (R30). -/
def ofInt (f : Fmt) (rnd : Rnd) (fl sat : Bool) (z : Int) : Nat × Nat := pack f rnd fl sat (decide (z < 0)) z.natAbs 0

/-- The orderable key (R31). -/
def key (f : Fmt) (b : Nat) : Nat :=
  if (unpack f b).isNan then 0
  else if b / 2 ^ (f.w - 1) % 2 = 0 then b % 2 ^ f.w + 2 ^ (f.w - 1)
  else 2 ^ f.w - 1 - b % 2 ^ f.w

/-- minimumNumber and maximumNumber (R20) of two floats' bits, with the flushes of R23 and R24. -/
def minMax (f : Fmt) (ctl : Nat) (max : Bool) (a b : Nat) : Nat × Nat :=
  let va := load f ctl a
  let vb := load f ctl b
  let fa := if va.2 = ID then f.sbit va.1.neg else a % 2 ^ f.w
  let fb := if vb.2 = ID then f.sbit vb.1.neg else b % 2 ^ f.w
  let fl := va.2 ||| vb.2
  if va.1.isNan && vb.1.isNan then (f.nan, fl)
  else
    let r :=
      if va.1.isNan then fb
      else if vb.1.isNan then fa
      else if max then (if key f fb ≤ key f fa then fa else fb)
      else (if key f fa ≤ key f fb then fa else fb)
    if isSub f r && f.fout ctl then (f.sbit (r / 2 ^ (f.w - 1) == 1), fl ||| (UF + IX)) else (r, fl)

/-- Order of two values, none when unordered (R21); −0 equals +0. -/
def cmpV (a b : FV) : Option Ordering :=
  match a, b with
  | .nan _, _ => none
  | _, .nan _ => none
  | .inf s, .inf t => some (compare t.toNat s.toNat)
  | .inf s, _ => some (if s then .lt else .gt)
  | _, .inf t => some (if t then .gt else .lt)
  | a, b =>
    let e0 := minExp [a, b] 1000
    some (compare (sumAt e0 [a]) (sumAt e0 [b]))

/-! ## Blocks (01 R32 to R36) -/

/-- floor(log2 |x|) of a finite nonzero value. -/
def expOf (m : Nat) (e : Int) : Int := (bitLen m : Int) - 1 + e

/-- The greatest floor(log2 |x|) among the finite nonzero values. -/
def maxLog : List FV → Option Int
  | [] => none
  | v :: l =>
    match v, maxLog l with
    | .num _ 0 _, r => r
    | .num _ m e, none => some (expOf m e)
    | .num _ m e, some x => some (if x < expOf m e then expOf m e else x)
    | _, r => r

/-- The exponent of a block (R35). -/
def blockExp (xs : List FV) : Nat :=
  match maxLog xs with
  | some x => (clamp 1 254 (127 + x)).toNat
  | none => if xs.any FV.isInf then 254 else 0

/-- The 8-bit mantissa pattern of an element of a block with exponent E, and its flags (R35). -/
def quantize (E : Nat) : FV → Nat × Nat
  | .nan _ => (0, NV)
  | .inf s => (if E = 0 then 0 else if s then 128 else 127, BS)
  | .num s m e =>
    if E = 0 || m = 0 then (0, 0)
    else
      let r := roundShift m (-(e + 6 - ((E : Int) - 127))) s .rne
      let z := clamp (-128) 127 (if s then -(r.1 : Int) else r.1)
      (wrap 8 z, (if r.2 then IX else 0) + (if z = 0 then UF else 0))

/-- An exponent byte as it is read: 255 decodes as 254 (R33). -/
def expByte (E : Nat) : Nat := if E = 255 then 254 else E

/-- The value of an element at rung 8 (R33). -/
def blockVal (E m8 : Nat) : FV :=
  let z := sval 8 m8
  if expByte E = 0 || z = 0 then .num false 0 0 else .num (decide (z < 0)) z.natAbs ((expByte E : Int) - 133)

/-- Mantissa bits of a rung. -/
def rungW : Rung → Nat
  | .r2 => 2 | .r3 => 3 | .r4 => 4 | .r6 => 6 | .r8 => 8

/-- The view of a mantissa at a width (R34): m_w, whether the clamp changed it, whether it underflowed. -/
def view (w m8 : Nat) : Int × Bool × Bool :=
  let z := sval 8 m8
  let q := roundShift z.natAbs (8 - w) (decide (z < 0)) .rne
  let t : Int := if z < 0 then -(q.1 : Int) else q.1
  let m := clamp (-(2 ^ (w - 1))) (2 ^ (w - 1) - 1) t
  (m, m != t, z != 0 && m == 0)

end Sys2Proof.Num
end

