-- ==== Sys2Proof/Machine/Sfu.lean ====
section
/-! DEFINITION. The special functions (spec 12 R237, Table 12.6). The special cases and every result that
is representable are exact. Where the exact value is not representable, the manual bounds the result
(1 ulp; VTANH 2 ulp) and leaves which value within the bound open: the model encloses the exact value
between two integers in units of a power of two, forms the values within the bound, and lets the opaque
Config.sfuPick choose among them. DEDUCED: the enclosures below are wide enough for their truncation
errors; assumption log 10. -/

namespace Sys2Proof.Num

/-- A positive value enclosed between lo and hi in units of 2^e; exact where they agree. -/
structure Enc where
  lo : Nat
  hi : Nat
  e  : Int
  deriving DecidableEq, Repr

/-- An exact positive value. -/
def Enc.exact (m : Nat) (e : Int) : Enc := { lo := m, hi := m, e := e }

/-- Is m × 2^e representable in F32? -/
def representable32 (m : Nat) (e : Int) : Bool := (pack .f32 .rne false false false m e).2 == 0

/-- Exponent of the unit in the last place of F32 at a value with this leading exponent. -/
def ulp32 (top : Int) : Int := if top < -126 then -149 else top - 23

/-- The multiples of the F32 ulp that lie within `bound` ulps of every value of the enclosure, ascending,
counted from `fuel` below its floor. -/
def within (x : Enc) (bound : Nat) (u : Int) : List Nat :=
  let d := (u - x.e).toNat
  let lo := if x.e ≤ u then x.lo / 2 ^ d else x.lo * 2 ^ (x.e - u).toNat
  let base := lo - bound
  ((List.range (2 * bound + 2)).map fun k => base + k).filter fun c =>
    if x.e ≤ u then x.hi ≤ (c + bound) * 2 ^ d && c * 2 ^ d ≤ x.lo + bound * 2 ^ d else true

/-- The F32 result of an SFU function whose exact magnitude is enclosed by x: exact where representable,
else a value within the bound, chosen by Config.sfuPick. Flags: OF and IX on overflow (R16), UF and IX on a
subnormal result, IX otherwise. -/
def sfuRes (op bits bound : Nat) (neg : Bool) (x : Enc) : Nat × Nat :=
  if x.lo = x.hi && representable32 x.lo x.e then pack .f32 .rne false false neg x.lo x.e
  else
    let u := ulp32 (expOf x.lo x.e)
    let cs := within x bound u
    let c := cs.getD (Config.sfuPick op bits % cs.length) (x.lo / 2 ^ (u - x.e).toNat)
    if 127 < expOf x.lo x.e then (Fmt.f32.inf neg, OF + IX)
    else if 127 < expOf c u then (Fmt.f32.maxFin neg, IX)
    else
      let r := pack .f32 .rne false false neg c u
      (r.1, (if c = 0 || expOf c u < -126 then UF + IX else IX))

/-- Newton's steps to a floor square root, from a guess above it. -/
def isqrtLoop : Nat → Nat → Nat → Nat
  | 0, _, g => g
  | fuel + 1, n, g =>
    let g' := (g + n / g) / 2
    if g' < g then isqrtLoop fuel n g' else g

/-- The floor of a square root. -/
def isqrt (n : Nat) : Nat := if n = 0 then 0 else isqrtLoop 64 n (2 ^ (bitLen n / 2 + 1))

/-- Bits of the fixed-point fractions below. -/
def fpP : Nat := 192

/-- π between two integers in units of 2^-192. -/
def piLo : Nat := 0x3243F6A8885A308D313198A2E03707344A4093822299F31D0
def piHi : Nat := piLo + 16

/-- 2^f for f = n / 2^k with 0 < n < 2^k, as a fraction times 2^192, by the bits of n from the top: c is
2^(1/2^i), r the product so far, both truncated. -/
def exp2Loop : Nat → Nat → Nat → Nat → Nat → Nat
  | 0, _, _, _, r => r
  | fuel + 1, k, n, c, r =>
    let c' := isqrt (c * 2 ^ fpP)
    let k' := k - 1
    exp2Loop fuel k' (n % 2 ^ k') c' (if n / 2 ^ k' % 2 = 1 then r * c' / 2 ^ fpP else r)

/-- 2^x of a finite nonzero x = (−1)^neg × m × 2^e: the integral part and an enclosure of 2 to the rest.
Below 2^-60 it is 1 moved by less than 2^-60. -/
def exp2Enc (neg : Bool) (m : Nat) (e : Int) : Enc :=
  if expOf m e < -60 then
    (if neg then { lo := 2 ^ 60 - 1, hi := 2 ^ 60, e := -60 } else { lo := 2 ^ 60, hi := 2 ^ 60 + 1, e := -60 })
  else if 0 ≤ e then .exact 1 (if neg then -((m * 2 ^ (min e 20).toNat : Nat) : Int) else ((m * 2 ^ (min e 20).toNat : Nat) : Int))
  else
    let k := (-e).toNat
    let z : Int := if neg then -(m : Int) else m
    let ip := z / (2 ^ k : Nat)
    let n := (z % (2 ^ k : Nat)).toNat
    if n = 0 then .exact 1 ip
    else
      let r := exp2Loop k k n (2 ^ (fpP + 1)) (2 ^ fpP)
      { lo := r - 2, hi := r + 2 ^ 20, e := ip - fpP }

/-- The bits of log2 of y in [1, 2), y given in units of 2^-192, by squaring. -/
def log2Loop : Nat → Nat → Nat → Nat
  | 0, _, r => r
  | fuel + 1, y, r =>
    let q := y * y / 2 ^ fpP
    if 2 ^ (fpP + 1) ≤ q then log2Loop fuel (q / 2) (2 * r + 1) else log2Loop fuel q (2 * r)

/-- |log2 x| of x = m × 2^e, x not a power of two, and whether it is negative. -/
def log2Enc (m : Nat) (e : Int) : Bool × Enc :=
  let top := expOf m e
  let y := m * 2 ^ (fpP + 1 - bitLen m)
  let r := log2Loop 80 y 0
  if 0 ≤ top then (false, { lo := top.toNat * 2 ^ 80 + r, hi := top.toNat * 2 ^ 80 + r + 2, e := -80 })
  else (true, { lo := (-top).toNat * 2 ^ 80 - r - 2, hi := (-top).toNat * 2 ^ 80 - r, e := -80 })

/-- t − t³/3! + t⁵/5! …, t in units of 2^-192: the term, its index and the sign of the next. -/
def sinLoop : Nat → Nat → Nat → Nat → Bool → Int → Int
  | 0, _, _, _, _, acc => acc
  | fuel + 1, t2, term, i, neg, acc =>
    let acc' := if neg then acc - term else acc + term
    sinLoop fuel t2 (term * t2 / 2 ^ fpP / ((2 * i + 2) * (2 * i + 3))) (i + 1) (!neg) acc'

/-- sin(π q) of 0 < q ≤ 1/2, q = n / 2^k. Below 2^-30 it is π q cut by less than one part in 2^56. -/
def sinPiEnc (n k : Nat) : Enc :=
  if 2 * n = 2 ^ k then .exact 1 0
  else if n * 2 ^ 30 < 2 ^ k then { lo := piLo * n * (2 ^ 56 - 1), hi := piHi * n * 2 ^ 56, e := -(fpP : Int) - k - 56 }
  else
    let t := piLo * n / 2 ^ k
    let s := (sinLoop 40 (t * t / 2 ^ fpP) t 0 false 0).toNat
    { lo := s - 2 ^ 20, hi := s + 2 ^ 20, e := -(fpP : Int) }

/-- e^−t of 0 ≤ t < 1 in units of 2^-192: 1 − t + t²/2 …. -/
def expLoop : Nat → Nat → Nat → Nat → Bool → Int → Int
  | 0, _, _, _, _, acc => acc
  | fuel + 1, t, term, i, neg, acc =>
    let acc' := if neg then acc - term else acc + term
    expLoop fuel t (term * t / 2 ^ fpP / (i + 1)) (i + 1) (!neg) acc'

/-- n squarings of a fraction in units of 2^-192. -/
def sqLoop : Nat → Nat → Nat
  | 0, x => x
  | n + 1, x => sqLoop n (x * x / 2 ^ fpP)

/-- |tanh x| of x = m × 2^e, not zero. Below 2^-30 it is |x| cut by less than one part in 2^56; from 32 on it
is 1 cut by less than 2^-60; between, (1 − E) / (1 + E) with E = e^(−2|x|), by 64ths. -/
def tanhEnc (m : Nat) (e : Int) : Enc :=
  if expOf m e < -30 then { lo := m * (2 ^ 56 - 1), hi := m * 2 ^ 56, e := e - 56 }
  else if 5 ≤ expOf m e then { lo := 2 ^ 60 - 1, hi := 2 ^ 60, e := -60 }
  else
    let sh : Int := fpP + 1 + e - 6
    let t := if 0 ≤ sh then m * 2 ^ sh.toNat else m / 2 ^ (-sh).toNat
    let E := sqLoop 6 (expLoop 60 t (2 ^ fpP) 0 false 0).toNat
    let q := (2 ^ fpP - E) * 2 ^ fpP / (2 ^ fpP + E)
    { lo := q - 2 ^ 30, hi := q + 2 ^ 30, e := -(fpP : Int) }

/-- 1/(m × 2^e): exact for a power of two. -/
def rcpEnc (m : Nat) (e : Int) : Enc :=
  let k := bitLen m + 80
  if 2 ^ k % m = 0 then .exact (2 ^ k / m) (-e - k)
  else { lo := 2 ^ k / m, hi := 2 ^ k / m + 1, e := -e - k }

/-- The square root of m × 2^e. -/
def sqrtEnc (m : Nat) (e : Int) : Enc :=
  let m' := if e % 2 = 0 then m * 2 ^ 120 else m * 2 ^ 121
  let e' := if e % 2 = 0 then e - 120 else e - 121
  let r := isqrt m'
  if r * r = m' then .exact r (e' / 2) else { lo := r, hi := r + 1, e := e' / 2 }

/-- 1/√(m × 2^e): the root of 2^k/m, exact when m × 2^e is an even power of two. -/
def rsqEnc (m : Nat) (e : Int) : Enc :=
  let k := 2 * (bitLen m + 80)
  let k' := if e % 2 = 0 then k else k + 1
  let q := 2 ^ k' / m
  let r := isqrt q
  if r * r * m = 2 ^ k' then .exact r ((-e - k') / 2) else { lo := r, hi := r + 1, e := (-e - k') / 2 }

/-- The fraction of |x| in turns of 2, as n / 2^k with n < 2^(k+1). -/
def mod2 (m : Nat) (e : Int) : Nat × Nat :=
  if 0 ≤ e then (m * 2 ^ (min e 2).toNat % 2, 0) else (m % 2 ^ ((-e).toNat + 1), (-e).toNat)

/-- sin(π n/2^k) of n < 2^(k+1): its sign, and its magnitude (none when zero). -/
def sinTurn (n k : Nat) : Bool × Option Enc :=
  let h := 2 ^ k
  let neg := decide (h < n)
  let r := if h ≤ n then n - h else n
  let q := if h < 2 * r then h - r else r
  (neg, if q = 0 then none else some (sinPiEnc q k))

/-- An SFU function on an F32 operand's value; bits is its pattern, which with the opcode selects the open
choice. The result is unflushed and unclamped. -/
def sfu32 (op bits : Nat) (v : FV) : Nat × Nat :=
  match op, v with
  | _, .nan sig => (Fmt.f32.nan, if sig then NV else 0)
  -- VRCP
  | 0x50, .inf s => (Fmt.f32.sbit s, 0)
  | 0x50, .num s m e => if m = 0 then (Fmt.f32.inf s, DZ) else sfuRes op bits 1 s (rcpEnc m e)
  -- VRSQ
  | 0x51, .inf s => if s then (Fmt.f32.nan, NV) else (0, 0)
  | 0x51, .num s m e =>
    if m = 0 then (Fmt.f32.inf s, DZ) else if s then (Fmt.f32.nan, NV) else sfuRes op bits 1 false (rsqEnc m e)
  -- VSQRT
  | 0x52, .inf s => if s then (Fmt.f32.nan, NV) else (Fmt.f32.inf false, 0)
  | 0x52, .num s m e =>
    if m = 0 then (Fmt.f32.sbit s, 0) else if s then (Fmt.f32.nan, NV) else sfuRes op bits 1 false (sqrtEnc m e)
  -- VEXP2
  | 0x53, .inf s => (if s then 0 else Fmt.f32.inf false, 0)
  | 0x53, .num s m e =>
    if m = 0 then (Fmt.f32.one false, 0)
    else if 9 ≤ expOf m e then
      (if s then sfuRes op bits 1 false { lo := 1, hi := 2, e := -400 } else (Fmt.f32.inf false, OF + IX))
    else sfuRes op bits 1 false (exp2Enc s m e)
  -- VLOG2
  | 0x54, .inf s => if s then (Fmt.f32.nan, NV) else (Fmt.f32.inf false, 0)
  | 0x54, .num s m e =>
    if m = 0 then (Fmt.f32.inf true, DZ)
    else if s then (Fmt.f32.nan, NV)
    else if m = 2 ^ (bitLen m - 1) then
      pack .f32 .rne false false (decide (expOf m e < 0)) (expOf m e).natAbs 0
    else sfuRes op bits 1 (log2Enc m e).1 (log2Enc m e).2
  -- VSINP
  | 0x55, .inf _ => (Fmt.f32.nan, NV)
  | 0x55, .num s m e =>
    match sinTurn (mod2 m e).1 (mod2 m e).2 with
    | (_, none) => (Fmt.f32.sbit s, 0)
    | (t, some x) => sfuRes op bits 1 (s != t) x
  -- VCOSP: cos(πx) = sin(π(|x| + 1/2))
  | 0x56, .inf _ => (Fmt.f32.nan, NV)
  | 0x56, .num _ m e =>
    let n := (mod2 m e).1
    let k := (mod2 m e).2
    match sinTurn ((2 * n + 2 ^ k) % 2 ^ (k + 2)) (k + 1) with
    | (_, none) => (0, 0)
    | (t, some x) => sfuRes op bits 1 t x
  -- VTANH
  | _, .inf s => (Fmt.f32.one s, 0)
  | _, .num s m e => if m = 0 then (Fmt.f32.sbit s, 0) else sfuRes op bits 2 s (tanhEnc m e)

/-- An SFU instruction on one element (12 R237): operand flush, the function, and the result's flush, sat and
flags; a packed element goes through the F32 intermediate, which raises no UF of its own, and one RNE rounding. -/
def sfu (f : Fmt) (op ctl : Nat) (sat : Bool) (b : Nat) : Nat × Nat :=
  let v := load f ctl b
  let bits32 := (deliver .f32 .rne false false v.1).1
  let r := sfu32 op bits32 v.1
  let r1 := r.2 ||| v.2
  match f with
  | .f32 =>
    if isSub .f32 r.1 && Fmt.f32.fout ctl then (Fmt.f32.sbit (r.1 / 2 ^ 31 == 1), r1 ||| (UF + IX))
    else
      match unpack .f32 r.1 with
      | .inf s => (infRes .f32 sat s, r1)
      | _ => (r.1, r1)
  | _ =>
    let d := deliver f .rne (f.fout ctl) sat (unpack .f32 r.1)
    (d.1, (r1 - (r1 &&& UF)) ||| d.2)

end Sys2Proof.Num
end

