-- ==== Sys2Proof/Machine/LaneFns.lean ====
section
/-! DEFINITION. What the V-slot instructions compute on one lane's values (spec 11, 12): elements, operand
modifiers, constants, and one function per instruction from lane values to a lane value and, for the
arithmetic float instructions, FPSTAT flags (01 R26). -/

namespace Sys2Proof.LaneFns
open Sys2Proof.Num

/-- Element i of a lane value, w bits wide (01 R14). -/
def elem (w x i : Nat) : Nat := x / 2 ^ (w * i) % 2 ^ w

/-- A lane value from its elements, element 0 lowest. -/
def ofElems (w : Nat) : List Nat → Nat
  | [] => 0
  | e :: l => e % 2 ^ w + 2 ^ w * ofElems w l

/-- The elements of a lane value. -/
def elems (et : Etype) (x : LaneVal) : List Nat := (List.range et.count).map (elem et.width x.toNat)

/-- A lane value of an etype. -/
def lane (et : Etype) (l : List Nat) : LaneVal := BitVec.ofNat 32 (ofElems et.width l)

/-- Element by element. -/
def map1 (et : Etype) (f : Nat → Nat) (a : LaneVal) : LaneVal := lane et ((elems et a).map f)
def map2 (et : Etype) (f : Nat → Nat → Nat) (a b : LaneVal) : LaneVal := lane et (List.zipWith f (elems et a) (elems et b))
def map3 (et : Etype) (f : Nat → Nat → Nat → Nat) (a b c : LaneVal) : LaneVal :=
  lane et (List.zipWith (fun p x => f p.1 p.2 x) ((elems et a).zip (elems et b)) (elems et c))

/-- A value with the flags its computation raised. -/
abbrev Flagged := LaneVal × Nat

/-- The flags of several elements together. -/
def orFlags (l : List (Nat × Nat)) : Nat := l.foldl (fun a p => a ||| p.2) 0

/-- Element results with flags, gathered into a lane. -/
def gather (et : Etype) (l : List (Nat × Nat)) : Flagged := (lane et (l.map Prod.fst), orFlags l)

def fmap1 (et : Etype) (f : Nat → Nat × Nat) (a : LaneVal) : Flagged := gather et ((elems et a).map f)
def fmap2 (et : Etype) (f : Nat → Nat → Nat × Nat) (a b : LaneVal) : Flagged :=
  gather et (List.zipWith f (elems et a) (elems et b))
def fmap3 (et : Etype) (f : Nat → Nat → Nat → Nat × Nat) (a b c : LaneVal) : Flagged :=
  gather et (List.zipWith (fun p x => f p.1 p.2 x) ((elems et a).zip (elems et b)) (elems et c))

/-- The float format of an etype. -/
def fmtOf : Etype → Fmt
  | .f16x2 => .f16
  | .b16x2 => .b16
  | _ => .f32

/-! ## Operands (02 R53, R54) -/

/-- A constant broadcast to every element: the exact value for a float etype, the cut pattern for an integer one. -/
def const (et : Etype) (c : BitVec 6) : LaneVal :=
  let e := if et.isF then (pack (fmtOf et) .rne false false (c.toInt < 0) c.toInt.natAbs 0).1 else wrap et.width c.toInt
  lane et (List.replicate et.count e)

/-- neg and abs of one element: sign-bit operations for floats, wrapping for integers (01 R15, R25). -/
def negE (et : Etype) (e : Nat) : Nat :=
  if et.isF then Nat.xor e (2 ^ (et.width - 1)) else wrap et.width (-(e : Int))
def absE (et : Etype) (e : Nat) : Nat :=
  if et.isF then e % 2 ^ (et.width - 1) else wrap et.width |sval et.width e|

/-- An operand modifier (02 Table 2.7). -/
def modify (et : Etype) (m : Modifier) (x : LaneVal) : LaneVal :=
  let lo := x.toNat % 65536
  let hi := x.toNat / 65536
  match m with
  | .none => x
  | .lo => BitVec.ofNat 32 (lo + 65536 * lo)
  | .hi => BitVec.ofNat 32 (hi + 65536 * hi)
  | .swp => BitVec.ofNat 32 (hi + 65536 * lo)
  | .b0 => lane et (List.replicate et.count (elem et.width x.toNat 0))
  | .brev => lane et (elems et x).reverse
  | .neg => map1 et (negE et) x
  | .abs => map1 et (absE et) x

/-! ## Integer arithmetic (11 R214 to R217) -/

def vadd (et : Etype) (sat : Bool) : LaneVal → LaneVal → LaneVal :=
  map2 et fun a b => fit et.isI sat et.width (rd et.isI et.width a + rd et.isI et.width b)
def vsub (et : Etype) (sat : Bool) : LaneVal → LaneVal → LaneVal :=
  map2 et fun a b => fit et.isI sat et.width (rd et.isI et.width a - rd et.isI et.width b)
def vmul (et : Etype) (sat : Bool) : LaneVal → LaneVal → LaneVal :=
  map2 et fun a b => fit et.isI sat et.width (rd et.isI et.width a * rd et.isI et.width b)
def vmulh (et : Etype) : LaneVal → LaneVal → LaneVal :=
  map2 et fun a b => wrap et.width (rd et.isI et.width a * rd et.isI et.width b / 2 ^ et.width)
def vmad (et : Etype) (sat : Bool) : LaneVal → LaneVal → LaneVal → LaneVal :=
  map3 et fun a b c => fit et.isI sat et.width (rd et.isI et.width a * rd et.isI et.width b + rd et.isI et.width c)
def vneg (et : Etype) (sat : Bool) : LaneVal → LaneVal := map1 et fun a => fit et.isI sat et.width (-(rd et.isI et.width a))
def vabs (et : Etype) (sat : Bool) : LaneVal → LaneVal := map1 et fun a => fit et.isI sat et.width |rd et.isI et.width a|
def vmin (et : Etype) : LaneVal → LaneVal → LaneVal :=
  map2 et fun a b => if rd et.isI et.width a ≤ rd et.isI et.width b then a else b
def vmax (et : Etype) : LaneVal → LaneVal → LaneVal :=
  map2 et fun a b => if rd et.isI et.width b ≤ rd et.isI et.width a then a else b
def vavg (et : Etype) (fl : Bool) : LaneVal → LaneVal → LaneVal :=
  map2 et fun a b => wrap et.width ((rd et.isI et.width a + rd et.isI et.width b + (if fl then 0 else 1)) / 2)

/-- VSAD (11 R216). -/
def vsad (et : Etype) (sat : Bool) (a b c : LaneVal) : LaneVal :=
  let t : Int := (c.toNat : Int) +
    (List.zipWith (fun x y => |rd et.isI et.width x - rd et.isI et.width y|) (elems et a) (elems et b)).sum
  BitVec.ofNat 32 (fit false sat 32 t)

/-- VDOT (11 R216). -/
def vdot (et : Etype) (sat : Bool) (a b c : LaneVal) : LaneVal :=
  let t : Int := c.toInt +
    (List.zipWith (fun x y => rd et.isI et.width x * rd et.isI et.width y) (elems et a) (elems et b)).sum
  BitVec.ofNat 32 (fit true sat 32 t)

def vshl (et : Etype) (sat : Bool) : LaneVal → LaneVal → LaneVal :=
  map2 et fun a b => fit et.isI sat et.width (rd et.isI et.width a * 2 ^ (b % et.width))
def vshr (et : Etype) : LaneVal → LaneVal → LaneVal := map2 et fun a b => a / 2 ^ (b % et.width)
def vsra (et : Etype) : LaneVal → LaneVal → LaneVal :=
  map2 et fun a b => wrap et.width (sval et.width a / 2 ^ (b % et.width))
def vrot (et : Etype) : LaneVal → LaneVal → LaneVal :=
  map2 et fun a b =>
    let n := b % et.width
    a * 2 ^ n % 2 ^ et.width + a / 2 ^ (et.width - n)

/-! ## Logic, bit counts, bit fields (11 R218, R219) -/

def vand (a b : LaneVal) : LaneVal := a &&& b
def vor (a b : LaneVal) : LaneVal := a ||| b
def vxor (a b : LaneVal) : LaneVal := a ^^^ b
def vandn (a b : LaneVal) : LaneVal := a &&& ~~~b
def vnot (a : LaneVal) : LaneVal := ~~~a
def vclz (et : Etype) : LaneVal → LaneVal := map1 et fun a => et.width - bitLen a
def vpopc (et : Etype) : LaneVal → LaneVal := map1 et (popc et.width)
def vbrev (et : Etype) : LaneVal → LaneVal := map1 et (rev et.width)

/-- Position and used length of a VBFX or VBFI control word. -/
def bfPos (b : LaneVal) : Nat := b.toNat % 32
def bfLen (b : LaneVal) : Nat := min (b.toNat / 256 % 64) (32 - bfPos b)

def vbfx (et : Etype) (a b : LaneVal) : LaneVal :=
  let len := bfLen b
  let f := a.toNat / 2 ^ bfPos b % 2 ^ len
  if len = 0 then 0 else if et.isI then BitVec.ofInt 32 (sval len f) else BitVec.ofNat 32 f

def vbfi (a b c : LaneVal) : LaneVal :=
  let m := BitVec.ofNat 32 ((2 ^ bfLen b - 1) * 2 ^ bfPos b)
  (c &&& ~~~m) ||| (BitVec.ofNat 32 (a.toNat * 2 ^ bfPos b) &&& m)

/-- The conditions of VCMP and SCMP on w-bit patterns (02 Table 2.9). -/
def cmp (w : Nat) (cc : Cmp) (a b : Nat) : Bool :=
  match cc with
  | .eq => a == b
  | .ne => a != b
  | .lt => decide (sval w a < sval w b)
  | .le => decide (sval w a ≤ sval w b)
  | .gt => decide (sval w b < sval w a)
  | .ge => decide (sval w b ≤ sval w a)
  | .ltn => decide (a < b)
  | .len => decide (a ≤ b)
  | .gtn => decide (b < a)
  | .gen => decide (b ≤ a)

/-- One result byte of VPRM (11 R222). -/
def prmByte (pool ctl : Nat) : Nat :=
  if ctl / 8 % 2 = 1 then 0
  else
    let r := elem 8 pool (ctl % 8)
    let r := if ctl / 16 % 2 = 1 then rev 8 r else r
    if ctl / 32 % 2 = 1 then 255 - r else r

def vprm (a b c : LaneVal) : LaneVal :=
  let pool := a.toNat + 2 ^ 32 * b.toNat
  BitVec.ofNat 32 (ofElems 8 ((List.range 4).map fun k => prmByte pool (elem 8 c.toNat k)))

/-! ## Float arithmetic (12 R227 to R231) -/

/-- A value rounded once to the etype's format under FPCTL (01 R16, R17, R24), with earlier flags. -/
def out (f : Fmt) (ctl : Nat) (sat : Bool) (r : Rnd) (v : FV × Nat) (fl : Nat) : Nat × Nat :=
  let d := deliver f r (f.fout ctl) sat v.1
  (d.1, d.2 ||| v.2 ||| fl)

def addE (f : Fmt) (ctl : Nat) (sat : Bool) (r : Rnd) (a b : Nat) : Nat × Nat :=
  let x := load f ctl a
  let y := load f ctl b
  out f ctl sat r (sumV r [x.1, y.1]) (x.2 ||| y.2)
def subE (f : Fmt) (ctl : Nat) (sat : Bool) (r : Rnd) (a b : Nat) : Nat × Nat :=
  let x := load f ctl a
  let y := load f ctl b
  out f ctl sat r (sumV r [x.1, negV y.1]) (x.2 ||| y.2)
def mulE (f : Fmt) (ctl : Nat) (sat : Bool) (r : Rnd) (a b : Nat) : Nat × Nat :=
  let x := load f ctl a
  let y := load f ctl b
  out f ctl sat r (mulV x.1 y.1) (x.2 ||| y.2)
/-- VFMA, and VFNMA with the product negated. -/
def fmaE (f : Fmt) (ctl : Nat) (sat : Bool) (r : Rnd) (ng : Bool) (a b c : Nat) : Nat × Nat :=
  let x := load f ctl a
  let y := load f ctl b
  let z := load f ctl c
  let p := mulV x.1 y.1
  out f ctl sat r (sumV r [if ng then negV p.1 else p.1, z.1]) (x.2 ||| y.2 ||| z.2 ||| p.2)

def vfadd (et : Etype) (ctl : Nat) (sat : Bool) (r : Rnd) : LaneVal → LaneVal → Flagged := fmap2 et (addE (fmtOf et) ctl sat r)
def vfsub (et : Etype) (ctl : Nat) (sat : Bool) (r : Rnd) : LaneVal → LaneVal → Flagged := fmap2 et (subE (fmtOf et) ctl sat r)
def vfmul (et : Etype) (ctl : Nat) (sat : Bool) (r : Rnd) : LaneVal → LaneVal → Flagged := fmap2 et (mulE (fmtOf et) ctl sat r)
def vfma (et : Etype) (ctl : Nat) (sat : Bool) (r : Rnd) (ng : Bool) : LaneVal → LaneVal → LaneVal → Flagged :=
  fmap3 et (fmaE (fmtOf et) ctl sat r ng)
def vfminmax (et : Etype) (ctl : Nat) (mx : Bool) : LaneVal → LaneVal → Flagged := fmap2 et (minMax (fmtOf et) ctl mx)

/-- VFSCL: the exact value times 2^n, n an integer element (12 Table 12.2). -/
def vfscl (et : Etype) (ctl : Nat) (sat : Bool) (r : Rnd) : LaneVal → LaneVal → Flagged :=
  fmap2 et fun a b =>
    let x := load (fmtOf et) ctl a
    let v := match x.1 with
      | .num s m e => .num s m (e + sval et.width b)
      | v => v
    out (fmtOf et) ctl sat r (v, 0) x.2

/-- VFDOT2 (12 R228): C and the result are F32. Which of a NaN and opposite infinities among the addends is seen first is
assumption log 48. -/
def vfdot2 (et : Etype) (ctl : Nat) (sat : Bool) (r : Rnd) (a b c : LaneVal) : Flagged :=
  let f := fmtOf et
  let ld := fun x => load f ctl x
  let a0 := ld (elem 16 a.toNat 0)
  let a1 := ld (elem 16 a.toNat 1)
  let b0 := ld (elem 16 b.toNat 0)
  let b1 := ld (elem 16 b.toNat 1)
  let z := load .f32 ctl c.toNat
  let p := mulV a0.1 b0.1
  let q := mulV a1.1 b1.1
  let d := out .f32 ctl sat r (sumV r [p.1, q.1, z.1]) (a0.2 ||| a1.2 ||| b0.2 ||| b1.2 ||| z.2 ||| p.2 ||| q.2)
  (BitVec.ofNat 32 d.1, d.2)

/-- VFRND (12 R229): a signed zero keeps the operand's sign. -/
def vfrnd (et : Etype) (ctl : Nat) (r : Rnd) : LaneVal → Flagged :=
  fmap1 et fun a =>
    let f := fmtOf et
    let x := load f ctl a
    match x.1 with
    | .num s m e =>
      let q := roundShift m (-e) s r
      ((pack f .rne false false s q.1 0).1, x.2 ||| (if q.2 then IX else 0))
    | v => ((deliver f r false false v).1, x.2)

/-- The quiet comparisons of VFCMP (01 R21). -/
def fcmpV (cc : FCmp) (o : Option Ordering) : Bool :=
  match cc, o with
  | .eq, o => o == some .eq
  | .ne, o => o != some .eq
  | .lt, o => o == some .lt
  | .le, o => o == some .lt || o == some .eq
  | .gt, o => o == some .gt
  | .ge, o => o == some .gt || o == some .eq
  | .un, o => o == none
  | .ord, o => o != none

/-- VFCMP of element 0 (12 R230), with flags. -/
def vfcmp (et : Etype) (ctl : Nat) (cc : FCmp) (a b : LaneVal) : Bool × Nat :=
  let x := load (fmtOf et) ctl (elem et.width a.toNat 0)
  let y := load (fmtOf et) ctl (elem et.width b.toNat 0)
  (fcmpV cc (cmpV x.1 y.1), x.2 ||| y.2)

/-- The class bit of a float (12 Table 12.3). -/
def classE (f : Fmt) (b : Nat) : Nat :=
  match unpack f b with
  | .nan true => 256
  | .nan false => 512
  | .inf s => if s then 1 else 128
  | .num s m _ => if m = 0 then (if s then 8 else 16) else if isSub f b then (if s then 4 else 32) else (if s then 2 else 64)

def vfclass (et : Etype) : LaneVal → LaneVal := map1 et (classE (fmtOf et))
def vfkey (et : Etype) : LaneVal → LaneVal := map1 et (key (fmtOf et))

/-! ## Conversions (12 R232 to R236) -/

/-- One element from a source type to a destination type (12 Table 12.4); a same-format conversion takes no sat. The result flush of 01 R24
and 12 R226 applies to every conversion, also to one that 01 R28 calls exact, of a B16 value that F16 has as a subnormal: log 48. -/
def cvtE (src dst : Etype) (ctl : Nat) (sat : Bool) (r : Rnd) (e : Nat) : Nat × Nat :=
  if src.isF then
    let x := load (fmtOf src) ctl e
    if dst.isF then out (fmtOf dst) ctl (sat && src != dst) r (x.1, 0) x.2
    else
      let q := toInt dst.isI dst.width r x.1
      (q.1, q.2 ||| x.2)
  else if dst.isF then ofInt (fmtOf dst) r ((fmtOf dst).fout ctl) sat (rd src.isI src.width e)
  else (fit dst.isI sat dst.width (rd src.isI src.width e), 0)

def vcvt (src dst : Etype) (ctl : Nat) (sat : Bool) (r : Rnd) (a : LaneVal) : Flagged :=
  gather dst ((elems src a).map (cvtE src dst ctl sat r))

def vpack (src dst : Etype) (ctl : Nat) (sat : Bool) (r : Rnd) (a b : LaneVal) : Flagged :=
  gather dst ((elems src a ++ elems src b).map (cvtE src dst ctl sat r))

/-- One element widened by VUNPK (12 R233): RNE, no sat; into a float it is exact, with no result flush and no flag but NV
and ID. -/
def widenE (src dst : Etype) (ctl e : Nat) : Nat × Nat :=
  if dst.isF then
    let x := if src.isF then load (fmtOf src) ctl e else (.num (decide (rd src.isI src.width e < 0)) (rd src.isI src.width e).natAbs 0, 0)
    ((deliver (fmtOf dst) .rne false false x.1).1, x.2)
  else cvtE src dst ctl false .rne e

def vunpk (src dst : Etype) (ctl : Nat) (a : LaneVal) : Flagged := gather dst (((elems src a).take dst.count).map (widenE src dst ctl))

/-- VBDQ (12 R236): the block lane layout of Table 12.5 for the destination etype. The result flush of 01 R24 and 12 R226 applies to every
destination, also to an F32 value below 2^-126, which 01 R36 calls exact: log 48. -/
def vbdq (et : Etype) (ctl : Nat) (sat : Bool) (r : Rnd) (a : LaneVal) : Flagged :=
  let f := fmtOf et
  let E := elem 8 a.toNat et.count
  gather et ((List.range et.count).map fun i => out f ctl sat r (blockVal E (elem 8 a.toNat i), 0) 0)

/-- VBQ's lane (12 Table 12.5): the mantissas and the exponent. -/
def vbqLane (et : Etype) (E : Nat) (vs : List FV) : Flagged :=
  let q := vs.map (quantize E)
  (BitVec.ofNat 32 (ofElems 8 (q.map Prod.fst ++ [E])), orFlags (q.take et.count))

def vsfu (et : Etype) (op ctl : Nat) (sat : Bool) : LaneVal → Flagged := fmap1 et (sfu (fmtOf et) op ctl sat)

/-! ## Scan and reduce steps (12 Table 12.8) -/

/-- The sat clamp of a result that no rounding made (01 R17). -/
def satE (f : Fmt) (sat : Bool) (x : Nat × Nat) : Nat × Nat :=
  match unpack f x.1 with
  | .inf s => (infRes f sat s, x.2)
  | _ => x

/-- minimumNumber and maximumNumber in a scan or a reduction, clamped under sat (12 R226). -/
def redMinMax (et : Etype) (ctl : Nat) (sat mx : Bool) : LaneVal → LaneVal → Flagged :=
  fmap2 et fun a b => satE (fmtOf et) sat (minMax (fmtOf et) ctl mx a b)

/-- One step of VSCAN or VRED, the earlier operand first. -/
def redStep (et : Etype) (op : RedOp) (ctl : Nat) (sat : Bool) (r : Rnd) (a b : LaneVal) : Flagged :=
  match op with
  | .add => if et.isF then vfadd et ctl sat r a b else (vadd et sat a b, 0)
  | .mini =>
    if et.isF then redMinMax et ctl sat false a b
    else (map2 et (fun x y => if sval et.width x ≤ sval et.width y then x else y) a b, 0)
  | .maxi =>
    if et.isF then redMinMax et ctl sat true a b
    else (map2 et (fun x y => if sval et.width y ≤ sval et.width x then x else y) a b, 0)
  | .minn => (map2 et (fun x y => if x ≤ y then x else y) a b, 0)
  | .maxn => (map2 et (fun x y => if y ≤ x then x else y) a b, 0)
  | .and => (a &&& b, 0)
  | .or => (a ||| b, 0)
  | .xor => (a ^^^ b, 0)

/-- The identities of Table 12.8. -/
def redIdent (et : Etype) (op : RedOp) : LaneVal :=
  let all := fun (e : Nat) => lane et (List.replicate et.count e)
  match op with
  | .add => if et.isF then all ((fmtOf et).sbit true) else 0
  | .mini => if et.isF then all ((fmtOf et).inf false) else all (2 ^ (et.width - 1) - 1)
  | .maxi => if et.isF then all ((fmtOf et).inf true) else all (2 ^ (et.width - 1))
  | .minn | .and => BitVec.allOnes 32
  | .maxn | .or | .xor => 0

/-- The Hillis–Steele stages over the active lanes' values (12 R239): shift is 2^k. -/
def scanLoop (step : LaneVal → LaneVal → Flagged) : Nat → Nat → List LaneVal → List LaneVal × Nat
  | 0, _, u => (u, 0)
  | fuel + 1, shift, u =>
    if u.length ≤ shift then (u, 0)
    else
      let st := List.zipWith step u (u.drop shift)
      let r := scanLoop step fuel (2 * shift) (u.take shift ++ st.map Prod.fst)
      (r.1, st.foldl (fun a p => a ||| p.2) 0 ||| r.2)

/-- A combination in VRED's tree: an empty value passes the other on (12 R239). -/
def redComb (step : LaneVal → LaneVal → Flagged) : Option LaneVal → Option LaneVal → Option LaneVal × Nat
  | some a, some b => (some (step a b).1, (step a b).2)
  | some a, none => (some a, 0)
  | none, b => (b, 0)

/-- Adjacent pairs combined, the lower lane first. -/
def redPairs (step : LaneVal → LaneVal → Flagged) : List (Option LaneVal) → List (Option LaneVal) × Nat
  | a :: b :: l =>
    let c := redComb step a b
    let r := redPairs step l
    (c.1 :: r.1, c.2 ||| r.2)
  | l => (l, 0)

/-- The tree over a sub-group: each stage halves it. -/
def redLoop (step : LaneVal → LaneVal → Flagged) : Nat → List (Option LaneVal) → Option LaneVal × Nat
  | 0, l => (l.headD none, 0)
  | fuel + 1, l =>
    let p := redPairs step l
    let r := redLoop step fuel p.1
    (r.1, p.2 ||| r.2)

end Sys2Proof.LaneFns
end

