-- ==== Sys2Proof/Machine/Table.lean ====
section
/-! DEFINITION. Sparse tables: a list of (key, value) pairs in one canonical form, keys strictly rising and
no pair equal to what an unlisted key reads as. Memory, register files and every other array of the
machine are such tables, so that equal contents are equal data. -/

namespace Sys2Proof.Machine

/-- A sparse table. -/
abbrev Tbl (α : Type) := List (Nat × α)

/-- The value at a key; d is what an unlisted key reads as. -/
def tget {α : Type} (d : α) : Tbl α → Nat → α
  | [], _ => d
  | (k, v) :: l, n => if n = k then v else if n < k then d else tget d l n

/-- The pair (n, v) put before a table, left out when v is what an unlisted key reads as. -/
def tcons {α : Type} [DecidableEq α] (d : α) (n : Nat) (v : α) (l : Tbl α) : Tbl α := if v = d then l else (n, v) :: l

/-- The table with v at n; writing what an unlisted key reads as removes the entry. -/
def tset {α : Type} [DecidableEq α] (d : α) : Tbl α → Nat → α → Tbl α
  | [], n, v => tcons d n v []
  | (k, u) :: l, n, v =>
    if n = k then tcons d n v l
    else if n < k then tcons d n v ((k, u) :: l)
    else (k, u) :: tset d l n v

/-- Are the keys strictly rising, from lo on, and no value the unlisted one? -/
def tokFrom {α : Type} [DecidableEq α] (d : α) : Nat → Tbl α → Bool
  | _, [] => true
  | lo, (k, v) :: l => decide (lo ≤ k) && decide (v ≠ d) && tokFrom d (k + 1) l

/-- The canonical form. -/
def tok {α : Type} [DecidableEq α] (d : α) (l : Tbl α) : Bool := tokFrom d 0 l

/-- Several writes, in order. -/
def tsets {α : Type} [DecidableEq α] (d : α) (l : Tbl α) (ws : List (Nat × α)) : Tbl α :=
  ws.foldl (fun m w => tset d m w.1 w.2) l

/-- n values from a key on. -/
def tgets {α : Type} (d : α) (l : Tbl α) (k n : Nat) : List α := (List.range n).map fun i => tget d l (k + i)

/-! Lists of things with a number of their own: the first that a test picks, changed or taken out. -/

/-- Every element that p picks changed by f. -/
def upd {α : Type} (p : α → Bool) (f : α → α) (l : List α) : List α := l.map fun a => if p a then f a else a

/-- The elements that p does not pick. -/
def drop' {α : Type} (p : α → Bool) (l : List α) : List α := l.filter fun a => !p a

end Sys2Proof.Machine
end

