-- ==== Sys2Proof/Machine/State.lean ====
section
/-! DEFINITION. The state of a Zelash package as plain data: everything the spec gives the machine, the
reasons a step can stop, and the machine right after reset. Warps, cohorts and cores are records; the
warp in focus stands in `State.w`, with its cohort in `co` and its core in `core`, the others in lists.
Times are core cycles counted without holds (02 R49). Each field's docstring names its rule. -/

namespace Sys2Proof.Machine

/-! ## The warp -/

/-- Where a result is written (02 R47): a vector register, a scalar register, a latch. -/
inductive Dest where
  | v (r : Nat)
  | s (r : Nat)
  | x (k : Nat)
  deriving DecidableEq, Repr

/-- A synchronous result in flight (02 R47): written at the start of cycle `due`, over the lanes of `mask`;
`word` is the value for a scalar. -/
structure Flight where
  due   : Nat
  dst   : Dest
  mask  : Mask
  lanes : Lanes
  word  : Word
  /-- In a lockstep pair, the words of it that the odd core's result has otherwise, with their values there (19 R373). -/
  odd   : List (RegSite × Word) := []
  deriving DecidableEq, Repr

/-- What a pending handle change does when it takes effect (10 R197). -/
inductive HAct where
  | bind (h slot : Nat)
  | unbind (h : Nat)
  | setDesc (slot : Nat) (desc : Word)
  deriving DecidableEq, Repr

/-- A handle change that takes effect at cycle `due` (10 Table 10.4). -/
structure HPend where
  due : Nat
  act : HAct
  deriving DecidableEq, Repr

/-- An asynchronous cause pending for a warp (18 R353), with its frame words 2 and 3. -/
structure Pend where
  code   : Nat
  detail : Nat
  w2     : Word
  w3     : Word
  slots  : Nat
  deriving DecidableEq, Repr

/-- A restart request (19 R370): a lockstep disagreement, or a consumption with frame words 2 and 3 of its UE. -/
inductive RestartReq where
  | disagree
  | consumed (onChip : Bool) (w2 w3 : Word)
  deriving DecidableEq, Repr

/-- What a warp waits for, or its state in 17 Table 17.2; running is being the core's running warp. -/
inductive Run where
  | ready
  | waitF (f n : Nat)
  | waitAll
  | waitB (b phase : Nat)
  | halted
  | retired
  deriving DecidableEq, Repr

/-- What SENT records (16 R325): EM, AM, the loop registers, and the restart count. -/
structure Sentence where
  em    : Mask
  am    : Mask
  lps0  : Word
  lpe0  : Word
  lpc0  : Word
  lps1  : Word
  lpe1  : Word
  lpc1  : Word
  count : Nat
  deriving DecidableEq, Repr

/-- A landing-pad check owed at the warp's next bundle (16 R315): the kind, and the transferring bundle. -/
structure Owed where
  kind : Nat
  src  : Word
  deriving DecidableEq, Repr

/-- The second record of a double fault (18 R360), laid out as frame words 0 to 3. -/
structure Second where
  w0 : Word
  w1 : Word
  w2 : Word
  w3 : Word
  deriving DecidableEq, Repr

/-- A warp (02 R43 to R46, R63; 16, 17, 18, 19). -/
structure Warp where
  /-- The model's number of the warp. -/
  id : Nat
  /-- Its cohort's number and its core, die × 256 + core. -/
  cid : Nat
  corE : Nat
  v : Tbl Lanes
  s : Tbl Word
  x : Tbl Lanes
  /-- Bound handles: slot number plus one (10 R196). -/
  h : Tbl Nat
  hpend : List HPend
  /-- Occupied mailbox entries: slot number plus one (10 R205). -/
  mail : Tbl Nat
  flags : Tbl Nat
  pc : Word
  em : Mask
  am : Mask
  fpctl : Word
  fpstat : Word
  lps0 : Word
  lpe0 : Word
  lpc0 : Word
  lps1 : Word
  lpe1 : Word
  lpc1 : Word
  sepc : Word
  /-- What the last SENT recorded; it counts while SEPC is not zero (16 R325). -/
  sent : Sentence
  /-- Restart requests that no boundary has taken yet (19 R370). -/
  restart : List RestartReq
  msatb : Word
  munfb : Word
  mcanb : Word
  mcank : Word
  rsteep2 : Word
  rsteep3 : Word
  rsteep4 : Word
  rsteep6 : Word
  rsteep8 : Word
  mexh : Word
  warpIdx : Nat
  cohortIdx : Nat
  gsize : Nat
  gidx : Nat
  lid : Nat
  ctx : Nat
  job : Nat
  sgw : Nat
  tvec : Word
  hsp : Word
  prio : Nat
  wedge : Bool
  prot : Bool
  ss : Bool
  hm : Bool
  quant : Word
  errw : Word
  frame : Tbl Word
  second : Option Second
  /-- Has frame word 1 or TRAPC been read since delivery (18 R360)? -/
  causeRead : Bool
  fly : List Flight
  owed : Option Owed
  /-- The transferring bundle of the check that the last trap found owed (16 R315); the frame has no word for it. -/
  padSrc : Word
  pend : List Pend
  run : Run
  /-- What a halted warp goes on as when it is resumed (16 R331): its wait is kept. -/
  resumeTo : Run
  /-- The cycle at which its next bundle issues, as its last bundle fixed it (02 R40). -/
  nextIssue : Nat
  /-- Its last issue, plus one; zero if it has never issued (17 R345). -/
  lastIssue : Nat
  nregs : Nat
  /-- The pre-emption image: the trap-frame layout with cause 14 (18 R362). -/
  image : Option (Tbl Word)
  /-- The image of a restored warp whose in-flight records wait for its first boundary (18 R363). -/
  replay : Option (Tbl Word)
  /-- Fjody has asked it to stop for pre-emption (18 R361). -/
  stopReq : Bool
  /-- Words that hold an uncorrectable error (19 R368): they read as zero, and are consumed when they are read. -/
  bad : List RegSite
  /-- Restart requests of cached loads under way: each with the cycle at which its load completes (03 R77, 08 R150). -/
  soon : List (Nat × RestartReq)
  /-- In a lockstep pair, words that hold another value in the odd core, with that value (19 R371, R373). -/
  odd : List (RegSite × Word)
  /-- The signatures of a bundle of it disagree: the cycle at which the odd core commits it, and the restart request is raised (19 R373). -/
  sigBad : Option Nat
  /-- Release fences of other warps that a barrier phase has put before its own fences (16 R324). -/
  syncs : List Nat
  deriving DecidableEq, Repr

/-! ## The cohort -/

/-- A lane store to scratch not yet visible to lanes (06 R112): it takes effect at cycle `due`. Engine reads see it from a FENCE.LOCAL of
its warp on (07 R133). -/
structure LStore where
  wid   : Nat
  fenced : Bool
  due   : Nat
  bytes : List (Nat × Byte)
  deriving DecidableEq, Repr

/-- A FIFO bank (06 R116): granules oldest first, and OVF. -/
structure Fifo where
  q   : List (List Byte)
  ovf : Bool
  deriving DecidableEq, Repr

/-- A line of the L1 (06 R114): its bank, the way; its number and 128 bytes. -/
structure L1Line where
  bank  : Nat
  line  : Nat
  bytes : List Byte
  deriving DecidableEq, Repr

/-- A phase drain (06 R119): its end, and the banks in transition. -/
structure Drain where
  endAt : Nat
  banks : List Nat
  deriving DecidableEq, Repr

/-- A hardware barrier (16 R321 to R323): members and arrived members by warp index, the phase, the members
that arrived in the last completed phase and the cycle at which its waiters are released. `rels` and `lastRels` are the release fences
not yet done of the warps that arrived in this phase and in the last one (16 R324). -/
structure Bar where
  mem   : List Nat
  arr   : List Nat
  phase : Nat
  last  : List Nat
  relAt : Nat
  rels  : List Nat
  lastRels : List Nat
  deriving DecidableEq, Repr

/-- A cohort (06, 16 R321, 17 R333). -/
structure Cohort where
  cid : Nat
  corE : Nat
  gang : Nat
  idx : Nat
  ctx : Nat
  part : Nat
  nwarps : Nat
  vregs : Nat
  banks : Nat
  ns : Nat
  nf : Nat
  nl : Nat
  nbars : Nat
  scratch : Tbl Byte
  stores : List LStore
  /-- By local bank number (06 R110). -/
  fifos : Tbl Fifo
  l1 : List L1Line
  drain : Option Drain
  bars : Tbl Bar
  /-- Places in its banks that hold an uncorrectable error (19 R368): they read as zero. -/
  bad : List CoSite
  /-- The 4-byte words in them that hold another value in the odd core of a lockstep pair, with that value (19 R371). -/
  odd : List (CoSite × Word)
  ended : Bool
  deriving DecidableEq, Repr

/-! ## The core -/

/-- A tile or accumulator slot (10 R191 to R194, 13 R251). Slots 0 to 63 are tile slots, 64 to 95
accumulator slots. -/
structure TSlot where
  /-- The cohort that holds it, plus one; zero for the core. -/
  owner : Nat
  taken : Bool
  /-- Unbound, and released once its pending operations have finished (10 R193). -/
  releasing : Bool
  /-- The cycle at which its clearing ends. -/
  clearAt : Option Nat
  desc : Word
  bytes : Tbl Byte
  ea : Tbl Nat
  eb : Tbl Nat
  exh : Bool
  rung : Nat
  /-- Its 4-byte words that hold an uncorrectable error, which read as zero, and whether its metadata does (19 R368). -/
  bad : List Nat
  badMeta : Bool
  deriving DecidableEq, Repr

/-- A matrix issue-queue entry (13 R245): its instruction, slots and descriptors, scalars and budgets. -/
structure MxEntry where
  id    : Nat
  wid   : Nat
  cid   : Nat
  ctx   : Nat
  op    : Instr
  hd    : Option Nat
  ha    : Option Nat
  hb    : Option Nat
  dd    : Word
  da    : Word
  db    : Word
  base  : Nat
  pitch : Word
  msatb : Nat
  munfb : Nat
  mcanb : Nat
  mcank : Nat
  flag  : Option FlagNo
  issue : Nat
  /-- Started, and for a MBMM the rung code of the pass that runs (13 R253). -/
  pass  : Option Nat
  deriving DecidableEq, Repr

/-- A VTWR on its way to its slot (12 R242). -/
structure Vtw where
  due   : Nat
  slot  : Nat
  words : List (Nat × LaneVal)
  deriving DecidableEq, Repr

/-- The kinds of copy (09 Table 9.4). -/
inductive CopyKind where
  | gl | lg | ll | gg (packed : Bool) | fil (glob hi : Bool) | p (chan : Nat)
  deriving DecidableEq, Repr

/-- Why a copy is suspended (09 Table 9.1): its slot, KIND, SIDE, SUBD, address, and whether reported. -/
structure Susp where
  slot     : Nat
  kind     : Nat
  dstSide  : Bool
  sub      : Nat
  addr     : Nat
  reported : Bool
  deriving DecidableEq, Repr

/-- A copy, active or suspended (09 R168 to R176): its operands and the elements already moved. -/
structure Copy where
  id    : Nat
  wid   : Nat
  cid   : Nat
  ctx   : Nat
  kind  : CopyKind
  cls   : Nat
  sc    : Scope
  flag  : FlagNo
  src   : Nat
  dst   : Nat
  geo   : Word
  pit   : Word
  bnd   : Word
  imm   : BitVec 16
  issue : Nat
  /-- Elements moved; for a CPYP, flits sent. -/
  done  : Nat
  /-- Elements up to which its remote source has been asked for, and the answers that have come and are not yet written: element, bytes
  and whether they carry poison; none where the request failed (09 R179). -/
  asked : Nat
  got   : List (Nat × Option (List Byte × Bool))
  susp  : Option Susp
  /-- It has met a bank in transition, and been counted (06 R120). -/
  met : Bool
  /-- The 64 KiB pages whose walk has faulted for it (04 R96, R97). -/
  walked : List Nat
  /-- The poisoned granules it consumed: virtual addresses (03 R77); and whether it has read a word of the local space with an
  uncorrectable error (19 R369). -/
  psn   : List Nat
  bad   : Bool
  /-- Its failed requests: code and virtual address (15 R291). -/
  fail  : List (Nat × Nat)
  deriving DecidableEq, Repr

/-- Where a translated address lies (04 R93): main memory, or an offset in a node window. -/
inductive Place where
  | main (pa : Nat)
  | pool (win off : Nat)
  | peer (win off : Nat)
  deriving DecidableEq, Repr

/-- One lane's part of an asynchronous access (05 R100): where, its operands, and what it found. -/
structure LaneAcc where
  lane : Nat
  va   : Nat
  pl   : Place
  a    : Nat
  b    : Nat
  /-- Sent to a remote target. -/
  sent : Bool
  done : Bool
  res  : Nat
  deriving DecidableEq, Repr

/-- What an asynchronous operation of the M slot is (08). -/
inductive OpKind where
  | load (d : Nat) (scalar : Bool)
  | store
  | atom (op : Aop) (ret : Option Nat)
  | cas (d : Nat)
  | pref
  | empty
  | fence (kind : FenceKind) (mask : BitVec 16)
  | wcfl
  | hint (lo len prio next : Nat)
  | signal (op : Aop)
  | sack (job : Option Nat)
  | quiet (d : Nat)
  | launch (d q : Nat) (words : List Word)
  | pgfetch (d : Nat) (kind : PgKind) (va : Nat)
  | xinv (lo len : Nat)
  deriving DecidableEq, Repr

/-- An asynchronous operation not yet complete (08 R145). -/
structure Op where
  id    : Nat
  wid   : Nat
  cid   : Nat
  ctx   : Nat
  job   : Nat
  kind  : OpKind
  cls   : Nat
  sc    : Scope
  flag  : Option FlagNo
  w     : Width
  lanes : List LaneAcc
  issue : Nat
  /-- Its effect is performed; its flag has still to be counted down. -/
  done  : Bool
  /-- The value it writes to a scalar register. -/
  res   : Nat
  /-- Its results are in their registers (02 R50). -/
  wrote : Bool
  /-- For a fence, the release fences that it comes after (16 R324). -/
  waits : List Nat
  /-- The poisoned granules it read: virtual address and lane (03 R77). -/
  psn   : List (Nat × Nat)
  /-- Its failed requests: code, virtual address and lane (15 R291). -/
  fail  : List (Nat × Nat × Nat)
  deriving DecidableEq, Repr

/-- A write-combining entry (05 R108). -/
structure WcEntry where
  id    : Nat
  wid   : Nat
  ctx   : Nat
  cls   : Nat
  job   : Nat
  pl    : Place
  va    : Nat
  bytes : Tbl (Option Byte)
  born  : Nat
  /-- The stores it holds: operation and lane. -/
  refs  : List (Nat × Nat)
  deriving DecidableEq, Repr

/-- A signal record's fields (08 Table 8.2) as its 64 bytes, and its Decant job. -/
structure SigRec where
  bytes : List Byte
  job   : Nat
  deriving DecidableEq, Repr

/-- An armed signal slot (08 R159 to R162): its records waiting at the target, and all its pending ones, oldest
first: each the Decant job in which it is counted, none for a signal of this package (08 R158). `pa` is where the word lies in main
memory, if it lies there: a tier page takes its words along when it migrates (03 R86). -/
structure SigSlot where
  cid  : Nat
  ctx  : Nat
  va   : Nat
  pa   : Option Nat
  q    : Nat
  wait : List SigRec
  pend : List (Option Nat)
  deriving DecidableEq, Repr

/-- A TLB entry: a valid leaf (04 R95). -/
structure TlbEnt where
  ctx  : Nat
  va   : Nat
  sz   : PageSize
  leaf : Word
  deriving DecidableEq, Repr

/-- A pinned line (05 R106): the line, the pin's cycle, and the context whose atomic pinned it (05 Table 5.1). -/
structure Pin where
  line : Nat
  at_  : Nat
  ctx  : Nat
  deriving DecidableEq, Repr

/-- A debug comparator (18 Table 18.5). -/
structure Cmpr where
  ctl  : Word
  qual : Word
  deriving DecidableEq, Repr

/-- The core's counters (06 R118, R120, R121; 08 R162; 09 R171; 19 R368, R373). -/
structure Counters where
  corrected : Nat
  fifoOvf : Nat
  fifoLost : Nat
  bankTrans : Nat
  abandoned : Nat
  straySack : Nat
  disagree : Nat
  deriving DecidableEq, Repr

/-- A hold in force (17 R348): its code, the cycles it has lasted, and the warp and address of the bundle that it holds. -/
structure Hold where
  code : Nat
  len  : Nat
  wid  : Nat
  pc   : Word
  deriving DecidableEq, Repr

/-- A core: no is die × 256 + core index. -/
structure CoreSt where
  no : Nat
  cycle : Nat
  held : Nat
  hold : Option Hold
  /-- The hold that a debug stop interrupted, its count paused (17 R348). -/
  paused : Option Hold
  /-- The cycle in which the third write port last wrote (02 R50). -/
  portAt : Option Nat
  /-- The running warp's id (17 Table 17.2). -/
  running : Option Nat
  /-- The cycle from which QUANT is counted, and the switch request (17 R346). -/
  qstart : Nat
  switchReq : Bool
  slots : Tbl TSlot
  /-- The 4-byte words of its slots that hold another value in the odd core of a lockstep pair: slot, word, value (19 R371). -/
  oddSlots : List (Nat × Nat × Word)
  mxq : List MxEntry
  /-- The constant store's D by context (13 R259). -/
  signs : Tbl (BitVec 16)
  vtw : List Vtw
  copies : List Copy
  ops : List Op
  wcb : List WcEntry
  sigs : List SigSlot
  pins : List Pin
  tlb : List TlbEnt
  /-- Of the bundle that a TLB miss holds (04 R97): the contexts and 64 KiB pages that it misses, and those whose walk has faulted. -/
  miss : List (Nat × Nat)
  walked : List (Nat × Nat)
  /-- The lines that the held bundle's GLDC or SLDC has asked the L2 for (06 R114). -/
  want : List Nat
  pcCmp : Tbl Cmpr
  dataCmp : Tbl Cmpr
  cmpCtx : Nat
  debugStop : Bool
  ctr : Counters
  deriving DecidableEq, Repr

/-! ## Main memory and the L2 -/

/-- The warp that last dirtied a sector (05 R104): the other device whose warp it is, if it is none of this package; its context, its core
(die × 256 + core), the model's number of the warp, or its warp number in that device, and its launch. -/
structure Writer where
  dev : Option Nat
  ctx : Nat
  core : Nat
  wid : Nat
  launch : Nat
  deriving DecidableEq, Repr

/-- An L2 sector (05 R103): its bytes by offset, valid where listed; the dirty ones; its poison; the warp that last dirtied it (05 R104).
Where a copy's poison mark or an error in the L2 has poisoned it (03 R75, 19 R368), `mark` holds the bytes that have not been written
since, and `late` says that a write has met it so (03 R76). -/
structure Sector where
  bytes  : Tbl (Option Byte)
  dirty  : BitVec 32
  poison : Bool
  mark   : BitVec 32
  late   : Bool
  writer : Option Writer
  deriving DecidableEq, Repr

/-- A stack's error log entry (03 R76, R79). -/
inductive StackLog where
  | drop (g : Nat) (who : Option Writer)
  | poisoned (g : Nat)
  | corrected (g : Nat)
  | takeover
  | failed
  deriving DecidableEq, Repr

/-- A stack (03 R70 to R80). -/
structure Stack where
  ratio : LaneRatio
  retraining : Option LaneRatio
  missed : Nat
  /-- The compute-die controller owns refresh (03 R79). -/
  owned : Bool
  failed : Bool
  corrected : Nat
  uncorrected : Nat
  log : List StackLog
  deriving DecidableEq, Repr

/-- Whose request waits for a line that is pinned (05 R106): a core's operation, a core's copy, the GLDC or SLDC that a core holds, or a
fabric request. -/
inductive Waiter where
  | op (core id : Nat)
  | copy (core id : Nat)
  | cache (core : Nat)
  | rem (st : Stream) (sn : Nat)
  deriving DecidableEq, Repr

/-- A retried request (05 R106): its line, and whose it is. -/
structure Retry where
  line : Nat
  who  : Waiter
  deriving DecidableEq, Repr

/-- Main memory, the L2 and the stacks. Granule g is bytes 32g to 32g + 31. -/
structure MemSt where
  bytes : Tbl Byte
  poison : Tbl Bool
  /-- Latent errors (03 R73): 1 correctable, 2 uncorrectable, 3 corrected on a read and not yet written back. -/
  latent : Tbl Nat
  l2 : Tbl Sector
  stk : Tbl Stack
  /-- In order of arrival. -/
  retryq : List Retry
  /-- The core groups of each partition, which give its slices and channels (05 R102). -/
  parts : List (List Nat)
  /-- The forced-unpin counter of each die (05 Table 5.1). -/
  forced : Tbl Nat
  deriving DecidableEq, Repr

/-! ## Translation and tiers -/

/-- What an evicted page holds at its pool node (03 R86): where it lies, its bytes by offset and its poisoned granules. -/
structure Kept where
  win : Nat
  off : Nat
  bytes : Tbl Byte
  poison : Tbl Bool
  deriving DecidableEq, Repr

/-- A tier page of a context (03 R81, R82): its address, its hint (priority and next-use step), when it was promoted if it
is resident, whether the fault service wants it (08 R165, 15 R289), whether its promotion has been counted as waiting (03 R85),
and what it holds in the capacity tier, where this package has put it there. -/
structure TierPage where
  va   : Nat
  hint : Option (Nat × Nat)
  res  : Option Nat
  want : Bool
  waited : Bool
  kept : Option Kept
  deriving DecidableEq, Repr

/-- A migration under way (03 R86): the page, where it goes, and whether it is a promotion. -/
structure Migr where
  ctx : Nat
  va  : Nat
  frame : Nat
  win : Nat
  off : Nat
  toMain : Bool
  deriving DecidableEq, Repr

/-- A deferred range (24 R403): pages whose data Fjody holds until they are fetched. -/
structure Defer where
  req  : MapReq
  held : List (Nat × List Byte)
  deriving DecidableEq, Repr

/-- A kernel that a module load has entered (20 R376 to R382): its record; whether its module has an Eloaden section, and the most handles
that this parks at a time; the loader's stub of its module for a kernel without a trap label (22 R398); and whether its stub goes to a
re-translation. -/
structure Loaded where
  k : Kernel
  eloaden : Bool
  parked : Nat
  halt : Nat
  again : Bool
  deriving DecidableEq, Repr

/-- A context (04 R88, R91; 03 R81 to R84; 20 R381). -/
structure Ctx where
  id : Nat
  root : Option Nat
  stepc : Word
  quota : Nat
  window : Nat
  tier : List TierPage
  waits : Nat
  allocs : List MapReq
  defers : List Defer
  /-- The kernels loaded (20 R376, R381, R382), the ranges of its code heap that hold code (20 R381), address and length, and the
  ranges that the loader has mapped for warps' areas (20 R386). -/
  kernels : List Loaded
  code : List (Nat × Nat)
  given : List (Nat × Nat)
  deriving DecidableEq, Repr

/-- An entry of a die's walk-merge table (04 R96): the page, the cores that wait, and the copies that wait (core and number). A
walker works on each of a die's first 64. -/
structure Merge where
  die : Nat
  ctx : Nat
  va  : Nat
  cores : List Nat
  copies : List (Nat × Nat)
  deriving DecidableEq, Repr

/-- Contexts, die TLBs, walks, migrations. -/
structure XlSt where
  ctxs : List Ctx
  dtlb : Tbl (List TlbEnt)
  merge : List Merge
  migr : List Migr
  /-- The table of pages lost (03 R87): context and address. -/
  lost : List (Nat × Nat)
  deriving DecidableEq, Repr

/-! ## The fabric -/

/-- A lane's record (15 R285). -/
structure LaneRec where
  eyeh : Nat
  eyew : Nat
  syms : Nat
  state : Nat
  deriving DecidableEq, Repr

/-- A trunk's lanes and state (15 R281, R284). -/
structure Trunk where
  up : Bool
  ports : List Bool
  /-- The working lanes W, ascending (15 R283). -/
  lanes : List Nat
  deriving DecidableEq, Repr

/-- A node window (15 R286, Tables of its two words), its paths. -/
structure Window where
  w0 : Word
  w1 : Word
  path : Nat
  alt : Option Nat
  deriving DecidableEq, Repr

/-- Who waits for the answer of a request (15 R289): lanes of an operation, a write-combining drain of a warp
with the stores it holds, some elements of a copy. -/
inductive Asker where
  | op (core id : Nat) (lanes : List Nat)
  | wc (core wid : Nat) (refs : List (Nat × Nat))
  | copy (core id : Nat) (els : List Nat)
  deriving DecidableEq, Repr

/-- A request sent and not yet answered (15 R289, R292). -/
structure OutReq where
  rid : Nat
  who : Asker
  st  : Stream
  sn  : Nat
  win : Nat
  off : Nat
  path : Nat
  va  : Nat
  job : Nat
  marked : Bool
  op  : RemOp
  /-- Where it goes (15 R286): node NODE, device PEER and context PCTX of a KIND 2 window, the address BASE + o. -/
  node : Nat
  peer : Option (Nat × Nat)
  addr : Nat
  /-- The path on which it was sent has failed since (15 R292). -/
  failed : Bool
  deriving DecidableEq, Repr

/-- A stream at the target (15 R289, R292): its highest performed number, the request that it waits on (for a fault
service, a migration or an unpin), when that began, whether it is a fault that has frozen it, and the requests behind it. -/
structure TStream where
  st : Stream
  hi : Nat
  since : Nat
  frozen : Option RemReq
  fault : Bool
  behind : List RemReq
  deriving DecidableEq, Repr

/-- A duplicate-reply cache entry (15 R294). -/
structure Drc where
  port : Nat
  st : Stream
  sn : Nat
  ans : Answer
  deriving DecidableEq, Repr

/-- A reply sent to another device (15 R293). -/
structure Reply where
  st : Stream
  sn : Nat
  ans : Answer
  deriving DecidableEq, Repr

/-- The fabric interfaces (15). -/
structure FabSt where
  devNo : Nat
  /-- The thresholds of 15 R285: errors and eye height of WARN, then of RETIRED. -/
  thresh : List Nat
  lanes : Tbl LaneRec
  trunks : Tbl Trunk
  windows : Tbl Window
  /-- Paths that are down (15 R288). -/
  down : List Nat
  /-- Participants taken as failed (15 R301). -/
  failed : List Member
  /-- This device's streams that are frozen at their targets, each with the number of the faulting request, and the requests that queue
  at the source interface (15 R289). -/
  frozen : List (Stream × Nat)
  queued : List OutReq
  nextSn : Tbl Nat
  out : List OutReq
  tstreams : List TStream
  /-- The requests that wait at this target, in their order of arrival: stream and number (15 R287). -/
  order : List (Stream × Nat)
  drc : List Drc
  replies : List Reply
  deriving DecidableEq, Repr

/-- A Decant job's state on this device (15 R296 to R302): the counters I, C and A of each die's fabric interface. -/
structure DJob where
  job : Nat
  cnt : Tbl WaveSum
  set : Option MemberList
  failed : List Member
  indet : Bool
  /-- A wave is running: what this device has reported on the passes that have visited it, and the QUIETs it answers (core, operation). -/
  wave : Option (List WaveSum)
  waiting : List (Nat × Nat)
  deriving DecidableEq, Repr

/-! ## Scheduling -/

/-- Status codes (21 Table 21.3). -/
inductive Status where
  | ok | busy | malformed | resource | nocode | failed | timeout | drained | lost | wedged | sentfail | diverged
  | nojob | denied | range | parent | quietst | abort | stale | unsup | nowin | pwdrop | abandoned | poisoned
  deriving DecidableEq, Repr

/-- Kinds of item entries (21 Table 21.3a). -/
inductive EntryKind where
  | corr | poison | restart | pwdrop | abandon | fabric | discard | kill | quiet
  deriving DecidableEq, Repr

/-- An item entry of a completion record (21 R392, R422): its kind, its status and the value of its kind. -/
structure Entry where
  kind   : EntryKind
  status : Status
  val    : Nat
  deriving DecidableEq, Repr

/-- A partition (17 R336). -/
structure Part where
  id : Nat
  groups : List Nat
  prot : Bool
  deriving DecidableEq, Repr

/-- A launch record in a queue, decoded (17 Table 17.1), with its parent and its unique number. -/
structure Launch where
  uid : Nat
  q : Nat
  part : Nat
  entry : Nat
  ord : Nat
  prio : Nat
  glo : Nat
  ghi : Nat
  ngang : Nat
  param : Word
  ctx : Nat
  job : Nat
  lid : Nat
  depq : Nat
  deplid : Nat
  /-- The session and sequence number of the command that queued it; zero for a child (21 R389). -/
  session : Nat
  seq : Nat
  /-- The launch of the warp that issued its LAUNCH (17 R341). -/
  parent : Option Nat
  /-- The launch before it in its queue (17 R340). -/
  prev : Option Nat
  /-- Gangs placed so far, and the gang size once the first is placed (17 R333). -/
  placed : Nat
  gsz : Nat
  retrans : Bool
  status : Status
  entries : List Entry
  deriving DecidableEq, Repr

/-- A queue (17 R337, R340, R349). -/
structure Queue where
  no : Nat
  part : Option Nat
  level : Nat
  cap : Nat
  wdt : Nat
  /-- The last launch queued in it (17 R340), and the USEC at which its head was found ready and unplaced (17 R342). -/
  last : Option Nat
  since : Option Nat
  recs : List Launch
  ended : List Nat
  deriving DecidableEq, Repr

/-- A resident gang (17 R333): its launch, index, cohorts and channels, with their slot tables. -/
structure Gang where
  uid : Nat
  launch : Nat
  gidx : Nat
  size : Nat
  part : Nat
  cids : List Nat
  chans : List Channel
  /-- The cycles of each period that a channel has on its first link, by channel (09 R188). -/
  slots : List (List Nat)
  /-- The cores of its cohorts, in their order; its context; and the ranges that the loader has given its warps, with the unmapped page
  below each stack (20 R385, R386). -/
  cores : List Nat
  ctx : Nat
  areas : List (Nat × Nat)
  preempting : Bool
  deriving DecidableEq, Repr

/-- A pre-empted gang's saved context (18 R362): its slots with their cohorts, and each cohort's sign vector D. An
operation saved waits only for the answers of its frozen stream (15 R290). -/
structure Saved where
  gang : Gang
  cohorts : List Cohort
  warps : List Warp
  slots : List (Nat × Nat × TSlot)
  /-- The words of these that the odd core of a lockstep pair holds otherwise: cohort, slot, word, value (19 R371). -/
  odd : List (Nat × Nat × Nat × Word)
  copies : List Copy
  ops : List Op
  sigs : List SigSlot
  signs : List (Nat × BitVec 16)
  deriving DecidableEq, Repr

/-- Queues, launches and gangs. -/
structure SchSt where
  parts : List Part
  queues : List Queue
  running : List Launch
  gangs : List Gang
  saved : List Saved
  /-- The queue that placed the last gang at each level of each partition, by 4 × partition + level (17 R342). -/
  turn : Tbl Nat
  deriving DecidableEq, Repr

/-! ## Fjody, Caddy and power -/

/-- What is entered in the device error log or told to Caddy (03 R79, R80, R87; 08 R165; 15 R285; 16 R331). -/
inductive LogEv where
  | halted (wid addr : Nat)
  | takeover (stack : Nat)
  | stackFailed (stack : Nat)
  | scrubbed (g : Nat)
  | pageLost (ctx va : Nat)
  | badLeaf (ctx va : Nat)
  | lane (lane state : Nat)
  | nodeFailed (node : Nat)
  deriving DecidableEq, Repr

/-- A completion sent to the host (21 R389, R392): what its header copies, its status block, its item entries, and
what the command returns. -/
structure Completion where
  op : Nat
  seq : Nat
  session : Nat
  lid : Nat
  status : Status
  retrans : Bool
  entries : List Entry
  data : List Byte
  deriving DecidableEq, Repr

/-- A die's Caddy core (00 R2, 27 R414): x1 to x31, pc, its machine-mode registers, and the address that a load-reserved holds. -/
structure Caddy where
  x : Tbl Word
  pc : Word
  mscratch : Word
  mtval : Word
  resv : Option Nat
  mepc : Word
  mcause : Word
  mtvec : Word
  mie : Word
  mieBit : Bool
  mpie : Bool
  deriving DecidableEq, Repr

/-- A die's power registers (21 Table 21.4, 27 Table 27.1). -/
structure DieP where
  flux : Nat
  pwr : Nat
  capflux : Nat
  pcap : Nat
  alert : BitVec 3
  alerten : BitVec 3
  usec : Nat
  tcmp : Nat
  throt : Tbl Nat
  /-- What the last estimate found, which bits of ALERT it set, and the USEC at which the backstop's clock started if it runs (27 R415). -/
  hot : Bool
  sets : BitVec 3
  clock : Option Nat
  caddy : Caddy
  /-- Caddy's memory, by Caddy address (27 R416), and whether it executes what lies there: its firmware has been put there. -/
  cmem : Tbl Byte
  runs : Bool
  deriving DecidableEq, Repr

/-- A recorded launch (19 R375): its number, its context and record, and for each input range that the host named its address, its length and
its SHAKE256 digest. -/
structure Recording where
  uid : Nat
  ctx : Nat
  words : List Word
  digests : List (Nat × Nat × List Byte)
  deriving DecidableEq, Repr

/-- The host session and the module (21). -/
structure HostSt where
  /-- Sessions opened so far, which give each its identifier (21 R391); the commands that have arrived and whose execution has not ended,
  the first of which executes (21 R390), and whether the command tried last still executes. -/
  sessions : Nat
  cmds : List Instr
  waits : Bool
  /-- The session's identifier and source address, its last executed SEQ, and its last 64 completions (21 R388 to R391). -/
  session : Option (Nat × Nat)
  lastSeq : Nat
  recent : List Completion
  /-- Is it the debugger's (21 Table 21.2)? -/
  debugger : Bool
  /-- Every completion sent. -/
  done : List Completion
  discarded : Nat
  groups : BitVec 64
  stacksOk : BitVec 12
  portsOk : BitVec 32
  romOnly : Bool
  powered : Bool
  /-- The device error log, and what Caddy was told. -/
  log : List LogEv
  notes : List LogEv
  /-- What the host has been told unasked (15 R285), and the launches recorded on request (19 R375). -/
  told : List LogEv
  recs : List Recording
  deriving DecidableEq, Repr

/-! ## The whole machine -/

/-- The bundle being issued (02 R40): its address, the next bundle's, its issue cycle and gap, and what its
instructions have asked for: yield-safety, a switch. -/
structure Issue where
  pc : Word
  next : Word
  t : Nat
  gap : Nat
  ys : Bool
  yielded : Bool
  deriving DecidableEq, Repr

/-- The state of the package. -/
structure State where
  w : Warp
  co : Cohort
  core : CoreSt
  warps : List Warp
  cohorts : List Cohort
  /-- The other cores that are not as at reset; one not listed is `CoreSt.fresh`. -/
  cores : List CoreSt
  mem : MemSt
  xl : XlSt
  fab : FabSt
  jobs : List DJob
  sch : SchSt
  host : HostSt
  dies : Tbl DieP
  /-- By rail, its samples, each with its counter (21 R396). -/
  rails : Tbl (List (Nat × RailValue))
  /-- What comes next from outside the machine, or in an order that the spec leaves open: log 8. -/
  inbox : List Instr
  iss : Issue
  /-- The model's own field: the free values' counter, log 9. -/
  freeCtr : Nat
  /-- The model's own field: the next identifier of an operation, log 8. -/
  nextId : Nat
  /-- The model's own field: which of the machine's own steps is tried first, log 8. -/
  turn : Nat
  deriving DecidableEq, Repr

/-- The ways the machine stops. -/
inductive Fault where
  /-- Raised by an access to a main-memory address beyond the package's 576 GB (03 R69; 04 R92 lets an entry
  name it). Safe: the manual gives such an address no contents. -/
  | noSuchMemory (pa : Nat)
  deriving DecidableEq, Repr

/-- The ways an instruction is turned away. -/
inductive Refusal where
  /-- Raised by `exec` for an instruction that has no meaning in this model yet. Safe: no next state is claimed. -/
  | notModelled (mnemonic : String)
  deriving DecidableEq, Repr

/-! ## Defaults and reset -/

/-- 64 lanes of zero. -/
def zeroLanes : Lanes := List.replicate 64 0

/-- A FIFO bank on entry to its mode (06 Table 6.1). -/
def Fifo.empty : Fifo := { q := [], ovf := false }

/-- A barrier when its cohort is created (16 R321). -/
def Bar.fresh : Bar := { mem := [], arr := [], phase := 0, last := [], relAt := 0, rels := [], lastRels := [] }

/-- A free slot (10 R193, 13 Table 13.2). -/
def TSlot.free : TSlot :=
  { owner := 0, taken := false, releasing := false, clearAt := none, desc := 0, bytes := [], ea := [], eb := [],
    exh := false, rung := 0, bad := [], badMeta := false }

/-- A comparator at reset (18 Table 18.5). -/
def Cmpr.off : Cmpr := { ctl := 0, qual := 0 }

/-- A sector the L2 does not hold. -/
def Sector.absent : Sector := { bytes := [], dirty := 0, poison := false, mark := 0, late := false, writer := none }

/-- A stack after power-on (03 R70, 21 R394). -/
def Stack.fresh : Stack :=
  { ratio := .r24w8, retraining := none, missed := 0, owned := false, failed := false, corrected := 0,
    uncorrected := 0, log := [] }

/-- A window of zeros (15 R286). -/
def Window.zero : Window := { w0 := 0, w1 := 0, path := 0, alt := none }

/-- A lane at reset (15 R285): OK. -/
def LaneRec.fresh : LaneRec := { eyeh := 0, eyew := 0, syms := 0, state := 0 }

/-- A trunk before training (15 R281). -/
def Trunk.fresh : Trunk := { up := false, ports := [], lanes := [] }

/-- A Caddy core at reset: assumption log 7. -/
def Caddy.fresh : Caddy :=
  { x := [], pc := 0, mscratch := 0, mtval := 0, resv := none, mepc := 0, mcause := 0, mtvec := 0, mie := 0, mieBit := false, mpie := false }

/-- A die's power registers at reset (21 Table 21.4, 27 Table 27.1). -/
def DieP.fresh : DieP :=
  { flux := 0, pwr := 0, capflux := 2400, pcap := 4700, alert := 0, alerten := 7, usec := 0, tcmp := 2 ^ 64 - 1,
    throt := [], hot := false, sets := 0, clock := none, caddy := Caddy.fresh, cmem := [], runs := false }

/-- What a warp holds as its sentence before any SENT: assumption log 49. -/
def Sentence.blank : Sentence :=
  { em := 0, am := 0, lps0 := 0, lpe0 := 0, lpc0 := 0, lps1 := 0, lpe1 := 0, lpc1 := 0, count := 0 }

/-- The blank warp that stands in focus when there is none: assumption log 1. Its special registers hold the
values of 02 Table 2.12's column "At creation". -/
def Warp.blank : Warp :=
  { id := 0, cid := 0, corE := 0, v := [], s := [], x := [], h := [], hpend := [], mail := [], flags := [], pc := 0,
    em := 0, am := 0, fpctl := 0, fpstat := 0, lps0 := 0, lpe0 := 0, lpc0 := 0, lps1 := 0, lpe1 := 0, lpc1 := 0,
    sepc := 0, sent := Sentence.blank, restart := [], msatb := 0, munfb := 16, mcanb := 8, mcank := 6, rsteep2 := 0,
    rsteep3 := 0, rsteep4 := 0, rsteep6 := 0, rsteep8 := 0, mexh := 0, warpIdx := 0, cohortIdx := 0, gsize := 0,
    gidx := 0, lid := 0, ctx := 0, job := 0, sgw := 64, tvec := 0, hsp := 0, prio := 0, wedge := false,
    prot := false, ss := false, hm := false, quant := 4096, errw := 0, frame := [], second := none,
    causeRead := true, fly := [], owed := none, padSrc := 0, pend := [], run := .retired, resumeTo := .ready, nextIssue := 0, lastIssue := 0,
    nregs := 64, image := none, replay := none, stopReq := false, bad := [], soon := [], odd := [], sigBad := none, syncs := [] }

/-- The blank cohort: assumption log 1. -/
def Cohort.blank : Cohort :=
  { cid := 0, corE := 0, gang := 0, idx := 0, ctx := 0, part := 0, nwarps := 0, vregs := 0, banks := 0, ns := 0, nf := 0,
    nl := 0, nbars := 0, scratch := [], stores := [], fifos := [], l1 := [], drain := none, bars := [],
    bad := [], odd := [], ended := true }

def Counters.zero : Counters :=
  { corrected := 0, fifoOvf := 0, fifoLost := 0, bankTrans := 0, abandoned := 0, straySack := 0, disagree := 0 }

/-- A core at reset. -/
def CoreSt.fresh (no : Nat) : CoreSt :=
  { no := no, cycle := 0, held := 0, hold := none, paused := none, portAt := none, running := none, qstart := 0, switchReq := false, slots := [], oddSlots := [],
    mxq := [], signs := [], vtw := [], copies := [], ops := [], wcb := [], sigs := [], pins := [], tlb := [], miss := [], walked := [], want := [],
    pcCmp := [], dataCmp := [], cmpCtx := 0, debugStop := false, ctr := Counters.zero }

/-- No bundle is being issued. -/
def Issue.idle : Issue := { pc := 0, next := 0, t := 0, gap := 0, ys := false, yielded := false }

def MemSt.fresh : MemSt := { bytes := [], poison := [], latent := [], l2 := [], stk := [], retryq := [], parts := [], forced := [] }
def XlSt.fresh : XlSt := { ctxs := [], dtlb := [], merge := [], migr := [], lost := [] }
def FabSt.fresh : FabSt :=
  { devNo := 0, thresh := [1000, 25, 100000, 12], lanes := [], trunks := [], windows := [], down := [], failed := [], frozen := [], queued := [], nextSn := [], out := [],
    tstreams := [], order := [], drc := [], replies := [] }
def SchSt.fresh : SchSt := { parts := [], queues := [], running := [], gangs := [], saved := [], turn := [] }
/-- After reset: no session (21 R388); the self-test bits are assumption log 6. -/
def HostSt.fresh : HostSt :=
  { sessions := 0, cmds := [], waits := false, session := none, lastSeq := 0, recent := [], debugger := false, done := [], discarded := 0, groups := BitVec.allOnes 64,
    stacksOk := BitVec.allOnes 12, portsOk := BitVec.allOnes 32, romOnly := false, powered := true, log := [],
    notes := [], told := [], recs := [] }

/-- The machine right after reset: no session, no context, no partition, no warp (17 R336, R337; 21 R388, R394);
core 0 in focus; the other 1,023 cores, not listed, are as at reset. -/
def State.reset : State :=
  { w := Warp.blank, co := Cohort.blank, core := CoreSt.fresh 0, warps := [], cohorts := [],
    cores := [], mem := MemSt.fresh, xl := XlSt.fresh,
    fab := FabSt.fresh, jobs := [], sch := SchSt.fresh, host := HostSt.fresh, dies := [], rails := [], inbox := [],
    iss := Issue.idle, freeCtr := 0, nextId := 1, turn := 0 }

end Sys2Proof.Machine
end

