-- ==== Sys2Proof/Machine/Ops.lean ====
section
/-! DEFINITION. The named operations over the machine: focus, registers, results in flight, flags, taking
an exception and returning from one, restarts and retirement. Spec 02 R43 to R50; 16 R329; 18 R351 to
R360; 19 R370. -/

namespace Sys2Proof.Machine

/-! ## Lanes -/

/-- 64 lanes from a function. -/
def mkLanes (f : Nat → LaneVal) : Lanes := (List.range 64).map f

/-- Lane l of a value; a missing lane reads zero. -/
def laneAt (l : Lanes) (i : Nat) : LaneVal := l.getD i 0

/-- The lanes of m from `new`, the others from `old`. -/
def blend (m : Mask) (old new : Lanes) : Lanes := mkLanes fun i => if m.getLsbD i then laneAt new i else laneAt old i

/-- The lanes of a mask, ascending. -/
def lanesOf (m : Mask) : List Nat := (List.range 64).filter fun i => m.getLsbD i

/-- The mask of some lanes. -/
def maskOf (l : List Nat) : Mask := BitVec.ofNat 64 ((List.range 64).foldl (fun a i => if l.contains i then a + 2 ^ i else a) 0)

/-! ## Parts of the state -/

def State.onW (s : State) (f : Warp → Warp) : State := { s with w := f s.w }
def State.onCo (s : State) (f : Cohort → Cohort) : State := { s with co := f s.co }
def State.onCore (s : State) (f : CoreSt → CoreSt) : State := { s with core := f s.core }
def State.onMem (s : State) (f : MemSt → MemSt) : State := { s with mem := f s.mem }
def State.onXl (s : State) (f : XlSt → XlSt) : State := { s with xl := f s.xl }
def State.onFab (s : State) (f : FabSt → FabSt) : State := { s with fab := f s.fab }
def State.onSch (s : State) (f : SchSt → SchSt) : State := { s with sch := f s.sch }
def State.onHost (s : State) (f : HostSt → HostSt) : State := { s with host := f s.host }

/-- A fresh identifier. -/
def State.bump (s : State) : State := { s with nextId := s.nextId + 1 }

/-- a put into a list that rises by key, before the first greater one. -/
def insBy {α : Type} (key : α → Nat) (a : α) : List α → List α
  | [] => [a]
  | b :: l => if key a < key b then a :: b :: l else b :: insBy key a l

/-! ## Focus -/

/-- The warp in focus put back into the list. -/
def State.stashW (s : State) : State :=
  if s.w.id = 0 then s else { s with w := Warp.blank, warps := insBy Warp.id s.w s.warps }

/-- The cohort in focus put back. -/
def State.stashCo (s : State) : State :=
  if s.co.cid = 0 then s else { s with co := Cohort.blank, cohorts := insBy Cohort.cid s.co s.cohorts }

/-- The core in focus put back; a core as at reset is not listed. -/
def State.stashCore (s : State) : State :=
  { s with core := CoreSt.fresh s.core.no,
           cores := if s.core = CoreSt.fresh s.core.no then s.cores else insBy CoreSt.no s.core s.cores }

/-- The warp numbered id brought into focus, alone. -/
def State.pickW (s : State) (id : Nat) : State :=
  if s.w.id = id then s
  else
    match s.stashW.warps.find? (·.id == id) with
    | some w => { s.stashW with w := w, warps := s.stashW.warps.filter (·.id != id) }
    | none => s.stashW

/-- The cohort numbered cid brought into focus, alone. -/
def State.pickCo (s : State) (cid : Nat) : State :=
  if s.co.cid = cid then s
  else
    match s.stashCo.cohorts.find? (·.cid == cid) with
    | some c => { s.stashCo with co := c, cohorts := s.stashCo.cohorts.filter (·.cid != cid) }
    | none => s.stashCo

/-- The core numbered n brought into focus, alone. -/
def State.pickCore (s : State) (n : Nat) : State :=
  if s.core.no = n then s
  else
    match s.stashCore.cores.find? (·.no == n) with
    | some c => { s.stashCore with core := c, cores := s.stashCore.cores.filter (·.no != n) }
    | none => { s.stashCore with core := CoreSt.fresh n }

/-- Every warp, the one in focus first. -/
def State.allWarps (s : State) : List Warp := if s.w.id = 0 then s.warps else s.w :: s.warps

/-- Every cohort, the one in focus first. -/
def State.allCohorts (s : State) : List Cohort := if s.co.cid = 0 then s.cohorts else s.co :: s.cohorts

/-- Every core that is not as at reset, the one in focus first. -/
def State.allCores (s : State) : List CoreSt := s.core :: s.cores

/-- A core by number. -/
def State.coreAt (s : State) (n : Nat) : CoreSt := (s.allCores.find? (·.no == n)).getD (CoreSt.fresh n)

/-- A warp by number. -/
def State.warpAt (s : State) (id : Nat) : Option Warp := s.allWarps.find? (·.id == id)

/-- Every warp changed. -/
def State.mapWarps (s : State) (p : Warp → Bool) (f : Warp → Warp) : State :=
  { s with w := if s.w.id != 0 && p s.w then f s.w else s.w, warps := upd p f s.warps }

/-- Every cohort changed. -/
def State.mapCohorts (s : State) (p : Cohort → Bool) (f : Cohort → Cohort) : State :=
  { s with co := if s.co.cid != 0 && p s.co then f s.co else s.co, cohorts := upd p f s.cohorts }

/-- The warp numbered id changed, a pre-empted one too (18 R362). -/
def State.onWarp (s : State) (id : Nat) (f : Warp → Warp) : State :=
  (s.mapWarps (·.id == id) f).onSch fun c => { c with saved := c.saved.map fun g => { g with warps := upd (·.id == id) f g.warps } }

/-- Every listed core changed; a core not listed has nothing to change. -/
def State.mapCores (s : State) (f : CoreSt → CoreSt) : State := { s with core := f s.core, cores := s.cores.map f }

/-! ## Registers (02 R43, R45) -/

def Warp.rdV (w : Warp) (r : Nat) : Lanes := tget zeroLanes w.v r
/-- s0 reads as zero. -/
def Warp.rdS (w : Warp) (r : Nat) : Word := if r = 0 then 0 else tget 0 w.s r
def Warp.rdX (w : Warp) (k : Nat) : Lanes := tget zeroLanes w.x k
def Warp.rdFlag (w : Warp) (f : Nat) : Nat := tget 0 w.flags f

/-- Words that a write replaces hold no error any longer (19 R368), nor another value in the odd core. -/
def Warp.renew (w : Warp) (p : RegSite → Bool) : Warp := { w with bad := w.bad.filter fun r => !p r, odd := w.odd.filter fun r => !p r.1 }

/-- Is a word one of the lanes of m of v[r], of x[k]? -/
def RegSite.inV (r : Nat) (m : Mask) : RegSite → Bool
  | .v q l => q == r && m.getLsbD l
  | _ => false
def RegSite.inX (k : Nat) (m : Mask) : RegSite → Bool
  | .x q l => q == k && m.getLsbD l
  | _ => false

/-- Is it a word of the frame store? -/
def RegSite.inFrame : RegSite → Bool
  | .frame _ => true
  | _ => false

/-- Is it a word of a latch? -/
def RegSite.inLatch : RegSite → Bool
  | .x _ _ => true
  | _ => false

def Warp.wrV (w : Warp) (r : Nat) (m : Mask) (l : Lanes) : Warp :=
  { w.renew (RegSite.inV r m) with v := tset zeroLanes w.v r (blend m (w.rdV r) l) }
/-- Writes to s0 are discarded. -/
def Warp.wrS (w : Warp) (r : Nat) (x : Word) : Warp :=
  if r = 0 then w else { w.renew (· == .s r) with s := tset 0 w.s r x }
def Warp.wrX (w : Warp) (k : Nat) (m : Mask) (l : Lanes) : Warp :=
  { w.renew (RegSite.inX k m) with x := tset zeroLanes w.x k (blend m (w.rdX k) l) }

/-- A result written into its destination. -/
def Warp.wrOne (w : Warp) (f : Flight) : Warp :=
  match f.dst with
  | .v r => w.wrV r f.mask f.lanes
  | .s r => w.wrS r f.word
  | .x k => w.wrX k f.mask f.lanes

/-- The same in both cores of a pair (19 R371). -/
def Warp.wrDest (w : Warp) (f : Flight) : Warp := { w.wrOne f with odd := (w.wrOne f).odd ++ f.odd }

/-- A flight put in its place: by cycle, and after those of its cycle that issued before (02 R48). -/
def insFly (f : Flight) : List Flight → List Flight
  | [] => [f]
  | g :: l => if f.due < g.due then f :: g :: l else g :: insFly f l

/-- Every result due at or before cycle c written, in order (02 R47). -/
def flushFly (c : Nat) : List Flight → Warp → Warp
  | [], w => { w with fly := [] }
  | f :: l, w => if f.due ≤ c then flushFly c l (w.wrDest f) else { w with fly := f :: l }

/-- The cycle of the bundle being issued, or the next one's. -/
def State.now (s : State) : Nat := s.core.cycle

/-- A result of latency L (02 R47). -/
def State.later (s : State) (L : Nat) (dst : Dest) (m : Mask) (lanes : Lanes) (word : Word) : State :=
  s.onW fun w => { w with fly := insFly { due := s.now + L, dst := dst, mask := m, lanes := lanes, word := word } w.fly }

/-- A scalar result of latency L; a write to s0 is discarded. -/
def State.sLater (s : State) (L : Nat) (r : Reg) (x : Word) : State :=
  if r.val = 0 then s else s.later L (.s r.val) 0 [] x

/-! ## What falls due with the clock -/

/-- A handle change taking effect (10 R197). -/
def applyH (s : State) (a : HAct) : State :=
  match a with
  | .bind h slot => s.onW fun w => { w with h := tset 0 w.h h (slot + 1) }
  | .unbind h => s.onW fun w => { w with h := tset 0 w.h h 0 }
  | .setDesc slot d => s.onCore fun c => { c with slots := tset TSlot.free c.slots slot { tget TSlot.free c.slots slot with desc := d } }

/-- Words written into a slot's bytes. -/
def TSlot.putWords (t : TSlot) (ws : List (Nat × LaneVal)) : TSlot :=
  { t with bad := t.bad.filter fun n => !(ws.any fun p => p.1 == n), bytes := ws.foldl (fun b p => tsets 0 b ((leBytes 4 p.2.toNat).zipIdx.map fun q => (4 * p.1 + q.2, q.1))) t.bytes }

/-- Does an entry of the matrix queue name the slot (10 R199)? -/
def MxEntry.names (e : MxEntry) (n : Nat) : Bool := e.hd == some n || e.ha == some n || e.hb == some n

/-- Has the slot a pending operation: an engine operation, or a VTWR on its way (10 R193, R204)? -/
def CoreSt.pending (c : CoreSt) (n : Nat) : Bool := (c.mxq.any fun e => e.names n) || c.vtw.any fun v => v.slot == n

/-- A released slot without pending operations is cleared from cycle t on, for 16 cycles (10 R193). -/
def CoreSt.startClear (c : CoreSt) (t n : Nat) : CoreSt :=
  let x := tget TSlot.free c.slots n
  if x.releasing && x.clearAt.isNone && !c.pending n then
    { c with slots := tset TSlot.free c.slots n { x with clearAt := some (t + 16) } }
  else c

/-- A slot released at cycle t (10 R204). -/
def CoreSt.release (c : CoreSt) (t n : Nat) : CoreSt :=
  CoreSt.startClear { c with slots := tset TSlot.free c.slots n { tget TSlot.free c.slots n with releasing := true } } t n

/-- The VTWR commits due (12 R242), in order. -/
def commitVtw (c : CoreSt) : CoreSt :=
  let ready := c.vtw.filter fun v => v.due ≤ c.cycle
  ready.foldl (fun c v => c.startClear v.due v.slot)
    { c with
      oddSlots := c.oddSlots.filter fun o => !(ready.any fun v => v.slot == o.1 && v.words.any fun p => p.1 == o.2.1),
      slots := ready.foldl (fun t v => tset TSlot.free t v.slot ((tget TSlot.free t v.slot).putWords v.words)) c.slots,
      vtw := c.vtw.filter fun v => !decide (v.due ≤ c.cycle) }

/-- Do bytes cover a word of scratch whole? -/
def covers (ws : List (Nat × Byte)) (n : Nat) : Bool := (List.range 4).all fun i => ws.any fun p => p.1 == 4 * n + i

/-- A 4-byte word that differs in the odd core, once bytes have been written into it, in both: those take their place there too. -/
def overWord (ws : List (Nat × Byte)) (n : Nat) (x : Word) : Word :=
  BitVec.ofNat 64 (leNat ((List.range 4).map fun i =>
    ws.foldl (fun b p => if p.1 == 4 * n + i then p.2 else b) (BitVec.ofNat 8 (x.toNat / 2 ^ (8 * i)))))

/-- The words of scratch that bytes are written over: an error in one that they cover whole is gone (19 R368), and so is what differs in
the odd core. -/
def Cohort.renew (co : Cohort) (ws : List (Nat × Byte)) : Cohort :=
  { co with
    bad := co.bad.filter fun
      | .scratch n => !covers ws n
      | _ => true
    odd := co.odd.filterMap fun p => match p.1 with
      | .scratch n => if covers ws n then none else some (p.1, overWord ws n p.2)
      | _ => some p }

/-- The scratch as an engine, or a LAUNCH, sees it at cycle c (07 R133): with the lane stores due and those behind a fence. -/
def Cohort.seen (co : Cohort) (c : Nat) : Cohort :=
  { co with scratch := (co.stores.filter fun t => t.fenced || t.due ≤ c).foldl (fun m t => tsets 0 m t.bytes) co.scratch }

/-- The scratch stores due (06 R112), in order; a store to a bank no longer in scratch mode finds no byte. -/
def Cohort.applyStores (co : Cohort) (c : Nat) : Cohort :=
  { (if co.bad = [] && co.odd = [] then co else (co.stores.filter fun t => t.due ≤ c).foldl (fun k t => k.renew t.bytes) co) with
    scratch := (co.stores.filter fun t => t.due ≤ c).foldl (fun m t => tsets 0 m t.bytes) co.scratch,
    stores := co.stores.filter fun t => !decide (t.due ≤ c) }

/-- A phase drain that has ended (06 R119). -/
def Cohort.endDrain (co : Cohort) (c : Nat) : Cohort :=
  match co.drain with
  | some d => if d.endAt ≤ c then { co with drain := none } else co
  | none => co

/-- Slots whose clearing has ended return to their pools (10 R193). -/
def clearSlots (c : CoreSt) : CoreSt :=
  { c with
    oddSlots := c.oddSlots.filter fun o => !((tget TSlot.free c.slots o.1).clearAt.any fun e => decide (e ≤ c.cycle))
    slots := (c.slots.filter fun p => p.2.clearAt.any fun e => decide (e ≤ c.cycle)).foldl
      (fun t p => tset TSlot.free t p.1 { TSlot.free with owner := p.2.owner }) c.slots }

/-- Everything in focus that is due at the core's cycle: results, handle changes, scratch stores, VTWR
commits, drains, cleared slots. -/
def State.settle (s : State) : State :=
  let s1 := s.onW fun w => flushFly s.now w.fly w
  let s2 := (s.w.hpend.filter fun p => p.due ≤ s.now).foldl (fun s p => applyH s p.act) s1
  let s3 := s2.onW fun w => { w with hpend := w.hpend.filter fun p => !decide (p.due ≤ s.now) }
  let s4 := s3.onCo fun co => (co.applyStores s.now).endDrain s.now
  s4.onCore fun c => clearSlots (commitVtw c)

/-- The clock moved on to cycle c, at the least, and what is then due. -/
def State.advance (s : State) (c : Nat) : State :=
  (s.onCore fun k => { k with cycle := max k.cycle c }).settle

/-- The warp numbered id brought into focus with its cohort and core, and what is due there. -/
def State.focus (s : State) (id : Nat) : State :=
  let s1 := s.pickW id
  ((s1.pickCo s1.w.cid).pickCore s1.w.corE).settle

/-- The core numbered n brought into focus, with its running warp if it has one; else with what of it is in focus already. -/
def State.focusCore (s : State) (n : Nat) : State :=
  match ((s.coreAt n).running.bind s.warpAt).map Warp.id with
  | some id => s.focus id
  | none =>
    if (s.w.id = 0 || s.w.corE = n) && (s.co.cid = 0 || s.co.corE = n) then (s.pickCore n).settle
    else ((s.stashW.stashCo).pickCore n).settle

/-! ## Flags (02 R46) -/

def Warp.setFlag (w : Warp) (f n : Nat) : Warp := { w with flags := tset 0 w.flags f n }

/-- A flag counted up at issue. -/
def State.flagUp (s : State) (f : Option FlagNo) : State :=
  match f with
  | some f => s.onW fun w => w.setFlag f.val (w.rdFlag f.val + 1)
  | none => s

/-- A flag counted down for the warp numbered id. -/
def State.flagDown (s : State) (id : Nat) (f : Option FlagNo) : State :=
  match f with
  | some f => s.onWarp id fun w => w.setFlag f.val (w.rdFlag f.val - 1)
  | none => s

/-- A flag at 63 holds the issue that would count it up (17 Table 17.3, code 8). -/
def State.flagFull (s : State) (f : Option FlagNo) : Bool := f.any fun f => decide (63 ≤ s.w.rdFlag f.val)

/-! ## Lockstep pairs (19 R371 to R373) -/

/-- Lane i of a value, as a word. -/
def laneWord (l : Lanes) (i : Nat) : Word := (laneAt l i).setWidth 64

/-- A word of a warp's storage set to x; `.s 64` is HSP, which s62 changes places with (18 R356). -/
def Warp.setWord (w : Warp) (r : RegSite) (x : Word) : Warp :=
  match r with
  | .v r l => { w with v := tset zeroLanes w.v r ((w.rdV r).set l (x.setWidth 32)) }
  | .x k l => { w with x := tset zeroLanes w.x k ((w.rdX k).set l (x.setWidth 32)) }
  | .s r => if r = 64 then { w with hsp := x } else { w with s := tset 0 w.s r x }
  | .frame i => { w with frame := tset 0 w.frame i x }

/-- A 4-byte word of a cohort's banks set to x. -/
def Cohort.setWord (co : Cohort) (b : CoSite) (x : Word) : Cohort :=
  let bs := (List.range 4).map fun i => (BitVec.ofNat 8 (x.toNat / 2 ^ (8 * i)) : Byte)
  let put := fun (l : List Byte) (k : Nat) => l.take (4 * k) ++ bs ++ l.drop (4 * k + 4)
  match b with
  | .scratch n => { co with scratch := tsets 0 co.scratch (bs.zipIdx.map fun p => (4 * n + p.2, p.1)) }
  | .fifo q i =>
    let f := tget Fifo.empty co.fifos (co.ns + q)
    { co with fifos := tset Fifo.empty co.fifos (co.ns + q) { f with q := f.q.set (i / 16) (put (f.q.getD (i / 16) []) (i % 16)) } }
  | .l1 line k => { co with l1 := upd (·.line == line) (fun x => { x with bytes := put x.bytes k }) co.l1 }

/-- A result as the odd core has it. -/
def Flight.odds (f : Flight) : Flight :=
  f.odd.foldl (fun f p => match p.1 with
    | .v _ l | .x _ l => { f with lanes := (mkLanes (laneAt f.lanes)).set l (p.2.setWidth 32) }
    | _ => { f with word := p.2 }) { f with odd := [] }

/-- The warp, the cohorts and the core as the odd core of the pair holds them. -/
def Warp.odds (w : Warp) : Warp := w.odd.foldl (fun w p => w.setWord p.1 p.2) { w with odd := [], fly := w.fly.map Flight.odds }
def Cohort.odds (co : Cohort) : Cohort := co.odd.foldl (fun co p => co.setWord p.1 p.2) { co with odd := [] }
def CoreSt.odds (c : CoreSt) : CoreSt :=
  c.oddSlots.foldl (fun c p =>
    { c with slots := tset TSlot.free c.slots p.1 ((tget TSlot.free c.slots p.1).putWords [(p.2.1, p.2.2.setWidth 32)]) }) { c with oddSlots := [] }
def State.odds (s : State) : State := { s with w := s.w.odds, co := s.co.odds, core := s.core.odds, cohorts := s.cohorts.map Cohort.odds }

/-- The keys of two tables. -/
def keys2 {α β : Type} (a : Tbl α) (b : Tbl β) : List Nat := (a.map Prod.fst ++ b.map Prod.fst).dedup

/-- The lanes in which two values differ, with the second's. -/
def laneDiffs (a b : Lanes) : List (Nat × Word) := ((List.range 64).filter fun l => laneAt a l != laneAt b l).map fun l => (l, laneWord b l)

/-- The words of two rows of bytes that differ, with the second's. -/
def wordDiffs (ks : List Nat) (a b : Nat → Byte) : List (Nat × Word) :=
  let word := fun (f : Nat → Byte) k => BitVec.ofNat 64 (leNat ((List.range 4).map fun i => f (4 * k + i)))
  ((ks.map fun i => i / 4).dedup.filter fun k => word a k != word b k).map fun k => (k, word b k)

/-- What differs between two results of one destination. -/
def Flight.diff (a b : Flight) : List (RegSite × Word) :=
  match a.dst with
  | .v r => ((laneDiffs a.lanes b.lanes).filter fun p => a.mask.getLsbD p.1).map fun p => (.v r p.1, p.2)
  | .x k => ((laneDiffs a.lanes b.lanes).filter fun p => a.mask.getLsbD p.1).map fun p => (.x k p.1, p.2)
  | .s r => if a.word = b.word then [] else [(.s r, b.word)]

/-- What differs in the storage of a warp in the two cores, in a cohort's banks, in a core's slots. -/
def Warp.diff (a b : Warp) : List (RegSite × Word) :=
  ((keys2 a.v b.v).flatMap fun r => (laneDiffs (a.rdV r) (b.rdV r)).map fun p => (.v r p.1, p.2)) ++
  ((keys2 a.x b.x).flatMap fun k => (laneDiffs (a.rdX k) (b.rdX k)).map fun p => (.x k p.1, p.2)) ++
  (((keys2 a.s b.s).filter fun r => a.rdS r != b.rdS r).map fun r => (.s r, b.rdS r)) ++
  (if a.hsp = b.hsp then [] else [(.s 64, b.hsp)]) ++
  (((keys2 a.frame b.frame).filter fun i => tget 0 a.frame i != tget 0 b.frame i).map fun i => (.frame i, tget 0 b.frame i))
def Cohort.diff (a b : Cohort) : List (CoSite × Word) :=
  ((wordDiffs (keys2 a.scratch b.scratch) (tget 0 a.scratch) (tget 0 b.scratch)).map fun p => (.scratch p.1, p.2)) ++
  ((keys2 a.fifos b.fifos).flatMap fun k =>
    let f := fun (c : Cohort) i => ((tget Fifo.empty c.fifos k).q.flatten).getD i (0 : Byte)
    (wordDiffs (List.range (64 * (tget Fifo.empty a.fifos k).q.length)) (f a) (f b)).map fun p => (.fifo (k - a.ns) p.1, p.2)) ++
  a.l1.flatMap fun x =>
    (wordDiffs (List.range 128) (fun i => x.bytes.getD i 0) fun i => (((b.l1.find? fun y => y.line == x.line).map L1Line.bytes).getD x.bytes).getD i 0).map
      fun p => (.l1 x.line p.1, p.2)
def CoreSt.diff (a b : CoreSt) : List (Nat × Nat × Word) :=
  (keys2 a.slots b.slots).flatMap fun n =>
    let f := fun (c : CoreSt) => (tget TSlot.free c.slots n).bytes
    (wordDiffs (keys2 (f a) (f b)) (tget 0 (f a)) (tget 0 (f b))).map fun p => (n, p.1, p.2)

/-- The even core's state a and the odd core's b as one: what a holds, and what differs in b. -/
def State.merge (a b : State) : State :=
  { a with
    w := { a.w with odd := a.w.diff b.w, fly := List.zipWith (fun f g => { f with odd := f.diff g }) a.w.fly b.w.fly },
    co := { a.co with odd := a.co.diff b.co }, core := { a.core with oddSlots := a.core.diff b.core },
    cohorts := a.cohorts.map fun c => ((b.cohorts.find? (·.cid == c.cid)).map fun d => { c with odd := c.diff d }).getD c }

/-- Do the cores of the pair in focus hold the same? One that is in no pair has nothing that differs. -/
def State.same (s : State) : Bool :=
  s.w.odd == [] && s.co.odd == [] && s.core.oddSlots == [] && (s.w.fly.all fun f => f.odd == []) && s.cohorts.all fun c => c.odd == []

/-- A step of the core in focus that both cores of a pair make, each on what it holds (19 R371). -/
def State.both (f : State → State) (s : State) : State := if s.same then f s else (f s).merge (f s.odds)

/-- The odd core of a pair, of which the even one is c (19 R371): two cycles behind, with comparators and counters of its own. -/
def CoreSt.behind (c o : CoreSt) : CoreSt :=
  { c with no := o.no, cycle := c.cycle - 2, pcCmp := o.pcCmp, dataCmp := o.dataCmp, cmpCtx := o.cmpCtx, debugStop := o.debugStop, ctr := o.ctr }

/-! ## Holds (02 R49, 17 R347) -/

/-- Is the core's clock stopped for an engine: a debug stop, or a hold but those whose codes are listed (02 R49, 17 R347)? The hold of an L1
miss, in which lines are wanted, stops every engine (06 R114). -/
def CoreSt.frozen (c : CoreSt) (but : List Nat) : Bool :=
  c.debugStop || c.hold.any fun h => !but.contains h.code || (h.code == 3 && c.want != [])

/-- The matrix engine runs on in the holds of a busy handle and of a full queue (10 R201, 13 R246). The accesses and the copies run on in
the holds that the manual has end when some of them complete: a fence wait, a flag at 63 (02 R46, 08 R150), and for copies the copy
limit (09 R168): assumption log 51. -/
def accessHolds : List Nat := [3, 8]
def copyHolds : List Nat := [3, 6, 8]
def matrixHolds : List Nat := [4, 5]

/-- The hold of the bundle of the warp numbered id ends, where it is in force: the warp no longer issues. -/
def CoreSt.dropHold (c : CoreSt) (id : Nat) : CoreSt :=
  if c.hold.any fun h => h.wid == id then { c with hold := none, paused := none } else c

/-! ## Causes (18 R351 to R353) -/

/-- A deliverable cause with its detail, frame words 0, 2 and 3, and slot mask. -/
structure Cause where
  code   : Nat
  detail : Nat
  w0     : Word
  w2     : Word
  w3     : Word
  slots  : Nat
  deriving DecidableEq, Repr

/-- The bit of a slot in SLOTS (18 Table 18.2), from 1. -/
def slotMask : Slot → Nat
  | .V => 1 | .M => 2 | .E => 4 | .C => 8

/-- A synchronous cause of the bundle at pc, with words 0 and 2 its address. -/
def syncCause (pc : Word) (code detail : Nat) : Cause :=
  { code := code, detail := detail, w0 := pc, w2 := pc, w3 := 0, slots := 0 }

/-- The lowest code of a list of causes. -/
def lowestCode : List Cause → Nat
  | [] => 0
  | [c] => c.code
  | c :: l => min c.code (lowestCode l)

/-- The causes of which one is reported (18 R353): those of the lowest code, the synchronous ones where there are any, else the
first of the asynchronous ones, which are delivered one at a time. -/
def gathered (sync async : List Cause) : List Cause :=
  match sync.filter fun c => c.code == lowestCode (sync ++ async) with
  | [] => (async.filter fun c => c.code == lowestCode (sync ++ async)).take 1
  | l => l

/-- Of causes of one code, those that slots raise; a PC comparator's, which no slot raises, only where it stands alone: log 50. -/
def bySlot (l : List Cause) : List Cause :=
  match l.filter fun c => c.slots != 0 with
  | [] => l.take 1
  | r => r

/-- The reported cause (18 R353): the lowest code; the detail and words of its first slot, but for ILLBUN and
ILLOP the lowest detail of any slot; every slot that raised it. -/
def report (l : List Cause) : Option Cause :=
  match bySlot (l.filter fun c => c.code == lowestCode l) with
  | [] => none
  | c :: r =>
    some { c with
      slots := (c :: r).foldl (fun a d => a ||| d.slots) 0,
      detail := if c.code ≤ 2 then (c :: r).foldl (fun a d => min a d.detail) c.detail else c.detail }

/-- The OTHER bits (18 Table 18.2): every cause present but the reported one. -/
def otherBits (code : Nat) (l : List Cause) : Nat :=
  ((List.range 17).filter fun c => c != code && l.any fun d => d.code == c).foldl (fun a c => a + 2 ^ (15 + c)) 0

/-! ## The trap frame (18 R357) -/

/-- A latch as 32 words. -/
def laneWords (l : Lanes) : List Word :=
  (List.range 32).map fun j => BitVec.ofNat 64 ((laneAt l (2 * j)).toNat + 2 ^ 32 * (laneAt l (2 * j + 1)).toNat)

/-- 32 words as lanes. -/
def wordLanes (l : List Word) : Lanes :=
  mkLanes fun i => BitVec.ofNat 32 ((l.getD (i / 2) 0).toNat / 2 ^ (32 * (i % 2)))

/-- FLGA and FLGB (02 Table 2.12): eight counts of six bits. -/
def Warp.flagWord (w : Warp) (from_ : Nat) : Word :=
  BitVec.ofNat 64 ((List.range 8).foldl (fun a i => a + w.rdFlag (from_ + i) * 2 ^ (6 * i)) 0)

/-- WSW (02 Table 2.21). -/
def Warp.wsw (w : Warp) : Word :=
  BitVec.ofNat 64 (w.hm.toNat + 2 * w.ss.toNat + 4 * w.prot.toNat + 8 * w.wedge.toNat + 16 * (w.prio % 8))

/-- An in-flight record's header (18 Table 18.4a) and data words, for a result with REM cycles to go. -/
def recWords (w : Warp) (b : Nat) (f : Flight) : List Word :=
  let rem := f.due - b
  match f.dst with
  | .v r => BitVec.ofNat 64 (r + rem * 2 ^ 12) :: laneWords (blend f.mask (w.rdV r) f.lanes)
  | .s r => BitVec.ofNat 64 (r + 2 ^ 6 + rem * 2 ^ 12) :: f.word :: List.replicate 31 0
  | .x k => BitVec.ofNat 64 (2 * 2 ^ 6 + 2 ^ 8 + k * 2 ^ 9 + rem * 2 ^ 12) :: laneWords (blend f.mask (w.rdX k) f.lanes)

/-- The 801 words of a frame for a boundary at cycle b (18 Table 18.3). -/
def frameWordsOf (w : Warp) (b : Nat) (w0 w1 w2 w3 : Word) : List Word :=
  [w0, w1, w2, w3, w.em, w.am, { w with hm := false }.wsw, w.lps0, w.lpe0, w.lpc0, w.lps1, w.lpe1, w.lpc1, w.sepc,
    w.flagWord 0, w.flagWord 8] ++
  (List.range 8).flatMap (fun k => laneWords (w.rdX k)) ++
  BitVec.ofNat 64 w.fly.length :: w.fly.flatMap (recWords w b)

/-- A frame's words as a table. -/
def wordTbl (l : List Word) : Tbl Word := tsets 0 [] (l.zipIdx.map fun p => (p.2, p.1))

/-- Frame word 1 (18 Table 18.2); an owed landing-pad check goes into PADCHK and PADKIND. -/
def causeWord (c : Cause) (other : Nat) (owed : Option Owed) : Word :=
  BitVec.ofNat 64 (c.code + c.slots * 2 ^ 8 + other + c.detail % 65536 * 2 ^ 32 +
    owed.elim 0 fun o => o.kind * 2 ^ 48 + 2 ^ 52)

/-- Do the results pending at cycle b fit the frame (18 R355): at most 16, each within 15 cycles? -/
def fitsFrame (w : Warp) (b : Nat) : Bool := decide (w.fly.length ≤ 16) && w.fly.all fun f => decide (f.due ≤ b + 15)

/-- The boundary moved on until the pending results fit (18 R355). -/
def State.toBoundary : Nat → State → State
  | 0, s => s
  | fuel + 1, s => if fitsFrame s.w s.now then s else (s.advance (s.now + 1)).toBoundary fuel

/-- A bundle address: bits [4:0] zero. -/
def bundleAddr (a : Word) : Word := a &&& ~~~31

/-- Where a word of the storage stands once a trap is taken (19 R368): a latch's in the frame, as does a register's that an in-flight record
of its group keeps, s62's in HSP and HSP's in s62; the old words of the frame are gone. -/
def Warp.moved (w : Warp) (r : RegSite) : List RegSite :=
  let recs := fun (d : Dest) (l : Nat) =>
    w.fly.zipIdx.filterMap fun p => if p.1.dst = d && !p.1.mask.getLsbD l then some (RegSite.frame (274 + 33 * p.2 + l / 2)) else none
  match r with
  | .x k l => .frame (16 + 32 * k + l / 2) :: recs (.x k) l
  | .v q l => .v q l :: recs (.v q) l
  | .s n => if n = 62 then [.s 64] else if n = 64 then [.s 62] else [.s n]
  | .frame _ => []

/-- The quantum counts from the first issue of a warp that has been switched in (17 R346): a warp that has not issued since issues at u. -/
def State.firstAt (s : State) (u : Nat) : State :=
  s.onCore fun k => if k.running = some s.w.id && decide (s.w.lastIssue ≤ k.qstart) then { k with qstart := max k.qstart u } else k

/-- Taking a trap at the boundary (18 R355, R356): the frame is written, HM set, EM := AM, the latches and loop
counts cleared, s62 and HSP exchanged, and the next bundle is TVEC's, three cycles on. -/
def State.takeTrap (s : State) (c : Cause) (other : Nat) (owed : Option Owed) : State :=
  State.both (fun s =>
  let s := (s.settle).toBoundary 64
  let b := s.now
  ((s.onW fun w =>
    { w.wrS 62 w.hsp with
      bad := (w.bad.flatMap w.moved).dedup,
      frame := wordTbl (frameWordsOf w b c.w0 (causeWord c other owed) c.w2 c.w3),
      hm := true, em := w.am, x := [], lpc0 := 0, lpc1 := 0, hsp := w.rdS 62, fly := [], pc := bundleAddr w.tvec,
      owed := none, padSrc := owed.elim w.padSrc Owed.src, causeRead := false, run := .ready, nextIssue := b + 3 }).firstAt (b + 3)).advance (b + 3)) s

/-- The two bits of ERRW and the rest (03 Table 3.2, 19 Table 19.2). -/
def Warp.setErr (w : Warp) (bit : Nat) : Warp := { w with errw := w.errw ||| BitVec.ofNat 64 (2 ^ bit) }

/-- A notice to Caddy (16 R331, 18 R360): the warp and an address. -/
def State.notify (s : State) (id : Nat) (a : Word) : State := s.onHost fun h => { h with notes := h.notes ++ [.halted id a.toNat] }

/-! ## Launch records -/

/-- A gang by its number, a pre-empted one too. -/
def State.gangAt (s : State) (uid : Nat) : Option Gang := (s.sch.gangs ++ s.sch.saved.map Saved.gang).find? (·.uid == uid)

/-- The gang of a warp, a pre-empted one too. -/
def State.gangOfWarp (s : State) (id : Nat) : Option Gang :=
  match (s.allWarps ++ s.sch.saved.flatMap Saved.warps).find? (·.id == id) with
  | some w => (s.sch.gangs ++ s.sch.saved.map Saved.gang).find? fun g => g.cids.contains w.cid
  | none => none

/-- The launch that a gang belongs to changed. -/
def State.onLaunch (s : State) (g : Option Gang) (f : Launch → Launch) : State :=
  match g with
  | some g => s.onSch fun c => { c with running := upd (·.uid == g.launch) f c.running }
  | none => s

/-- An item entry put into a record; corrected errors are one entry with their count (21 Table 21.3a). -/
def addEntryTo (e : Entry) (l : List Entry) : List Entry :=
  if e.kind = .corr && l.any (fun x => x.kind == .corr) then upd (fun x => x.kind == .corr) (fun x => { x with val := x.val + e.val }) l
  else l ++ [e]

/-- An entry added to the record of the launch that a gang belongs to (19 R374). -/
def State.addEntry (s : State) (gang : Nat) (e : Entry) : State :=
  s.onLaunch (s.gangAt gang) fun l => { l with entries := addEntryTo e l.entries }

/-- An entry of the launch numbered l, where it is in flight. -/
def State.entryOf (s : State) (l : Nat) (e : Entry) : State :=
  s.onSch fun c => { c with running := upd (·.uid == l) (fun x => { x with entries := addEntryTo e x.entries }) c.running }

/-- An entry of the launch of the warp numbered id. -/
def State.entryFor (s : State) (id : Nat) (e : Entry) : State :=
  s.onLaunch (s.gangOfWarp id) fun l => { l with entries := addEntryTo e l.entries }

/-- A launch's status, the first failure that ended work (19 R374). -/
def State.failLaunch (s : State) (gang : Nat) (st : Status) : State :=
  s.onLaunch (s.gangAt gang) fun l => { l with status := if l.status = .ok then st else l.status }

/-! ## Barriers (16 R321 to R323) -/

/-- A phase completes when m ≥ 1 and a = m; its waiters are released four cycles later. With no member, a := 0. -/
def Bar.check (b : Bar) (t : Nat) : Bar :=
  if b.mem = [] then { b with arr := [] }
  else if b.mem.length = b.arr.length then { b with arr := [], phase := b.phase + 1, last := b.arr, relAt := t + 4, rels := [], lastRels := b.rels }
  else b

def Bar.leave (b : Bar) (w : Nat) : Bar :=
  if b.mem.contains w then { b with mem := b.mem.erase w, arr := b.arr.erase w } else b

/-- Barrier b changed by f, then its phase judged at the issue cycle. -/
def State.onBar (s : State) (n : Nat) (f : Bar → Bar) : State :=
  s.onCo fun co => { co with bars := tset Bar.fresh co.bars n ((f (tget Bar.fresh co.bars n)).check s.now) }

/-- A retiring warp leaves every barrier it is a member of (16 R312). -/
def State.leaveAll (s : State) : State :=
  (s.co.bars.filter fun p => p.2.mem.contains s.w.warpIdx).foldl (fun s p => s.onBar p.1 fun b => b.leave s.w.warpIdx) s

/-! ## Pins, cohorts, retirement -/

/-- The pins of the core in focus released (05 Table 5.1). -/
def State.unpinAll (s : State) : State := s.onCore fun c => { c with pins := [] }

/-- The launch of a warp, a pre-empted one too; zero where it has none. -/
def State.itsLaunch (s : State) (id : Nat) : Nat := ((s.gangOfWarp id).map Gang.launch).getD 0

/-- Those of a context (05 Table 5.1). -/
def State.unpinCtx (s : State) (ctx : Nat) : State := s.onCore fun c => { c with pins := drop' (fun p => p.ctx == ctx) c.pins }

/-- A Decant job's counters changed; a job not listed has zeros (15 R296). -/
def DJob.fresh (j : Nat) : DJob :=
  { job := j, cnt := [], set := none, failed := [], indet := false, wave := none, waiting := [] }
def State.jobAt (s : State) (j : Nat) : DJob := (s.jobs.find? (·.job == j)).getD (DJob.fresh j)
def State.onJob (s : State) (j : Nat) (f : DJob → DJob) : State :=
  { s with jobs := insBy DJob.job (f (s.jobAt j)) (s.jobs.filter (·.job != j)) }

/-- Decant counters are 48 bits (15 R296). -/
def add48 (a b : Nat) : Nat := (a + b) % 2 ^ 48

/-- A die interface's counters of a job changed. -/
def DJob.at_ (d : DJob) (die : Nat) : WaveSum := tget { i := 0, c := 0, a := 0 } d.cnt die
def State.count (s : State) (die j : Nat) (f : WaveSum → WaveSum) : State :=
  s.onJob j fun d => { d with cnt := tset { i := 0, c := 0, a := 0 } d.cnt die (f (d.at_ die)) }

/-- n messages of a job injected, consumed, abandoned at the interface of a die (15 R296). -/
def State.countI (s : State) (die j n : Nat) : State := s.count die j fun d => { d with i := add48 d.i n }
def State.countC (s : State) (die j n : Nat) : State := s.count die j fun d => { d with c := add48 d.c n }
def State.countA (s : State) (die j n : Nat) : State := s.count die j fun d => { d with a := add48 d.a n }

/-- The sums over the interfaces of the device (15 R299). -/
def DJob.sums (d : DJob) : WaveSum :=
  (List.range 4).foldl (fun (w : WaveSum) k => { i := add48 w.i (d.at_ k).i, c := add48 w.c (d.at_ k).c, a := add48 w.a (d.at_ k).a }) { i := 0, c := 0, a := 0 }

/-- The signal slots that p picks freed, each pending record consumed and counted at their core's interface (08 R159, R162). -/
def State.freeSigs (s : State) (p : SigSlot → Bool) : State :=
  let s1 := (s.core.sigs.filter p).foldl (fun s g => g.pend.foldl (fun s j => j.elim s fun j => s.countC (s.core.no / 256) j 1) s) s
  s1.onCore fun c => { c with sigs := drop' p c.sigs }

/-- Does every warp of the cohort in focus stand retired? -/
def State.cohortDone (s : State) : Bool := (s.allWarps.filter (·.cid == s.co.cid)).all fun w => w.run == .retired

/-- Every result in flight written (16 R312; 02 R45 at a switch). -/
def Warp.flushAll (w : Warp) : Warp := { w.fly.foldl Warp.wrDest w with fly := [] }

/-- The warp in focus retires (16 R312): its results in flight are written, it leaves its barriers, a waiting phase may
complete, its context's pins on the core go when it is the context's last warp there, and a cohort whose last warp it was ends
(08 R159). -/
def State.retire (s : State) : State :=
  let s1 := (s.onW fun w =>
    { w.flushAll with
      run := .retired, em := 0, am := 0, sepc := 0, pend := [], restart := [], soon := [], sigBad := none, owed := none }).leaveAll.onCore fun c => c.dropHold s.w.id
  let s2 := if (s1.allWarps.filter fun w => w.corE == s1.w.corE && w.ctx == s1.w.ctx).all fun w => w.run == .retired
            then s1.unpinCtx s1.w.ctx else s1
  if s2.cohortDone then (s2.freeSigs fun g => g.cid == s2.co.cid).onCo fun co => { co with ended := true } else s2

/-- The warp in focus is killed, its launch recording why (19 R370, R374; 18 R360). -/
def State.kill (s : State) (st : Status) : State :=
  ((s.addEntry s.co.gang { kind := .kill, status := st, val := s.w.pc.toNat }).failLaunch s.co.gang st).retire

/-- A double fault (18 R360): nothing commits, the second record is written as frame words 0 to 3 are, the warp is halted. It is
wedged where the cause word has not been read and the fault is a fetch or goes through s62: then Fjody kills it, its frame and
second record kept. -/
def State.doubleFault (s : State) (c : Cause) (other : Nat) (owed : Option Owed) (viaHsp : Bool) : State :=
  let s1 := (s.onW fun w =>
    { w with
      second := some { w0 := c.w0, w1 := causeWord { c with code := 16, detail := c.code } other owed, w2 := c.w2, w3 := c.w3 },
      run := .halted, wedge := w.wedge || (!w.causeRead && viaHsp) }).notify s.w.id c.w0
  if !s.w.causeRead && viaHsp then s1.kill .wedged else s1

/-! ## Engine work of a warp -/

/-- Has the warp an operation, a copy or a matrix entry that has not finished? -/
def State.engineBusy (s : State) (id : Nat) : Bool :=
  s.core.ops.any (·.wid == id) || s.core.copies.any (fun c => c.wid == id && c.susp.isNone) || s.core.mxq.any (·.wid == id)

/-! ## Restart requests (16 R326, 19 R370) -/

/-- The entry of a poisoned granule consumed (21 Table 21.3a). -/
def poisonEntry (va : Nat) : Entry := { kind := .poison, status := .poisoned, val := va }

/-- A restart request raised; an on-chip error sets OCE. -/
def Warp.ask (w : Warp) (r : RestartReq) : Warp :=
  let w1 := match r with
    | .consumed true _ _ => w.setErr 2
    | _ => w
  { w1 with restart := w1.restart ++ [r] }

/-- Poison or an uncorrectable error consumed by the warp numbered id (03 R77, 19 R369). -/
def State.consume (s : State) (id : Nat) (onChip : Bool) (w2 w3 : Word) : State :=
  (s.entryFor id (poisonEntry w2.toNat)).onWarp id fun w => w.ask (.consumed onChip w2 w3)

/-- A disagreement of the signatures raised for the warp in focus, where the odd core has committed the bundle (19 R373): LSM is set, and the
core counts it. -/
def State.disagreed (s : State) : State :=
  if s.w.sigBad.any fun t => decide (t ≤ s.now) then
    (s.onW fun w => { (w.setErr 3) with restart := w.restart ++ [.disagree], sigBad := none }).onCore fun c =>
      { c with ctr := { c.ctr with disagree := c.ctr.disagree + 1 } }
  else s

/-- The requests of cached loads that have completed by cycle c are raised. -/
def Warp.ripe (w : Warp) (c : Nat) : Warp :=
  if w.soon = [] then w
  else
    ((w.soon.filter fun p => decide (p.1 ≤ c)).map Prod.snd).foldl Warp.ask { w with soon := w.soon.filter fun p => !decide (p.1 ≤ c) }

/-- An on-chip error consumed, where there is one, by some lanes, or by none in particular (19 R368, R369). -/
def State.consumeIf (s : State) (id : Nat) (hit : Bool) (m : Mask) : State := if hit then s.consume id true 0 m else s

/-- With no sentence open: consumption becomes the cause UE, a disagreement kills. -/
def State.noSentence (s : State) : State :=
  if s.w.restart.contains .disagree then s.kill .diverged
  else s.onW fun w =>
    { w with restart := [], pend := w.pend ++ w.restart.filterMap fun r => match r with
      | .consumed _ a l => some { code := 9, detail := 0, w2 := a, w3 := l, slots := 0 }
      | .disagree => none }

/-- The restart at SEPC (16 R326): flags and latches zero, EM, AM and the loop registers as recorded, but for lanes that have exited since,
which never return (16 R312). -/
def State.doRestart (s : State) (r : Sentence) : State :=
  (s.entryFor s.w.id { kind := .restart, status := .ok, val := s.w.sepc.toNat }).onW fun w =>
    let w1 := if w.restart.any fun q => match q with
                | .consumed _ _ _ => true
                | _ => false then w.setErr 1 else w
    { (w1.setErr 4).renew RegSite.inLatch with
      restart := [], soon := [], flags := [], x := [], em := r.em &&& w.am, am := r.am &&& w.am, lps0 := r.lps0, lpe0 := r.lpe0, lpc0 := r.lpc0,
      lps1 := r.lps1, lpe1 := r.lpe1, lpc1 := r.lpc1, pc := bundleAddr w.sepc, run := .ready, owed := none,
      sent := { r with count := r.count + 1 } }

/-- The restart requests of the warp in focus taken at a boundary: none in handler mode (18 R360); with a sentence
open, which is SEPC other than zero, the warp restarts once its engine operations have finished, and the third request kills it. -/
def State.takeRestart (s : State) : State :=
  if s.w.restart = [] || s.w.hm then s
  else
    let s0 := s.onCore fun c => { c with hold := none, paused := none }
    if s.w.sepc = 0 then s0.noSentence
    else if s.engineBusy s.w.id then s
    else if s.w.sent.count < 2 then (s0.doRestart s0.w.sent).firstAt s0.now
    else s0.kill .sentfail

/-! ## Asynchronous causes at a boundary -/

/-- The COPYF of a suspended copy (09 Table 9.1). -/
def suspDetail (u : Susp) : Nat := u.kind + u.slot * 2 ^ 4 + u.dstSide.toNat * 2 ^ 6 + u.sub * 2 ^ 8

/-- The unreported suspensions of the warp in focus, lowest slot first (09 R170). -/
def State.unreported (s : State) : List Susp :=
  (List.range 4).filterMap fun n =>
    (s.core.copies.filterMap fun c => if c.wid = s.w.id then c.susp else none).find? fun u => u.slot == n && !u.reported

/-- The asynchronous causes pending for the warp in focus, its next bundle at word 0; none in handler mode. A COPYF has
SLOTS E (24 R405). -/
def State.asyncCauses (s : State) : List Cause :=
  if s.w.hm then []
  else
    (s.w.pend.map fun p => { code := p.code, detail := p.detail, w0 := s.w.pc, w2 := p.w2, w3 := p.w3, slots := p.slots }) ++
    s.unreported.map fun u =>
      { code := 11, detail := suspDetail u, w0 := s.w.pc, w2 := BitVec.ofNat 64 u.addr, w3 := 0, slots := slotMask .E }

/-- A reported asynchronous cause is no longer pending. -/
def State.clearCause (s : State) (c : Cause) : State :=
  if c.code = 11 then
    match s.unreported.head? with
    | some u => s.onCore fun k =>
      { k with
        copies := upd (fun p => p.wid == s.w.id && p.susp.any (fun q => q.slot == u.slot))
          (fun p => { p with susp := p.susp.map fun q => { q with reported := true } }) k.copies }
    | none => s
  else s.onW fun w => { w with pend := w.pend.eraseP fun p => p.code == c.code }

/-! ## Return from a trap (16 R329, 18 R358) -/

/-- In-flight record i of the frame replayed from the first issue at cycle u: what its header names is written at
u + REM. -/
def replayRec (w : Warp) (u i : Nat) : List Flight :=
  let h := (tget 0 w.frame (273 + 33 * i)).toNat
  let data := tgets 0 w.frame (274 + 33 * i) 32
  let dest := h % 64
  let kind := h / 64 % 4
  let rem := h / 4096 % 16
  let f := fun d => { due := u + rem, dst := d, mask := BitVec.allOnes 64, lanes := wordLanes data, word := data.getD 0 0 }
  let reg := h / 2 ^ 16 % 2 == 0
  if rem = 0 || kind = 3 || (kind = 0 && w.nregs ≤ dest) || (kind = 1 && dest = 0) then []
  else
    (if kind = 0 && reg then [f (.v dest)] else if kind = 1 && reg then [f (.s dest)] else []) ++
    (if h / 2 ^ 8 % 2 == 1 then [f (.x (h / 2 ^ 9 % 8))] else [])

/-- All the records, in order. -/
def replayAll (w : Warp) (u : Nat) : List Flight :=
  (List.range (min 16 (tget 0 w.frame 272).toNat)).flatMap (replayRec w u)

/-- The copy that a COPYF frame reported: resumed, or abandoned where ABN is set (09 R171). -/
def State.endCopyTrap (s : State) (w1 : Nat) : State :=
  if w1 % 256 != 11 || w1 / 2 ^ 32 % 16 == 3 then s
  else
    let slot := w1 / 2 ^ 36 % 4
    let p := fun (c : Copy) => c.wid == s.w.id && c.susp.any fun u => u.slot == slot && u.reported
    match s.core.copies.find? p with
    | none => s
    | some c =>
      if w1 / 2 ^ 47 % 2 = 1 then
        ((s.flagDown s.w.id (some c.flag)).addEntry s.co.gang { kind := .abandon, status := .abandoned, val := (tget 0 s.w.frame 2).toNat }).onCore fun k =>
          { k with copies := k.copies.filter (·.id != c.id), ctr := { k.ctr with abandoned := k.ctr.abandoned + 1 } }
      else s.onCore fun k => { k with copies := upd (·.id == c.id) (fun c => { c with susp := none }) k.copies }

/-- RFT (16 R329): the frame's state is put back, the in-flight records replayed from u, the first issue after it.
A lane that has left AM does not return (18 R358), and a warp to which none is left retires (16 R312). -/
def State.rft (s : State) (u : Nat) : State :=
  let f := fun i => tget 0 s.w.frame i
  let w1 := (f 1).toNat
  let s1 := (s.onW fun w =>
    { ((w.renew RegSite.inLatch).wrS 62 w.hsp) with
      bad := (w.bad.filter fun r => !RegSite.inLatch r).map fun r => if r = .s 62 then .s 64 else if r = .s 64 then .s 62 else r,
      hsp := w.rdS 62, em := f 4 &&& f 5 &&& w.am, am := f 5 &&& w.am, prio := (f 6).toNat / 16 % 8, ss := (f 6).getLsbD 1, hm := false,
      lps0 := f 7, lpe0 := f 8, lpc0 := f 9, lps1 := f 10, lpe1 := f 11, lpc1 := f 12, sepc := f 13,
      x := tsets zeroLanes [] ((List.range 8).map fun k => (k, wordLanes (tgets 0 w.frame (16 + 32 * k) 32))),
      fly := (replayAll w u).foldl (fun l g => insFly g l) w.fly,
      owed := if w1 / 2 ^ 52 % 2 = 1 then some { kind := w1 / 2 ^ 48 % 16, src := w.padSrc } else none }).endCopyTrap w1
  if s1.w.am = 0 then s1.retire else s1

end Sys2Proof.Machine
end

