-- ==== Sys2Proof/Machine/Operands.lean ====
section
/-! DEFINITION. Operand forms: what an operand select picks in a lane and what its modifier does to it (spec 02
R53, R54), the lanes a V instruction runs on and where its result goes (11 R209, R210), the addresses of the
memory slot (02 R58), masks as scalars. -/

namespace Sys2Proof.Machine

/-- The lane value an operand select picks (02 Table 2.6): a constant enters as a value of type et. -/
def Warp.sel (w : Warp) (et : Etype) (o : Sel) (l : Nat) : LaneVal :=
  match o with
  | .v r => laneAt (w.rdV r.val) l
  | .s r => (w.rdS r.val).setWidth 32
  | .x k => laneAt (w.rdX k.val) l
  | .c c => LaneFns.const et c

/-- An operand after its modifier (02 R54). -/
def Warp.opd (w : Warp) (et : Etype) (o : Opd) (l : Nat) : LaneVal := LaneFns.modify et o.md (w.sel et o.sel l)

/-- The set S of a V instruction (11 R209): AM with nm, otherwise EM. -/
def Warp.lanesS (w : Warp) (nm : Bool) : Mask := if nm then w.am else w.em

/-- The lanes of a function over a mask; a lane outside it is not computed and stands as zero. -/
def overMask (m : Mask) (f : Nat → LaneVal) : Lanes := mkLanes fun l => if m.getLsbD l then f l else 0

/-- A V result of latency L (11 R209): vd unless wbs, latch xn when le, over the lanes of m; an empty m writes
nothing (11 R210). -/
def State.vWrite (s : State) (L : Nat) (d : Dst) (m : Mask) (l : Lanes) : State :=
  if m = 0 then s
  else
    let s1 := if d.wbs then s else s.later L (.v d.reg.val) m l 0
    if d.le then s1.later L (.x d.xn.val) m l 0 else s1

/-- A scalar result of a V instruction (02 R52, 11 R220): wbs suppresses it, s0 discards it. -/
def State.vScalar (s : State) (L : Nat) (d : Dst) (x : Word) : State := if d.wbs then s else s.sLater L d.reg x

/-- The address of a lane of an M-slot access (02 R58), modulo 2^64. -/
def Warp.laneAddr (w : Warp) (a : LAddr) (l : Nat) : Word :=
  w.rdS a.sb.val +
    (if a.uni then 0 else if a.sx then (laneAt (w.rdV a.vi.val) l).signExtend 64 else (laneAt (w.rdV a.vi.val) l).setWidth 64) +
    a.imm.signExtend 64

/-- The A layout has no sub field: its index is zero-extended (02 R58). -/
def fullAddr (a : GAddr) : LAddr := { sb := a.sb, vi := a.vi, uni := false, sx := false, imm := a.imm }

/-- A warp instruction's address: s[sb] + sext(imm16). -/
def Warp.baseAddr (w : Warp) (sb : Reg) (imm : BitVec 16) : Word := w.rdS sb.val + imm.signExtend 64

/-- The lowest lane of a mask. -/
def firstLane (m : Mask) : Option Nat := (lanesOf m).head?

/-- Register r of a pair or quad, in little-endian order of 32-bit words (08 R144): lane l of n registers as bytes. -/
def Warp.laneBytes (w : Warp) (r n l : Nat) : Nat :=
  (List.range n).foldr (fun i acc => (laneAt (w.rdV (r + i)) l).toNat + 2 ^ 32 * acc) 0

end Sys2Proof.Machine
end

