-- ==== Sys2Proof/Machine/Flags.lean ====
section
/-! DEFINITION. Flag computations: FPSTAT (spec 01 R26) and the counts of the completion flags (02 R46). The
flags that a float step raises are computed with its value in `Num`, `Sfu` and `LaneFns`. -/

namespace Sys2Proof.Machine

/-- FPSTAT's flags raised: hardware only ever sets them (01 R26). -/
def State.raise (s : State) (fl : Nat) : State := s.onW fun w => { w with fpstat := w.fpstat ||| BitVec.ofNat 64 (fl % 128) }

/-- FPCTL as the lane functions read it. -/
def Warp.ctl (w : Warp) : Nat := w.fpctl.toNat

/-- The flags of all lanes together. -/
def orLanes (l : List (LaneVal × Nat)) : Nat := l.foldl (fun a p => a ||| p.2) 0

/-- The flags of a bundle counted up at its issue; two slots that name one flag raise it by two (02 R46). -/
def State.countUp (s : State) (l : List FlagNo) : State := l.foldl (fun s f => s.flagUp (some f)) s

/-- Would counting these flags up take one above 63 (02 R46)? -/
def State.overFull (s : State) (l : List FlagNo) : Bool := l.any fun f => decide (63 < s.w.rdFlag f.val + (l.filter (· == f)).length)

/-- Is a WAITF's condition met (16 R319): flag f at most n, or every flag zero? -/
def Warp.flagLe (w : Warp) (f n : Nat) : Bool := decide (w.rdFlag f ≤ n)
def Warp.flagsZero (w : Warp) : Bool := w.flags.all fun p => p.2 == 0

end Sys2Proof.Machine
end

