-- ==== Sys2Proof/Machine/Ports.lean ====
section
/-! DEFINITION. What each instruction reads and writes, as the port limits count it (spec 02 R51), and the
register checks that rest on it: ILLBUN, and ILLOP detail 6 (02 R42, R44). -/

namespace Sys2Proof.Machine

/-- Registers read and written: v reads and writes, s reads and writes, latches written; the latches read, which no port limit counts,
and whether a V instruction ignores EM. -/
structure Ports where
  vr : List Nat
  vw : List Nat
  sr : List Nat
  sw : List Nat
  xw : List Nat
  xr : List Nat
  nm : Bool
  deriving DecidableEq, Repr

namespace Ports

/-- Nothing read or written. -/
def none : Ports := { vr := [], vw := [], sr := [], sw := [], xw := [], xr := [], nm := false }

/-- Two sets of accesses together. -/
def both (p q : Ports) : Ports :=
  { vr := p.vr ++ q.vr, vw := p.vw ++ q.vw, sr := p.sr ++ q.sr, sw := p.sw ++ q.sw, xw := p.xw ++ q.xw, xr := p.xr ++ q.xr,
    nm := p.nm || q.nm }

/-- Scalars read and written; s0 counts nothing. -/
def sIn (l : List Reg) : Ports := { none with sr := (l.map Fin.val).filter (· != 0) }
def sOut (r : Reg) : Ports := { none with sw := if r.val = 0 then [] else [r.val] }
def vIn (l : List Nat) : Ports := { none with vr := l }
def vOut (l : List Nat) : Ports := { none with vw := l }
def latch (le : Bool) (xn : Fin 8) : Ports := { none with xw := if le then [xn.val] else [] }

/-- Operand selects: latches and constants count nothing. -/
def sels : List Sel → Ports
  | [] => none
  | .v r :: l => both { none with vr := [r.val] } (sels l)
  | .s r :: l => both (sIn [r]) (sels l)
  | .x k :: l => both { none with xr := [k.val] } (sels l)
  | .c _ :: l => sels l

/-- The destination of a V instruction; one suppressed by wbs is not named. -/
def ofDst (d : Dst) : Ports := both { none with vw := if d.wbs then [] else [d.reg.val] } (latch d.le d.xn)
def scalarOf (d : Dst) : Ports := if d.wbs then none else sOut d.reg
def ofHead (h : VHead) : Ports := { ofDst h.d with nm := h.nm }
def scalarHead (h : VHead) : Ports := { scalarOf h.d with nm := h.nm }

/-- The address fields of a lane access: v[vi] is not read under uniform addressing. -/
def addr (a : LAddr) : Ports := { sIn [a.sb] with vr := if a.uni then [] else [a.vi.val] }

end Ports

/-- The registers of a datum: one, a pair, a quad (02 R44). -/
def regsOf (w : Width) (d : Reg) : List Nat :=
  match w with
  | .w64 => [d.val, d.val + 1]
  | .w128 => [d.val, d.val + 1, d.val + 2, d.val + 3]
  | _ => [d.val]

/-- The pitch pair of a copy: s[sx + 1] is read when zf is 1 in the geometry word (09 R180). -/
def pitches (zf : Reg → Bool) (sg sx : Reg) : List Reg := if zf sg then [sx, sx + 1] else [sx]

open Ports in
/-- The registers that an instruction names, each chapter's field table; zf tells of a geometry scalar whether its
zf bit is set. -/
def portsOf (zf : Reg → Bool) : Instr → Ports
  | .vnop => none
  | .vadd h a b _ => both (sels [a.sel, b.sel]) (ofHead h)
  | .vsub h a b _ => both (sels [a.sel, b.sel]) (ofHead h)
  | .vmul h a b _ => both (sels [a.sel, b.sel]) (ofHead h)
  | .vmulh h a b => both (sels [a.sel, b.sel]) (ofHead h)
  | .vmad h a b c _ => both (sels [a.sel, b.sel, c.sel]) (ofHead h)
  | .vneg h a _ => both (sels [a.sel]) (ofHead h)
  | .vabs h a _ => both (sels [a.sel]) (ofHead h)
  | .vmin h a b => both (sels [a.sel, b.sel]) (ofHead h)
  | .vmax h a b => both (sels [a.sel, b.sel]) (ofHead h)
  | .vavg h a b _ => both (sels [a.sel, b.sel]) (ofHead h)
  | .vsad h a b c _ => both (sels [a.sel, b.sel, c.sel]) (ofHead h)
  | .vdot h a b c _ => both (sels [a.sel, b.sel, c.sel]) (ofHead h)
  | .vshl h a b _ => both (sels [a.sel, b.sel]) (ofHead h)
  | .vshr h a b => both (sels [a.sel, b.sel]) (ofHead h)
  | .vsra h a b => both (sels [a.sel, b.sel]) (ofHead h)
  | .vrot h a b => both (sels [a.sel, b.sel]) (ofHead h)
  | .vand h a b => both (sels [a.sel, b.sel]) (ofHead h)
  | .vor h a b => both (sels [a.sel, b.sel]) (ofHead h)
  | .vxor h a b => both (sels [a.sel, b.sel]) (ofHead h)
  | .vandn h a b => both (sels [a.sel, b.sel]) (ofHead h)
  | .vnot h a => both (sels [a.sel]) (ofHead h)
  | .vclz h a => both (sels [a.sel]) (ofHead h)
  | .vpopc h a => both (sels [a.sel]) (ofHead h)
  | .vbrev h a => both (sels [a.sel]) (ofHead h)
  | .vbfx h a b => both (sels [a.sel, b.sel]) (ofHead h)
  | .vbfi h a b c => both (sels [a.sel, b.sel, c.sel]) (ofHead h)
  | .vcmp h a b _ => both (sels [a.sel, b.sel]) (scalarHead h)
  | .vsel h a b c => both (sels [a.sel, b.sel, c.sel]) (ofHead h)
  | .vmov h a => both (sels [a.sel]) (ofHead h)
  | .vprm h a b c => both (sels [a.sel, b.sel, c.sel]) (ofHead h)
  | .vlane h _ => ofHead h
  | .vaddi h a _ => both (sels [a]) (ofDst h.d)
  | .vandi h a _ => both (sels [a]) (ofDst h.d)
  | .vori h a _ => both (sels [a]) (ofDst h.d)
  | .vxori h a _ => both (sels [a]) (ofDst h.d)
  | .vimm h _ => ofDst h.d
  | .vfadd h a b _ _ => both (sels [a.sel, b.sel]) (ofHead h)
  | .vfsub h a b _ _ => both (sels [a.sel, b.sel]) (ofHead h)
  | .vfmul h a b _ _ => both (sels [a.sel, b.sel]) (ofHead h)
  | .vfma h a b c _ _ => both (sels [a.sel, b.sel, c.sel]) (ofHead h)
  | .vfnma h a b c _ _ => both (sels [a.sel, b.sel, c.sel]) (ofHead h)
  | .vfmin h a b => both (sels [a.sel, b.sel]) (ofHead h)
  | .vfmax h a b => both (sels [a.sel, b.sel]) (ofHead h)
  | .vfcmp h a b _ => both (sels [a.sel, b.sel]) (scalarHead h)
  | .vfclass h a => both (sels [a.sel]) (ofHead h)
  | .vfrnd h a _ => both (sels [a.sel]) (ofHead h)
  | .vfscl h a b _ _ => both (sels [a.sel, b.sel]) (ofHead h)
  | .vfdot2 h a b c _ _ => both (sels [a.sel, b.sel, c.sel]) (ofHead h)
  | .vfkey h a => both (sels [a.sel]) (ofHead h)
  | .vcvt h a _ _ _ => both (sels [a.sel]) (ofHead h)
  | .vpack h a b _ _ _ => both (sels [a.sel, b.sel]) (ofHead h)
  | .vunpk h a _ => both (sels [a.sel]) (ofHead h)
  | .vbexp h a => both (sels [a.sel]) (ofHead h)
  | .vbq h a => both (sels [a.sel]) (ofHead h)
  | .vbdq h a _ _ => both (sels [a.sel]) (ofHead h)
  | .vrcp h a _ => both (sels [a.sel]) (ofHead h)
  | .vrsq h a _ => both (sels [a.sel]) (ofHead h)
  | .vsqrt h a _ => both (sels [a.sel]) (ofHead h)
  | .vexp2 h a _ => both (sels [a.sel]) (ofHead h)
  | .vlog2 h a _ => both (sels [a.sel]) (ofHead h)
  | .vsinp h a _ => both (sels [a.sel]) (ofHead h)
  | .vcosp h a _ => both (sels [a.sel]) (ofHead h)
  | .vtanh h a _ => both (sels [a.sel]) (ofHead h)
  | .vshfl h a b => both (sels [a.sel, b.sel]) (ofHead h)
  | .vshflr h a b _ => both (sels [a.sel, b.sel]) (ofHead h)
  | .vbcst h a b => both (sels [a.sel, b.sel]) (ofHead h)
  | .vscan h a _ _ _ _ => both (sels [a.sel]) (ofHead h)
  | .vred h a _ _ _ => both (sels [a.sel]) (ofHead h)
  | .vcomp h a => both (sels [a.sel]) (ofHead h)
  | .vget h a b => both (sels [a.sel, b.sel]) (scalarHead h)
  | .vins h a b => both (sels [a.sel, b.sel]) (ofHead h)
  | .vtrd h _ b => both (sels [b.sel]) (ofHead h)
  | .vtwr h a b => { sels [a.sel, b.sel] with nm := h.nm }
  | .mnop => none
  | .lld d w a le xn => both (addr a) (both (vOut (regsOf w d)) (latch le xn))
  | .lst d w a => both (addr a) (vIn (regsOf w d))
  | .llds d _ sb _ => both (sIn [sb]) (sOut d)
  | .lsts d _ sb _ => sIn [sb, d]
  | .latom d w a _ => both (addr (fullAddr a)) (both (vIn (regsOf w d)) (vOut (regsOf w d)))
  | .lcas d w a => both (addr (fullAddr a)) (both (vIn (regsOf w.doubled d)) (vOut (regsOf w d)))
  | .qenq d w sb _ => both (sIn [sb]) (vIn (regsOf w d))
  | .qdeq d w sb _ le xn => both (sIn [sb]) (both (vOut (regsOf w d)) (latch le xn))
  | .qstat d sb _ => both (sIn [sb]) (sOut d)
  | .gld _ _ d w a => both (addr (fullAddr a)) (vOut (regsOf w d))
  | .gst _ _ d w a => both (addr (fullAddr a)) (vIn (regsOf w d))
  | .gatom _ _ d w a _ => both (addr (fullAddr a)) (both (vIn (regsOf w d)) (vOut (regsOf w d)))
  | .gred _ _ d w a _ => both (addr (fullAddr a)) (vIn (regsOf w d))
  | .gcas _ _ d w a => both (addr (fullAddr a)) (both (vIn (regsOf w.doubled d)) (vOut (regsOf w d)))
  | .gldc _ d w a le xn => both (addr a) (both (vOut (regsOf w d)) (latch le xn))
  | .sldc _ d _ sb _ => both (sIn [sb]) (sOut d)
  | .sgld _ _ d _ sb _ => both (sIn [sb]) (sOut d)
  | .sgst _ _ d _ sb _ => sIn [sb, d]
  | .fence _ _ _ _ => none
  | .l1inv => none
  | .wcfl _ => none
  | .pref _ a => addr a
  | .hint _ d sb sh _ => sIn [sb, d, sh]
  | .phase _ => none
  | .signal _ _ d sb _ _ => sIn [sb, d]
  | .sack sb _ => sIn [sb]
  | .quiet _ d => sOut d
  | .sarm _ sb _ => sIn [sb]
  | .sarmOff sb _ => sIn [sb]
  | .launch _ d sb _ => both (sIn [sb, d]) (sOut d)
  | .pgfetch _ _ d sb _ => both (sIn [sb]) (sOut d)
  | .xinv _ d sb _ => sIn [sb, d]
  | .enop => none
  | .cpygl _ _ sa sd sg sx => sIn (sa :: sd :: sg :: pitches zf sg sx)
  | .cpylg _ _ sa sd sg sx => sIn (sa :: sd :: sg :: pitches zf sg sx)
  | .cpyll _ sa sd sg sx => sIn (sa :: sd :: sg :: pitches zf sg sx)
  | .cpygg _ _ sa sd sg sx _ => sIn (sa :: sd :: sg :: pitches zf sg sx)
  | .cpyfil _ sd sg _ _ g => sIn (sd :: sg :: g.elim [] fun q => pitches zf sg q.sx)
  | .cpyp _ sa sg _ => sIn [sa, sg]
  | .tld _ _ base pit _ => sIn [base, pit]
  | .tst _ _ base pit _ => sIn [base, pit]
  | .talloc _ sdesc sst => both (sIn [sdesc]) (sOut sst)
  | .tfree _ => none
  | .thand _ st => sIn [st]
  | .ttake _ se sst => both (sIn [se]) (sOut sst)
  | .tdesc _ sd => sOut sd
  | .tsetd _ sdesc => sIn [sdesc]
  | .mzero _ _ => none
  | .mhfa _ _ _ _ _ _ _ => none
  | .mbmm _ _ _ _ _ _ => none
  | .msca _ _ _ => none
  | .mhad _ _ _ => none
  | .mdrn _ _ _ _ => none
  | .mcvt _ _ _ _ => none
  | .madd _ _ _ _ => none
  | .mscl _ _ _ _ => none
  | .msetd _ sa => sIn [sa]
  | .cnop => none
  | .sadd d a b => both (sIn [a, b]) (sOut d)
  | .ssub d a b => both (sIn [a, b]) (sOut d)
  | .smul d a b => both (sIn [a, b]) (sOut d)
  | .smulh d a b _ => both (sIn [a, b]) (sOut d)
  | .sdiv d a b _ => both (sIn [a, b]) (sOut d)
  | .srem d a b _ => both (sIn [a, b]) (sOut d)
  | .sand d a b => both (sIn [a, b]) (sOut d)
  | .sor d a b => both (sIn [a, b]) (sOut d)
  | .sxor d a b => both (sIn [a, b]) (sOut d)
  | .sandn d a b => both (sIn [a, b]) (sOut d)
  | .sshl d a b => both (sIn [a, b]) (sOut d)
  | .sshr d a b => both (sIn [a, b]) (sOut d)
  | .ssra d a b => both (sIn [a, b]) (sOut d)
  | .smin d a b _ => both (sIn [a, b]) (sOut d)
  | .smax d a b _ => both (sIn [a, b]) (sOut d)
  | .scmp _ d a b => both (sIn [a, b]) (sOut d)
  | .ssel d a b c => both (sIn [a, b, c]) (sOut d)
  | .spopc d a => both (sIn [a]) (sOut d)
  | .sclz d a => both (sIn [a]) (sOut d)
  | .sctz d a => both (sIn [a]) (sOut d)
  | .sbfx d a b _ => both (sIn [a, b]) (sOut d)
  | .sbfi d a b c => both (sIn [a, b, c]) (sOut d)
  | .saddi d a _ => both (sIn [a]) (sOut d)
  | .sandi d a _ => both (sIn [a]) (sOut d)
  | .sori d a _ => both (sIn [a]) (sOut d)
  | .sxori d a _ => both (sIn [a]) (sOut d)
  | .sli d _ => sOut d
  | .slih d a _ => both (sIn [a]) (sOut d)
  | .sshli d a _ => both (sIn [a]) (sOut d)
  | .sshri d a _ _ => both (sIn [a]) (sOut d)
  | .sget d _ => sOut d
  | .sset _ a => sIn [a]
  | .emset a => sIn [a]
  | .emand d a => both (sIn [a]) (sOut d)
  | .emget d => sOut d
  | .exit m => sIn m.toList
  | .br _ => none
  | .bc _ cr _ => sIn [cr]
  | .bzm _ => none
  | .jr a _ => sIn [a]
  | .call d _ => sOut d
  | .callr d a _ => both (sIn [a]) (sOut d)
  | .ret a => sIn [a]
  | .lpad _ => none
  | .loop _ cr _ => sIn [cr]
  | .loopi _ _ _ => none
  | .loopx _ => none
  | .waitf _ => none
  | .yield => none
  | .bjoin a _ => sIn [a]
  | .bleave a _ => sIn [a]
  | .barv a _ => sIn [a]
  | .bwait a _ => sIn [a]
  | .bsync a _ => sIn [a]
  | .sent => none
  | .sentClose => none
  | .step a => sIn [a]
  | .trap _ => none
  | .rft => none
  | .tfrd d a _ => both (sIn [a]) (sOut d)
  | .tfwr v a _ => sIn [v, a]
  | .brk _ => none
  | .haltw => none
  | .bundleIssue _ | .resultWriteback _ | .asyncResultWrite _ _ | .accessComplete _ _ | .trapDelivery _
  | .sentenceRestart _ | .lockstepDisagreement _ | .warpSwitch _ | .quantumExpiry _ | .holdtmo _ | .waitfWake _
  | .barrierRelease _ _ | .fifoOpResume _ | .phaseDrainEnd _ | .warpResourceRelease _ | .slotClearDone _ _
  | .vtwrCommit _ | .matrixEntryStart _ | .mbmmPassEnd _ _ | .matrixEntryFinish _ _ | .copyComplete _ _
  | .copySuspend _ _ | .cpypFlitArrival _ _ | .signalRecordAppend _ _ | .lineRequest _ _ | .l2Atomic _ _
  | .pinRetryReplay _ | .pinTimeout _ | .l2Writeback _ | .eccWriteback _ | .scrub _ | .heartbeatReceived _
  | .heartbeatMiss _ | .stackFailed _ | .stackRetrainDone _ | .tlbWalkStart _ _ _ | .walkComplete _ _ _
  | .tierPromote _ _ | .migrationComplete _ _ | .migrationNodeFailure _ _ | .wcAgeDrain _ _ | .linkTrain _ _
  | .laneStateChange _ _ | .laneRetire _ | .pathDown _ | .retransmit _ | .remoteRequestArrival _ | .streamResume _
  | .streamAbort _ | .remoteReply _ _ | .drcExpire _ | .waveStart _ | .waveEnd _ _ _ | .qtmoExpiry _ _
  | .participantTimeout _ _ | .nodeFailure _ | .gangPlace _ _ | .launchComplete _ | .watchdogExpiry _
  | .stubRedirect _ _ _ | .powerOn _ | .inputDisconnect _ | .railSample _ _ | .fluxEstimate _ _ _ | .backstop _
  | .caddyExtInterrupt _ | .caddyTimerInterrupt _ | .alertClear _ _ | .throtWrite _ _ _ | .capfluxWrite _ _
  | .pcapWrite _ _ | .powerRegWrite _ _ _ | .otherDatagram _ | .session _ | .ctxnew _ _ _ | .ctxend _ _
  | .map _ _ _ | .unmap _ _ _ _ _ | .write _ _ _ _ | .read _ _ _ _ | .modload _ _ _ | .hostLaunch _ _ _
  | .queueCreate _ _ _ _ _ | .queueBind _ _ _ | .queueEnd _ _ | .queueSet _ _ _ _ _ | .part _ _ | .preempt _ _
  | .resume _ _ _ | .reset _ _ | .qfix _ _ _ | .stackcfg _ _ _ | .window _ _ _ _ _ _ | .telem _ _ | .attest _ _
  | .power _ _ _ _ | .fjodyDebug _ _ | .landingPadCheck _ | .inflightReplay _ | .refreshHandBack _
  | .registerParticipantSet _ _ | .softError _ => none

/-- What one slot of a bundle does. -/
structure SlotPorts where
  sl : Slot
  p  : Ports
  deriving DecidableEq, Repr

/-- The slots for which a test holds, as SLOTS shows them. -/
def slotsWhere (l : List SlotPorts) (f : Ports → Bool) : Nat := l.foldl (fun a q => if f q.p then a ||| slotMask q.sl else a) 0

/-- The distinct registers that the slots name. -/
def distinct (l : List SlotPorts) (f : Ports → List Nat) : List Nat := (l.flatMap fun q => f q.p).dedup

/-- A bank that is over its two reads (02 Table 2.4, reason 1). -/
def overBank (l : List SlotPorts) (b : Nat) : Bool := decide (2 < ((distinct l Ports.vr).filter fun r => r % 4 == b).length)

/-- A destination that two slots name (reason 4). -/
def shared (l : List SlotPorts) (f : Ports → List Nat) (r : Nat) : Bool :=
  decide (1 < (l.filter fun q => (f q.p).contains r).length)

/-- The violated limits of a bundle, each with the slots that take part (02 Table 2.4). -/
def portFaults (l : List SlotPorts) : List (Nat × Nat) :=
  ((List.range 4).filter (overBank l)).map (fun b => (1, slotsWhere l fun p => p.vr.any fun r => r % 4 == b)) ++
  (if 6 < (distinct l Ports.sr).length then [(2, slotsWhere l fun p => p.sr != [])] else []) ++
  (if 3 < (distinct l Ports.sw).length then [(3, slotsWhere l fun p => p.sw != [])] else []) ++
  [Ports.vw, Ports.sw, Ports.xw].flatMap fun f =>
    ((distinct l f).filter (shared l f)).map fun r => (4, slotsWhere l fun p => (f p).contains r)

/-- ILLBUN (02 R51): the lowest reason, and every slot of any violated limit. -/
def illbun (pc : Word) (l : List SlotPorts) : List Cause :=
  match portFaults l with
  | [] => []
  | f :: fs =>
    [{ syncCause pc 1 (fs.foldl (fun a q => min a q.1) f.1) with slots := (f :: fs).foldl (fun a q => a ||| q.2) 0 }]

/-- A vector register at or above the warp's declared count (ILLOP detail 6, 02 R44). -/
def overRegs (nregs : Nat) (p : Ports) : Bool := (p.vr ++ p.vw).any fun r => decide (nregs ≤ r)

end Sys2Proof.Machine
end

