-- ==== Sys2Proof/Machine/Mem.lean ====
section
/-! DEFINITION. Main memory behind the L2 (spec 03 R72 to R80, 05 R103 to R105): reading and writing
bytes, sectors, write-back, poison; integer and float atomics. -/

namespace Sys2Proof.Machine
open Sys2Proof.Num

/-- The memory list of the package: an unlisted byte reads Config.freshByte. -/
abbrev Memory := Tbl Byte

/-- The canonical form of memory: addresses strictly rising, no byte equal to what an unlisted one reads as. -/
def Memory.wf (m : Memory) : Bool := tok Config.freshByte m

/-- A byte of main memory as the stacks hold it. -/
def MemSt.raw (m : MemSt) (pa : Nat) : Byte := tget Config.freshByte m.bytes pa

/-- The L2's sector of a granule. -/
def MemSt.sector (m : MemSt) (g : Nat) : Sector := tget Sector.absent m.l2 g

/-- A byte as every agent of the package sees it (03 R72): the L2's where it is valid there. -/
def MemSt.byte (m : MemSt) (pa : Nat) : Byte := (tget none (m.sector (pa / 32)).bytes (pa % 32)).getD (m.raw pa)

/-- n bytes as every agent sees them. -/
def MemSt.read (m : MemSt) (pa n : Nat) : List Byte := (List.range n).map fun i => m.byte (pa + i)

/-! ## Slices, pseudo-channels, stacks (03 R69, R72; 05 R102) -/

/-- The exclusive or of the 16-bit chunks of a 45-bit number. -/
def chunks45 (x : Nat) : Nat := Nat.xor (Nat.xor (x % 65536) (x / 65536 % 65536)) (x / 2 ^ 32 % 8192)

/-- A 45-bit number's bits reversed. -/
def bitrev45 (x : Nat) : Nat := (List.range 45).foldl (fun a i => a + x / 2 ^ i % 2 * 2 ^ (44 - i)) 0

/-- The core groups of the partition that owns a line, ascending; where there is no partition, all of them. -/
def MemSt.groupsOf (m : MemSt) (line : Nat) : List Nat :=
  match m.parts with
  | [] => List.range 64
  | [p] => p
  | ps => ps.getD (Config.addrOwner (line / 512) % ps.length) []

/-- An index into a list that gives each of some groups n numbers in ascending order: group g owns n · g on. -/
def nthOwned (gs : List Nat) (n k : Nat) : Nat := n * gs.getD (k / n) 0 + k % n

/-- The slice of a line among the package's 1,024: 16 beside each group. -/
def MemSt.sliceOf (m : MemSt) (line : Nat) : Nat :=
  let gs := m.groupsOf line
  nthOwned gs 16 (chunks45 line * (16 * gs.length) / 65536)

/-- The pseudo-channel of a line among the package's 768: 12 for each group, group g's being 12g to 12g + 11
(log 12), 192 for each die, 64 for each stack. -/
def MemSt.channelOf (m : MemSt) (line : Nat) : Nat :=
  let gs := m.groupsOf line
  nthOwned gs 12 (chunks45 (bitrev45 line) * (12 * gs.length) / 65536)

/-- The stack of a pseudo-channel, and the die that owns a stack. -/
def stackOfChannel (ch : Nat) : Nat := ch / 64
def dieOfStack (stack : Nat) : Nat := stack / 3

/-- The stack of a granule: that of its line's channel. -/
def MemSt.stackNo (m : MemSt) (g : Nat) : Nat := stackOfChannel (m.channelOf (g / 4))
def MemSt.stack (m : MemSt) (n : Nat) : Stack := tget Stack.fresh m.stk n
def MemSt.onStack (m : MemSt) (n : Nat) (f : Stack → Stack) : MemSt := { m with stk := tset Stack.fresh m.stk n (f (m.stack n)) }

/-- Would a read of the granule from its stack be uncorrectable or poisoned (03 R73, R75, R80)? -/
def MemSt.bad (m : MemSt) (g : Nat) : Bool :=
  tget false m.poison g || tget 0 m.latent g == 2 || (m.stack (m.stackNo g)).failed

/-- Has the granule an error that its code corrects (03 R73)? -/
def MemSt.correctable (m : MemSt) (g : Nat) : Bool := tget 0 m.latent g == 1 || tget 0 m.latent g == 3

/-- Every byte of the sector is valid in the L2. -/
def Sector.full (x : Sector) : Bool := (List.range 32).all fun i => (tget none x.bytes i).isSome

/-- Is data read from the granule poisoned (05 R104)? -/
def MemSt.poisoned (m : MemSt) (g : Nat) : Bool := (m.sector g).poison || (m.sector g).mark != 0 || (!(m.sector g).full && m.bad g)

/-- A read of the granule's missing bytes into the L2 (05 R103, R104): an uncorrectable error poisons it and is
counted and logged, a corrected one is counted (03 R73). -/
def MemSt.fill (m : MemSt) (g : Nat) : MemSt :=
  let x := m.sector g
  if x.full then m
  else
    let b := m.bad g
    let m1 :=
      if tget 0 m.latent g = 2 then
        { m.onStack (m.stackNo g) (fun k => { k with uncorrected := k.uncorrected + 1, log := k.log ++ [.poisoned g] }) with
          poison := tset false m.poison g true, latent := tset 0 m.latent g 0 }
      else if m.correctable g then
        { m.onStack (m.stackNo g) (fun k => { k with corrected := k.corrected + 1, log := k.log ++ [.corrected g] }) with
          latent := tset 0 m.latent g 3 }
      else m
    { m1 with
      l2 := tset Sector.absent m1.l2 g
        { x with bytes := (List.range 32).map fun i => (i, some (m.byte (32 * g + i))), poison := x.poison || b } }

/-- The granules that n bytes from pa touch. -/
def granules (pa n : Nat) : List Nat := if n = 0 then [] else (List.range ((pa + n - 1) / 32 - pa / 32 + 1)).map fun i => pa / 32 + i

/-- How a byte is written: by a store, by a copy, or by a copy that took it from a poisoned granule (03 R75). -/
inductive How where
  | store | copied | marked
  deriving DecidableEq, Repr

/-- A byte written into the L2's sector and marked dirty (05 R103). A sector whose dirty mask is full is no longer poisoned (05 R104). One
that a copy has marked is, until all its bytes have been written since (03 R75); a store that meets the mark is late (03 R76), as is
another warp's copy. The warp that last dirtied it stays the one recorded where no warp writes. -/
def MemSt.putByte (m : MemSt) (who : Option Writer) (how : How) (pa : Nat) (b : Byte) : MemSt :=
  let x := m.sector (pa / 32)
  let bit := BitVec.ofNat 32 (2 ^ (pa % 32))
  let d := x.dirty ||| bit
  let k := if how = .marked then BitVec.allOnes 32 else x.mark &&& ~~~bit
  { m with
    l2 := tset Sector.absent m.l2 (pa / 32)
      { bytes := tset none x.bytes (pa % 32) (some b), dirty := d, poison := x.poison && d != BitVec.allOnes 32,
        mark := k, late := k != 0 && (x.late || (x.mark != 0 && (how = .store || who != x.writer))), writer := who.or x.writer } }
def MemSt.writeAs (m : MemSt) (who : Option Writer) (how : How) (ws : List (Nat × Byte)) : MemSt :=
  ws.foldl (fun m p => m.putByte who how p.1 p.2) m
def MemSt.write (m : MemSt) (who : Option Writer) (ws : List (Nat × Byte)) : MemSt := m.writeAs who .store ws

/-- A granule's poison mark as it lies in its stack and in the L2 (03 R75, R87). -/
def MemSt.mark (m : MemSt) (g : Nat) : MemSt :=
  { m with
    poison := tset false m.poison g true,
    l2 := if m.sector g = Sector.absent then m.l2 else tset Sector.absent m.l2 g { m.sector g with poison := true } }

/-- Is a write-back of the sector dropped (03 R76, R80): of a failed stack always, else a partial one whose granule is poisoned, there or
in the L2, or unreadable, and one in which a write met a copy's mark that is still there? -/
def MemSt.drops (m : MemSt) (g : Nat) : Bool :=
  let x := m.sector g
  (m.stack (m.stackNo g)).failed || (x.dirty != BitVec.allOnes 32 && (m.bad g || (x.poison && x.mark = 0))) || (x.mark != 0 && x.late)

/-- A dirty sector written back (05 R104, 03 R76): whole, it stores new data and clears poison and latent errors, but a
mark that it carries; in part, it is a read-modify-write, which corrects and counts an error that the code corrects (03 R73), or it is
dropped, counted and logged. The answer says whether it was dropped. -/
def MemSt.writeback (m : MemSt) (g : Nat) : MemSt × Bool :=
  let x := m.sector g
  let ws := (List.range 32).filterMap fun i => if x.dirty.getLsbD i then (tget none x.bytes i).map fun b => (32 * g + i, b) else none
  let failed := (m.stack (m.stackNo g)).failed
  let whole := x.dirty = BitVec.allOnes 32
  let dead := x.mark != 0
  if x.dirty = 0 then (m, false)
  else if m.drops g then
    ({ m.onStack (m.stackNo g) (fun k => { k with uncorrected := k.uncorrected + 1, log := k.log ++ [.drop g x.writer] }) with
        poison := if failed then m.poison else tset false m.poison g true,
        latent := tset 0 m.latent g 0, l2 := tset Sector.absent m.l2 g Sector.absent }, true)
  else
    let m1 := if !whole && m.correctable g then
        m.onStack (m.stackNo g) fun k => { k with corrected := k.corrected + 1, log := k.log ++ [.corrected g] }
      else m
    ({ m1 with
        bytes := tsets Config.freshByte m.bytes ws,
        poison := if whole then tset false m.poison g dead else if dead then tset false m.poison g true else m.poison,
        latent := tset 0 m.latent g 0,
        l2 := tset Sector.absent m.l2 g { x with dirty := 0, mark := 0, late := false, poison := x.poison || dead, writer := none } }, false)

/-- What a write-back left to the writer: PWD and an entry of its launch's record (03 R76, R78). -/
def State.writeback (s : State) (g : Nat) : State :=
  let who := (s.mem.sector g).writer
  let r := s.mem.writeback g
  let s1 := { s with mem := r.1 }
  if r.2 then
    match who with
    | some { dev := none, wid := id, launch := l, .. } =>
      (s1.onWarp id fun w => w.setErr 0).entryOf l { kind := .pwdrop, status := .pwdrop, val := 32 * g }
    | _ => s1
  else s1

/-- A read on behalf of a warp: the sectors filled, poisoned bytes delivered as zero (03 R77), and the granules
that were poisoned. -/
def MemSt.load (m : MemSt) (pa n : Nat) : MemSt × List Byte × List Nat :=
  let gs := granules pa n
  let m1 := gs.foldl MemSt.fill m
  (m1, (List.range n).map fun i => if m1.poisoned ((pa + i) / 32) then 0 else m1.byte (pa + i), gs.filter m1.poisoned)


/-! ## Room in a slice (05 R103) -/

/-- The other lines that lie in the set of a line: of its slice, and of its index there. -/
def MemSt.setmates (m : MemSt) (line : Nat) : List Nat :=
  ((m.l2.map fun p => p.1 / 4).dedup).filter fun k =>
    k != line && m.sliceOf k == m.sliceOf line && Config.l2Set k % 2048 == Config.l2Set line % 2048

/-- A line's sectors written back and dropped. -/
def State.evict (s : State) (line : Nat) : State :=
  (List.range 4).foldl (fun s i => (s.writeback (4 * line + i)).onMem fun m =>
    { m with l2 := tset Sector.absent m.l2 (4 * line + i) Sector.absent }) s

/-- A line that the L2 cannot give up: it is dirty, and lies in a stack that retrains, to which it would be written back (03 R71). -/
def MemSt.kept (m : MemSt) (line : Nat) : Bool :=
  (m.stack (m.stackNo (4 * line))).retraining.isSome && (List.range 4).any fun i => (m.sector (4 * line + i)).dirty != 0

/-- Is a line's set full of such lines, and the line not held? -/
def MemSt.noRoom (m : MemSt) (line : Nat) : Bool :=
  (m.stk.any fun p => p.2.retraining.isSome) && decide (16 ≤ m.l2.length) && !(m.l2.any fun p => p.1 / 4 == line) &&
    decide (16 ≤ (m.setmates line).length) && (m.setmates line).all m.kept

/-- A granule that its stack must deliver while the stack's lanes retrain, or for which the L2 has no room as long as one does (03 R71): its
accesses wait. -/
def MemSt.away (m : MemSt) (g : Nat) : Bool :=
  (!(m.sector g).full && (m.stack (m.stackNo g)).retraining.isSome) || m.noRoom (g / 4)

/-- Room made for a line that the L2 does not hold: a full set of 16 ways gives up a line, which one the manual does not fix. -/
def State.makeRoom (s : State) (line : Nat) : State :=
  if s.mem.l2.length < 16 || (s.mem.l2.any fun p => p.1 / 4 == line) then s
  else
    let l := s.mem.setmates line
    let free := l.filter fun k => !s.mem.kept k
    if l.length < 16 || free = [] then s
    else { (s.evict (free.getD (Config.freeNat s.freeCtr % free.length) 0)) with freeCtr := s.freeCtr + 1 }

/-- Every line of the L2 written back and dropped. -/
def State.evictAll (s : State) : State := ((s.mem.l2.map fun p => p.1 / 4).dedup).foldl State.evict s

/-- Bytes written by what is no warp: Fjody, Caddy, the tier engine, the loader. Each line is given room first. -/
def State.put (s : State) (ws : List (Nat × Byte)) : State :=
  ((ws.map fun p => p.1 / 128).dedup).foldl (fun s k => (s.makeRoom k).onMem fun m => m.write none (ws.filter fun p => p.1 / 128 == k)) s

/-- Poison delivered is counted and logged for its stack (03 Table 3.3), unless the read itself has just found it. -/
def MemSt.logPoison (m0 m : MemSt) (gs : List Nat) : MemSt :=
  (gs.filter fun g => tget 0 m0.latent g != 2).foldl (fun m g =>
    m.onStack (m.stackNo g) fun k => { k with uncorrected := k.uncorrected + 1, log := k.log ++ [.poisoned g] }) m

/-- The errors that a read corrects (03 R73). -/
def MemSt.corrections (m : MemSt) (pa n : Nat) : Nat := ((granules pa n).filter fun g => !(m.sector g).full && m.correctable g).length

/-- The entry of corrected errors (21 Table 21.3a); none for none. -/
def corrEntries (n : Nat) : List Entry := if n = 0 then [] else [{ kind := .corr, status := .ok, val := n }]

/-- Sectors fetched on behalf of the warp numbered id: its launch's record counts the errors corrected (19 R374). -/
def State.fetchFor (s : State) (id pa n : Nat) : State × List Byte × List Nat :=
  let r := s.mem.load pa n
  ((corrEntries (s.mem.corrections pa n)).foldl (fun s e => s.entryFor id e) { s with mem := r.1 }, r.2)

/-- The same where the warp reads all the bytes: poison is delivered. -/
def State.loadFor (s : State) (id pa n : Nat) : State × List Byte × List Nat :=
  let r := s.fetchFor id pa n
  (r.1.onMem fun m => s.mem.logPoison m r.2.2, r.2)

/-- The warp numbered id as the writer of what an operation of the core in focus writes (05 R104). -/
def State.writerOf (s : State) (ctx id : Nat) : Writer := { dev := none, ctx := ctx, core := s.core.no, wid := id, launch := s.itsLaunch id }

/-! ## Atomics (01 R20, R27; 05 R105; 08 R147) -/

/-- An atomic's new value: integers wrap, MINI and MAXI signed; the float operations never flush. -/
def aopVal (op : Aop) (w : Nat) (old x : Nat) : Nat :=
  match op with
  | .add => (old + x) % 2 ^ w
  | .mini => if sval w old ≤ sval w x then old else x
  | .maxi => if sval w x ≤ sval w old then old else x
  | .minn => min old x
  | .maxn => max old x
  | .and => Nat.land old x
  | .or => Nat.lor old x
  | .xor => Nat.xor old x
  | .xchg => x
  | .fadd => (LaneFns.addE .f32 0 false .rne old x).1
  | .fmin => (minMax .f32 0 false old x).1
  | .fmax => (minMax .f32 0 true old x).1

/-- Bytes of an access width (02 Table 2.10). -/
def wBytes : Width → Nat
  | .w8 => 1 | .w16 => 2 | .w32 => 4 | .w64 => 8 | .w128 => 16

end Sys2Proof.Machine
end

