-- ==== Sys2Proof/Machine/Xlate.lean ====
section
/-! DEFINITION. Address translation (spec 04): page-table entries, walks, TLBs, permissions. -/

namespace Sys2Proof.Machine

/-- What a translation gives: a place with its leaf, a fault (XLATE or PERM) with its detail, a wait on a
migrating page (03 R86), a TLB miss that waits for its walk (04 R96, R97), or a main-memory address that does not exist. -/
inductive Xl where
  | ok (p : Place) (leaf : Word)
  | fault (code detail : Nat)
  | migrating
  | miss
  | nowhere (pa : Nat)
  deriving DecidableEq, Repr

/-- log2 of a page's bytes. -/
def pageBits : PageSize → Nat
  | .k64 => 16 | .m2 => 21 | .g1 => 30

/-- The entry index of a level (04 Table 4.1). -/
def levelIndex (level va : Nat) : Nat :=
  match level with
  | 3 => va / 2 ^ 43 % 8192
  | 2 => va / 2 ^ 30 % 8192
  | 1 => va / 2 ^ 21 % 512
  | _ => va / 2 ^ 16 % 32

/-- The page a leaf of a level maps. -/
def levelSize : Nat → PageSize
  | 2 => .g1
  | 1 => .m2
  | _ => .k64

/-- Is a valid entry of a level malformed (04 R92)? -/
def malformed (level e : Nat) : Bool :=
  e / 2 ^ 60 != 0 ||
  (if e / 2 % 2 = 1 then
    level == 3 || e / 2 ^ 8 % 4 == 3 || e / 2 ^ 2 % 2 != 0 || e / 2 ^ 10 % 64 != 0 ||
    (e / 2 ^ 8 % 4 == 0 && e / 2 ^ 52 % 256 != 0) || (e / 2 ^ 7 % 2 == 1 && level != 1) ||
    e / 2 ^ 16 % 2 ^ (pageBits (levelSize level) - 16) != 0
  else
    level == 0 || e / 2 ^ 52 % 256 != 0 || e / 2 ^ 2 % 64 != 0 ||
    (level == 3 && e / 2 ^ 8 % 256 != 0) || (level == 2 && e / 2 ^ 8 % 16 != 0))

/-- An entry read through the L2 (04 R94); of a poisoned or unreadable granule a free value. -/
def MemSt.entry (m : MemSt) (pa : Nat) : Nat :=
  if m.poisoned (pa / 32) then Config.poisonedEntry pa % 2 ^ 64 else leNat (m.read pa 8)

/-- A walk's end: a leaf with its page size, a fault's detail, a table that does not exist; or it has still to be made. -/
inductive Walk where
  | miss
  | leaf (e : Nat) (sz : PageSize)
  | fault (detail : Nat)
  | nowhere (pa : Nat)
  deriving DecidableEq, Repr

/-- The walk from level n − 1 down, its table at base (04 R91, R92). -/
def walk (m : MemSt) (va : Nat) : Nat → Nat → Walk
  | 0, _ => .fault 3
  | level + 1, base =>
    let a := base + 8 * levelIndex level va
    let e := m.entry a
    if Config.memBytes ≤ a then .nowhere a
    else if e % 2 = 0 then .fault 2
    else if malformed level e then .fault 3
    else if e / 2 % 2 = 1 then .leaf e (levelSize level)
    else walk m va level (e / 2 ^ 8 % 2 ^ 44 * 2 ^ 8)

/-- The first address of the page of a size that holds va. -/
def pageOf (sz : PageSize) (va : Nat) : Nat := va / 2 ^ pageBits sz * 2 ^ pageBits sz

/-- The TLB entry that holds va for a context. -/
def hitTlb (l : List TlbEnt) (ctx va : Nat) : Option TlbEnt := l.find? fun t => t.ctx == ctx && t.va == pageOf t.sz va

/-- Where a leaf puts an address (04 R93). -/
def leafPlace (e : Nat) (sz : PageSize) (va : Nat) : Place :=
  let a := e / 2 ^ 16 % 2 ^ 36 * 2 ^ 16 + va % 2 ^ pageBits sz
  match e / 2 ^ 8 % 4 with
  | 1 => .pool (e / 2 ^ 52 % 256) a
  | 2 => .peer (e / 2 ^ 52 % 256) a
  | _ => .main a

/-- A context by identifier. -/
def State.ctxAt (s : State) (ctx : Nat) : Option Ctx := s.xl.ctxs.find? (·.id == ctx)

/-- The walk of an address from its context's root. -/
def State.walkOf (s : State) (ctx va : Nat) : Walk :=
  match s.ctxAt ctx with
  | some { root := some r, .. } => walk s.mem va 4 r
  | _ => .fault 4

/-- The entries that a walk reads, from the table of level n − 1 at base. -/
def walkReads (m : MemSt) (va : Nat) : Nat → Nat → List Nat
  | 0, _ => []
  | level + 1, base =>
    let a := base + 8 * levelIndex level va
    let e := m.entry a
    if Config.memBytes ≤ a then []
    else if e % 2 = 0 || malformed level e || e / 2 % 2 = 1 then [a]
    else a :: walkReads m va level (e / 2 ^ 8 % 2 ^ 44 * 2 ^ 8)

/-- The entries that the walk of an address of a context reads. -/
def State.walkLines (s : State) (ctx va : Nat) : List Nat :=
  match s.ctxAt ctx with
  | some { root := some r, .. } => walkReads s.mem va 4 r
  | _ => []

/-- The reads of a walk through the L2, whose errors are found, counted and logged as those of any read (03 R73). -/
def State.walkRead (s : State) (ctx va : Nat) : State :=
  (s.walkLines ctx va).foldl (fun s a => (s.makeRoom (a / 128)).onMem fun m => m.fill (a / 32)) s

/-- Does a walk wait: is a line that it reads pinned (05 R106), or in a stack that retrains (03 R71)? -/
def State.walkWaits (s : State) (ctx va : Nat) : Bool :=
  ((s.allCores.any fun c => c.pins != []) || s.mem.stk.any fun p => p.2.retraining.isSome) &&
  (s.walkLines ctx va).any fun a => s.mem.away (a / 32) || s.allCores.any fun c => c.pins.any fun p => p.line == a / 128

/-- What a walk that has still to be made gives: a context without a page table has none to make. -/
def State.toWalk (s : State) (ctx : Nat) : Walk :=
  match s.ctxAt ctx with
  | some { root := some _, .. } => .miss
  | _ => .fault 4

/-- The leaf of an address for a lane or a fetch (04 R89, R95, R97): the core TLB's; where the walk for the held bundle has faulted, what
it found. -/
def State.lookup (s : State) (ctx va : Nat) : Walk :=
  match hitTlb s.core.tlb ctx va with
  | some t => .leaf t.leaf.toNat t.sz
  | none => if s.core.walked.contains (ctx, pageOf .k64 va) then s.walkOf ctx va else s.toWalk ctx

/-- The same for a copy of a core (04 R95): the die TLB's. -/
def State.lookupCopy (s : State) (core ctx va : Nat) (walked : List Nat) : Walk :=
  match hitTlb (tget [] s.xl.dtlb (core / 256)) ctx va with
  | some t => .leaf t.leaf.toNat t.sz
  | none => if walked.contains (pageOf .k64 va) then s.walkOf ctx va else s.toWalk ctx

/-- Is the 2 MiB page of an address migrating (03 R86)? -/
def State.isMigrating (s : State) (ctx va : Nat) : Bool := s.xl.migr.any fun g => g.ctx == ctx && g.va == pageOf .m2 va

/-- A permission set: R, W, A, X. -/
abbrev Need := List Nat

/-- Permission detail d is bit 3, 4, 5 or 6 of the leaf (04 Tables 4.2, 4.3). -/
def missing (e : Nat) (need : Need) : Option Nat := need.find? fun d => e / 2 ^ (d + 2) % 2 == 0

/-- A translation with its permission check (04 R97, R98), once its leaf has been looked up. -/
def State.xlateBy (s : State) (w : Walk) (ctx va : Nat) (need : Need) : Xl :=
  if 2 ^ 56 ≤ va then .fault 6 1
  else if s.isMigrating ctx va then .migrating
  else
    match w with
    | .miss => .miss
    | .fault d => .fault 6 d
    | .nowhere a => .nowhere a
    | .leaf e sz =>
      match missing e need with
      | some d => .fault 7 d
      | none =>
        match leafPlace e sz va with
        | .main pa => if Config.memBytes ≤ pa then .nowhere pa else .ok (.main pa) (BitVec.ofNat 64 e)
        | p => .ok p (BitVec.ofNat 64 e)

/-- A translation through the TLB of the core in focus. -/
def State.xlate (s : State) (ctx va : Nat) (need : Need) : Xl := s.xlateBy (s.lookup ctx va) ctx va need

/-- A translation by a walk, for the fabric and for Fjody; a walk that waits is as a page that migrates. -/
def State.xlateMem (s : State) (ctx va : Nat) (need : Need) : Xl :=
  if s.walkWaits ctx va then .migrating else s.xlateBy (s.walkOf ctx va) ctx va need

/-! ## What may be written now (03 R71; 05 R106) -/

/-- The lines of which one memory differs from another in the L2, and the granules of which they differ in the stacks. -/
def MemSt.linesOff (m n : MemSt) : List Nat := ((m.l2 ++ n.l2).filter fun p => m.sector p.1 != n.sector p.1).map fun p => p.1 / 4
def MemSt.granulesOff (m n : MemSt) : List Nat :=
  ((m.bytes ++ n.bytes).filter fun p => m.raw p.1 != n.raw p.1).map fun p => p.1 / 32

/-- Does what Fjody, Caddy or the tier engine would make of the machine have to wait: does it write a line that is pinned, or into a stack
that retrains? -/
def State.blocked (s t : State) : Bool :=
  ((s.allCores.any fun c => c.pins != []) &&
    (s.mem.linesOff t.mem).any fun k => s.allCores.any fun c => c.pins.any fun p => p.line == k) ||
  ((s.mem.stk.any fun p => p.2.retraining.isSome) &&
    (s.mem.granulesOff t.mem).any fun g => (s.mem.stack (s.mem.stackNo g)).retraining.isSome)

/-- An entry put into a core's TLB of 256 entries; a full one drops the entry filled longest ago: log 48. -/
def CoreSt.putTlb (c : CoreSt) (t : TlbEnt) : CoreSt := { c with tlb := (t :: c.tlb.filter (· != t)).take 256 }

/-- The same of a die's TLB, of 65,536. -/
def XlSt.putDtlb (x : XlSt) (die : Nat) (t : TlbEnt) : XlSt :=
  { x with dtlb := tset [] x.dtlb die ((t :: (tget [] x.dtlb die).filter (· != t)).take 65536) }

/-- The core's and the die's TLB filled with the leaf of an address, where they do not hold it (04 R95, R96): also the die's, where it has
dropped what the core's still holds (log 48). -/
def State.fillTlb (s : State) (ctx va : Nat) : State :=
  match s.lookup ctx va with
  | .leaf e sz =>
    let t : TlbEnt := { ctx := ctx, va := pageOf sz va, sz := sz, leaf := BitVec.ofNat 64 e }
    let d := s.core.no / 256
    let s1 := if (hitTlb s.core.tlb ctx va).isSome then s else s.onCore fun c => c.putTlb t
    if (hitTlb (tget [] s.xl.dtlb d) ctx va).isSome then s1 else s1.onXl fun x => x.putDtlb d t
  | _ => s

/-- The pages that a held bundle reaches and the core TLB does not hold (04 R97): those that the die TLB holds are filled from it, the
others stand as misses, to be walked. -/
def State.missed (s : State) (ctx : Nat) (vas : List Nat) : State :=
  (vas.filter fun va => s.lookup ctx va == .miss).foldl (fun s va =>
    match hitTlb (tget [] s.xl.dtlb (s.core.no / 256)) ctx va with
    | some t => s.onCore fun c => c.putTlb t
    | none => s.onCore fun c => { c with miss := c.miss ++ (if c.miss.contains (ctx, pageOf .k64 va) then [] else [(ctx, pageOf .k64 va)]) })
    (s.onCore fun c => { c with miss := [] })

/-- Every TLB entry of a context that meets [lo, hi) dropped, on the dies that p picks (04 R94; 08 R166). -/
def State.invalidate (s : State) (p : Nat → Bool) (ctx lo hi : Nat) : State :=
  let keep := fun (t : TlbEnt) => t.ctx != ctx || t.va + 2 ^ pageBits t.sz ≤ lo || hi ≤ t.va
  (s.mapCores fun c => if p (c.no / 256) then { c with tlb := c.tlb.filter keep } else c).onXl fun x =>
    { x with dtlb := (List.range 4).foldl (fun t d => if p d then tset [] t d ((tget [] t d).filter keep) else t) x.dtlb }

end Sys2Proof.Machine
end

