-- ==== Sys2Proof/Machine/SlotOp.lean ====
section
/-! DEFINITION. What a slot instruction does when its bundle issues, and the checks that several families share:
privilege, handles, misalignment and translation of lanes, the local space (spec 18 R353; 04 R97 to R99; 06 R111;
10 R196 to R201). -/

namespace Sys2Proof.Machine

/-- A byte range that an M-slot lane touches, as a data comparator sees it (18 R365). -/
structure Touch where
  lane : Nat
  va   : Nat
  n    : Nat
  rd   : Bool
  wr   : Bool
  deriving DecidableEq, Repr

/-- A slot instruction at issue: the causes its checks find (each slot's mask is filled in by the bundle), a
hold, the global addresses that it translates at issue, the lines that it misses in the L1, a main-memory address beyond the package that it would reach, the flag it counts, the bytes its lanes touch, a
read that comes before the bundle changes anything (16 R310), its effect, and the target of a transfer that it takes. -/
structure SlotOp where
  causes : State → List Cause := fun _ => []
  hold   : State → Option Nat := fun _ => none
  reach  : State → List Nat := fun _ => []
  lines  : State → List Nat := fun _ => []
  bad    : State → Option Nat := fun _ => none
  flag   : Option FlagNo := none
  touch  : State → List Touch := fun _ => []
  early  : State → State := id
  effect : State → State := id
  next   : State → Option Word := fun _ => none

/-- An instruction without effect (02 R41). -/
def SlotOp.nop : SlotOp := {}

/-- A synchronous cause of the warp in focus at its next bundle, with frame words 2 and 3. -/
def State.cause (s : State) (code detail : Nat) (w2 w3 : Word) : Cause :=
  { code := code, detail := detail, w0 := s.w.pc, w2 := w2, w3 := w3, slots := 0 }

/-- PRIV when HM is clear (02 R65). -/
def State.privCause (s : State) : List Cause := if s.w.hm then [] else [s.cause 3 0 s.w.pc 0]

/-! ## Handles (10 R196 to R201) -/

/-- The slot a handle is bound to. -/
def Warp.slotOf (w : Warp) (h : Nat) : Option Nat := if tget 0 w.h h = 0 then none else some (tget 0 w.h h - 1)

/-- Has the handle a pending binding (10 R197)? -/
def Warp.binding (w : Warp) (h : Nat) : Bool := w.hpend.any fun p => match p.act with
  | .bind k _ => k == h
  | _ => false

def State.slotAt (s : State) (n : Nat) : TSlot := tget TSlot.free s.core.slots n

/-- A slot is busy from the issue of an engine operation that names it until that finishes with it (10 R199). -/
def State.busy (s : State) (n : Nat) : Bool := s.core.mxq.any fun e => e.names n

/-- HANDLE with a detail for handle h (10 R198). -/
def State.handleCause (s : State) (detail h : Nat) : Cause := s.cause 8 detail (BitVec.ofNat 64 h) 0

/-- HANDLE with detail 1 when h is unbound. -/
def State.needBound (s : State) (h : Nat) : List Cause := if (s.w.slotOf h).isNone then [s.handleCause 1 h] else []

/-- Does the handle's slot have pending engine work? -/
def State.busyHandle (s : State) (h : Nat) : Bool := (s.w.slotOf h).any s.busy

/-! ## Lanes of an access (08 R143, 04 R99) -/

/-- A lane of an access at issue. -/
structure LaneAt where
  lane : Nat
  va   : Word
  deriving DecidableEq, Repr

/-- The EM lanes of an M-slot access with their addresses; under uniform addressing every lane has the one address. -/
def Warp.laneAddrs (w : Warp) (a : LAddr) : List LaneAt := (lanesOf w.em).map fun l => { lane := l, va := w.laneAddr a l }

/-- The cause that lanes raise together (04 R99): the faulting lanes, the address and detail of the lowest. Each lane comes
with its fault, if it has one of this code. -/
def State.laneCause (s : State) (code : Nat) (l : List (LaneAt × Nat)) : List Cause :=
  match l with
  | [] => []
  | (p, d) :: _ => [s.cause code d p.va (maskOf (l.map fun q => q.1.lane))]

/-- Lanes whose address is not a multiple of the access size: ALIGN detail 1. -/
def misaligned (n : Nat) (l : List LaneAt) : List (LaneAt × Nat) := (l.filter fun p => p.va.toNat % n != 0).map fun p => (p, 1)

/-- Bytes of the cohort's local space (06 R111). -/
def Cohort.localBytes (co : Cohort) : Nat := 16384 * co.ns

/-- Lanes that reach beyond the local space: PERM detail 5. -/
def beyond (co : Cohort) (n : Nat) (l : List LaneAt) : List (LaneAt × Nat) :=
  (l.filter fun p => decide (co.localBytes < p.va.toNat + n)).map fun p => (p, 5)

/-- Of a lane's translation, its fault of a given code. -/
def xlFault (code : Nat) (p : LaneAt) (x : Xl) : Option (LaneAt × Nat) :=
  match x with
  | .fault c d => if c = code then some (p, d) else none
  | _ => none

/-- The aligned lanes of an access of n bytes: only they are translated (08 R143). -/
def alignedOf (n : Nat) (l : List LaneAt) : List LaneAt := l.filter fun p => p.va.toNat % n == 0

/-- The causes of a global lane access (08 R143, 04 R99): ALIGN, XLATE, PERM; a misaligned lane is not translated,
and `extra` gives PERM details that the instruction adds. None while a lane's page migrates or its translation is missing, since
faults are decided once every lane is translated (04 R97). -/
def State.globalCauses (s : State) (n : Nat) (need : Need) (extra : Place → Option Nat) (l : List LaneAt) : List Cause :=
  let tr := (alignedOf n l).map fun p => (p, s.xlate s.w.ctx p.va.toNat need)
  if tr.any fun p => p.2 == .migrating || p.2 == .miss then []
  else
    s.laneCause 5 (misaligned n l) ++ s.laneCause 6 (tr.filterMap fun p => xlFault 6 p.1 p.2) ++
    s.laneCause 7 (tr.filterMap fun p => match p.2 with
      | .fault c d => if c = 7 then some (p.1, d) else none
      | .ok pl _ => (extra pl).map fun d => (p.1, d)
      | _ => none)

/-- The hold of a migrating page, or of a TLB miss (03 R86; 04 R97; 17 Table 17.3, code 1). -/
def State.migHold (s : State) (need : Need) (l : List LaneAt) : Option Nat :=
  if l.any fun p => s.xlate s.w.ctx p.va.toNat need == .migrating || s.xlate s.w.ctx p.va.toNat need == .miss then some 1 else none

/-- The addresses that lanes translate. -/
def vasOf (l : List LaneAt) : List Nat := l.map fun p => p.va.toNat

/-- A main-memory address beyond the package that the lanes reach. -/
def State.lanesBad (s : State) (need : Need) (l : List LaneAt) : Option Nat :=
  l.findSome? fun p => match s.xlate s.w.ctx p.va.toNat need with
    | .nowhere pa => some pa
    | _ => none

/-- The TLBs filled by an access that misses (04 R95, R97). -/
def State.fillLanes (s : State) (l : List LaneAt) : State := l.foldl (fun s p => s.fillTlb s.w.ctx p.va.toNat) s

/-- Causes of a local lane access (08 R143). -/
def State.localCauses (s : State) (n : Nat) (l : List LaneAt) : List Cause :=
  s.laneCause 5 (misaligned n l) ++ s.laneCause 7 (beyond s.co n l)

/-- A cause of a warp instruction is that of one lane, with frame word 3 zero (08 R145, R151). -/
def asWarp (l : List Cause) : List Cause := l.map fun c => { c with w3 := 0 }

/-- The one lane of a warp instruction. -/
def oneLane (va : Word) : List LaneAt := [{ lane := 0, va := va }]

/-- What lanes touch. -/
def touches (l : List LaneAt) (n : Nat) (rd wr : Bool) : List Touch :=
  l.map fun p => { lane := p.lane, va := p.va.toNat, n := n, rd := rd, wr := wr }

end Sys2Proof.Machine
end

