-- ==== Sys2Proof/Machine/VecInt.lean ====
section
/-! DEFINITION. The V slot: integer, logic, mask, move and immediate instructions (spec 11). Each definition gives
one instruction's effect; the lane values are those of `LaneFns`. -/

namespace Sys2Proof.Machine
open Sys2Proof.LaneFns

/-! ## Shapes (11 R209, R210) -/

/-- A mask from a test of each lane. -/
def maskBy (p : Nat → Bool) : Mask := BitVec.ofNat 64 ((List.range 64).foldl (fun a l => if p l then a + 2 ^ l else a) 0)

/-- A V instruction that raises no flag: f gives each lane of S its value, and the result has latency L. -/
def vPlain (L : Nat) (d : Dst) (S : Warp → Mask) (f : Warp → Nat → LaneVal) : SlotOp :=
  { effect := fun s => s.vWrite L d (S s.w) (overMask (S s.w) (f s.w)) }

/-- One, two or three operands read as the etype. -/
def vOne (L : Nat) (h : VHead) (f : LaneVal → LaneVal) (a : Opd) : SlotOp :=
  vPlain L h.d (·.lanesS h.nm) fun w l => f (w.opd h.et a l)
def vTwo (L : Nat) (h : VHead) (tb : Etype) (f : LaneVal → LaneVal → LaneVal) (a b : Opd) : SlotOp :=
  vPlain L h.d (·.lanesS h.nm) fun w l => f (w.opd h.et a l) (w.opd tb b l)
def vThree (L : Nat) (h : VHead) (tb tc : Etype) (f : LaneVal → LaneVal → LaneVal → LaneVal) (a b c : Opd) : SlotOp :=
  vPlain L h.d (·.lanesS h.nm) fun w l => f (w.opd h.et a l) (w.opd tb b l) (w.opd tc c l)

/-- The immediate form (11 R224): the lanes of EM, operand A without a modifier. -/
def vImmOp (h : VImm) (f : Warp → Nat → LaneVal) : SlotOp := vPlain 2 h.d (·.em) f

/-! ## The instructions -/

/-- VNOP (02 R41). -/
def opVnop : SlotOp := .nop
/-- VADD, VSUB (11 R214). -/
def opVadd (h : VHead) (a b : Opd) (sat : Bool) : SlotOp := vTwo 2 h h.et (vadd h.et sat) a b
def opVsub (h : VHead) (a b : Opd) (sat : Bool) : SlotOp := vTwo 2 h h.et (vsub h.et sat) a b
/-- VMUL, VMULH, VMAD (11 R215). -/
def opVmul (h : VHead) (a b : Opd) (sat : Bool) : SlotOp := vTwo 4 h h.et (vmul h.et sat) a b
def opVmulh (h : VHead) (a b : Opd) : SlotOp := vTwo 4 h h.et (vmulh h.et) a b
def opVmad (h : VHead) (a b c : Opd) (sat : Bool) : SlotOp := vThree 4 h h.et h.et (vmad h.et sat) a b c
/-- VNEG, VABS, VMIN, VMAX, VAVG (11 R214). -/
def opVneg (h : VHead) (a : Opd) (sat : Bool) : SlotOp := vOne 2 h (vneg h.et sat) a
def opVabs (h : VHead) (a : Opd) (sat : Bool) : SlotOp := vOne 2 h (vabs h.et sat) a
def opVmin (h : VHead) (a b : Opd) : SlotOp := vTwo 2 h h.et (vmin h.et) a b
def opVmax (h : VHead) (a b : Opd) : SlotOp := vTwo 2 h h.et (vmax h.et) a b
def opVavg (h : VHead) (a b : Opd) (fl : Bool) : SlotOp := vTwo 2 h h.et (vavg h.et fl) a b
/-- VSAD, VDOT (11 R216): C is N32, I32. -/
def opVsad (h : VHead) (a b c : Opd) (sat : Bool) : SlotOp := vThree 4 h h.et .n32 (vsad h.et sat) a b c
def opVdot (h : VHead) (a b c : Opd) (sat : Bool) : SlotOp := vThree 4 h h.et .i32 (vdot h.et sat) a b c
/-- The shifts (11 R217). -/
def opVshl (h : VHead) (a b : Opd) (sat : Bool) : SlotOp := vTwo 2 h h.et (vshl h.et sat) a b
def opVshr (h : VHead) (a b : Opd) : SlotOp := vTwo 2 h h.et (vshr h.et) a b
def opVsra (h : VHead) (a b : Opd) : SlotOp := vTwo 2 h h.et (vsra h.et) a b
def opVrot (h : VHead) (a b : Opd) : SlotOp := vTwo 2 h h.et (vrot h.et) a b
/-- Logic and bit counts (11 R218). -/
def opVand (h : VHead) (a b : Opd) : SlotOp := vTwo 2 h h.et vand a b
def opVor (h : VHead) (a b : Opd) : SlotOp := vTwo 2 h h.et vor a b
def opVxor (h : VHead) (a b : Opd) : SlotOp := vTwo 2 h h.et vxor a b
def opVandn (h : VHead) (a b : Opd) : SlotOp := vTwo 2 h h.et vandn a b
def opVnot (h : VHead) (a : Opd) : SlotOp := vOne 2 h vnot a
def opVclz (h : VHead) (a : Opd) : SlotOp := vOne 2 h (vclz h.et) a
def opVpopc (h : VHead) (a : Opd) : SlotOp := vOne 2 h (vpopc h.et) a
def opVbrev (h : VHead) (a : Opd) : SlotOp := vOne 2 h (vbrev h.et) a
/-- VBFX, VBFI (11 R219): B is N32. -/
def opVbfx (h : VHead) (a b : Opd) : SlotOp := vTwo 2 h .n32 (vbfx h.et) a b
def opVbfi (h : VHead) (a b c : Opd) : SlotOp := vThree 2 h .n32 h.et vbfi a b c

/-- VCMP (11 R220): bit l of s[vd] is set where lane l is in S and the condition holds, at latency 3. -/
def opVcmp (h : VHead) (a b : Opd) (cc : Cmp) : SlotOp :=
  { effect := fun s => s.vScalar 3 h.d
      (maskBy fun l => (s.w.lanesS h.nm).getLsbD l && cmp 32 cc (s.w.opd h.et a l).toNat (s.w.opd h.et b l).toNat) }

/-- All 64 bits of the scalar that VSEL's opc names (11 R221). -/
def Warp.selMask (w : Warp) (c : Opd) : Word :=
  match c.sel with
  | .s r => w.rdS r.val
  | _ => 0

/-- VSEL (11 R221). -/
def opVsel (h : VHead) (a b c : Opd) : SlotOp :=
  vPlain 2 h.d (·.lanesS h.nm) fun w l => if (w.selMask c).getLsbD l then w.opd h.et a l else w.opd h.et b l

/-- VMOV, VPRM (11 R222). -/
def opVmov (h : VHead) (a : Opd) : SlotOp := vOne 2 h id a
def opVprm (h : VHead) (a b c : Opd) : SlotOp := vThree 2 h h.et h.et vprm a b c

/-- VLANE (11 R223). -/
def opVlane (h : VHead) (m : LaneMode) : SlotOp :=
  vPlain 2 h.d (·.lanesS h.nm) fun w l => match m with
    | .lane => BitVec.ofNat 32 l
    | .sub => BitVec.ofNat 32 (l % w.sgw)
    | .grp => BitVec.ofNat 32 (l / w.sgw)

/-- The immediates (11 R224). -/
def opVaddi (h : VImm) (a : Sel) (imm : BitVec 32) : SlotOp := vImmOp h fun w l => vadd h.et false (w.sel h.et a l) imm
def opVandi (h : VImm) (a : Sel) (imm : BitVec 32) : SlotOp := vImmOp h fun w l => vand (w.sel h.et a l) imm
def opVori (h : VImm) (a : Sel) (imm : BitVec 32) : SlotOp := vImmOp h fun w l => vor (w.sel h.et a l) imm
def opVxori (h : VImm) (a : Sel) (imm : BitVec 32) : SlotOp := vImmOp h fun w l => vxor (w.sel h.et a l) imm
def opVimm (h : VImm) (imm : BitVec 32) : SlotOp := vImmOp h fun _ _ => imm

end Sys2Proof.Machine
end

