-- ==== Sys2Proof/Machine/VecFloat.lean ====
section
/-! DEFINITION. The V slot: floating point, conversions, block conversions and special functions (spec 12 R225
to R237). The numerical behaviour is that of `LaneFns`. FPSTAT's flags are raised at the bundle's issue: assumption
log 14. -/

namespace Sys2Proof.Machine
open Sys2Proof.LaneFns
open Sys2Proof.Num

/-- An arithmetic V instruction: f gives each lane of S its value and the flags it raises (01 R26). -/
def vFlagged (L : Nat) (d : Dst) (S : Warp → Mask) (f : Warp → Nat → LaneVal × Nat) : SlotOp :=
  { effect := fun s =>
      let r := (List.range 64).map fun l => if (S s.w).getLsbD l then f s.w l else (0, 0)
      (s.vWrite L d (S s.w) (r.map Prod.fst)).raise (orLanes r) }

/-- One, two or three operands, FPCTL given to the lane function. -/
def fOne (L : Nat) (h : VHead) (ta : Etype) (f : Nat → LaneVal → LaneVal × Nat) (a : Opd) : SlotOp :=
  vFlagged L h.d (·.lanesS h.nm) fun w l => f w.ctl (w.opd ta a l)
def fTwo (L : Nat) (h : VHead) (ta tb : Etype) (f : Nat → LaneVal → LaneVal → LaneVal × Nat) (a b : Opd) : SlotOp :=
  vFlagged L h.d (·.lanesS h.nm) fun w l => f w.ctl (w.opd ta a l) (w.opd tb b l)
def fThree (h : VHead) (tc : Etype) (f : Nat → LaneVal → LaneVal → LaneVal → LaneVal × Nat) (a b c : Opd) : SlotOp :=
  vFlagged 4 h.d (·.lanesS h.nm) fun w l => f w.ctl (w.opd h.et a l) (w.opd h.et b l) (w.opd tc c l)

/-- Float arithmetic (12 R227, R228, R229). -/
def opVfadd (h : VHead) (a b : Opd) (sat : Bool) (r : Rnd) : SlotOp := fTwo 4 h h.et h.et (fun c => vfadd h.et c sat r) a b
def opVfsub (h : VHead) (a b : Opd) (sat : Bool) (r : Rnd) : SlotOp := fTwo 4 h h.et h.et (fun c => vfsub h.et c sat r) a b
def opVfmul (h : VHead) (a b : Opd) (sat : Bool) (r : Rnd) : SlotOp := fTwo 4 h h.et h.et (fun c => vfmul h.et c sat r) a b
def opVfma (h : VHead) (a b c : Opd) (sat : Bool) (r : Rnd) : SlotOp := fThree h h.et (fun k => vfma h.et k sat r false) a b c
def opVfnma (h : VHead) (a b c : Opd) (sat : Bool) (r : Rnd) : SlotOp := fThree h h.et (fun k => vfma h.et k sat r true) a b c
def opVfmin (h : VHead) (a b : Opd) : SlotOp := fTwo 4 h h.et h.et (fun c => vfminmax h.et c false) a b
def opVfmax (h : VHead) (a b : Opd) : SlotOp := fTwo 4 h h.et h.et (fun c => vfminmax h.et c true) a b
def opVfscl (h : VHead) (a b : Opd) (sat : Bool) (r : Rnd) : SlotOp :=
  fTwo 4 h h.et h.et.countType (fun c => vfscl h.et c sat r) a b
def opVfdot2 (h : VHead) (a b c : Opd) (sat : Bool) (r : Rnd) : SlotOp := fThree h .f32 (fun k => vfdot2 h.et k sat r) a b c
def opVfrnd (h : VHead) (a : Opd) (r : Rnd) : SlotOp := fOne 4 h h.et (fun c => vfrnd h.et c r) a

/-- VFCMP (12 R230): a mask in s[vd] at latency 3, with the flags of the lanes of S. -/
def opVfcmp (h : VHead) (a b : Opd) (cc : FCmp) : SlotOp :=
  { effect := fun s =>
      let r := fun l => vfcmp h.et s.w.ctl cc (s.w.opd h.et a l) (s.w.opd h.et b l)
      let S := s.w.lanesS h.nm
      (s.vScalar 3 h.d (maskBy fun l => S.getLsbD l && (r l).1)).raise ((lanesOf S).foldl (fun f l => f ||| (r l).2) 0) }

/-- VFCLASS, VFKEY (12 R231). -/
def opVfclass (h : VHead) (a : Opd) : SlotOp := vOne 3 h (vfclass h.et) a
def opVfkey (h : VHead) (a : Opd) : SlotOp := vOne 2 h (vfkey h.et) a

/-- Conversions (12 R232, R233): the operands are read as the source etype. -/
def opVcvt (h : VHead) (a : Opd) (src : Etype) (sat : Bool) (r : Rnd) : SlotOp := fOne 4 h src (fun c => vcvt src h.et c sat r) a
def opVpack (h : VHead) (a b : Opd) (src : Etype) (sat : Bool) (r : Rnd) : SlotOp :=
  fTwo 4 h src src (fun c => vpack src h.et c sat r) a b
def opVunpk (h : VHead) (a : Opd) (src : Etype) : SlotOp := fOne 4 h src (fun c => vunpk src h.et c) a

/-- Lanes of a block group (12 R234). -/
def groupLanes (et : Etype) : Nat := 16 / et.count

/-- The elements of lane l's block group: lanes outside S take part as +0 (12 R235). -/
def Warp.block (w : Warp) (et : Etype) (S : Mask) (a : Opd) (l : Nat) : List FV :=
  (List.range (groupLanes et)).flatMap fun i =>
    let k := l / groupLanes et * groupLanes et + i
    if S.getLsbD k then (elems et (w.opd et a k)).map fun e => (load (fmtOf et) w.ctl e).1
    else List.replicate et.count (.num false 0 0)

/-- A lane's own elements, with the flags of their operand flush. -/
def laneElems (et : Etype) (ctl : Nat) (x : LaneVal) : List (FV × Nat) := (elems et x).map fun e => load (fmtOf et) ctl e

/-- The ID flag of a lane's operand flush. -/
def idFlags (l : List (FV × Nat)) : Nat := l.foldl (fun a p => a ||| Nat.land p.2 ID) 0

/-- VBEXP (12 R235): E in every lane of S; no flag but ID. -/
def opVbexp (h : VHead) (a : Opd) : SlotOp :=
  vFlagged 6 h.d (·.lanesS h.nm) fun w l =>
    (BitVec.ofNat 32 (blockExp (w.block h.et (w.lanesS h.nm) a l)), idFlags (laneElems h.et w.ctl (w.opd h.et a l)))

/-- VBQ (12 R235). -/
def opVbq (h : VHead) (a : Opd) : SlotOp :=
  vFlagged 6 h.d (·.lanesS h.nm) fun w l =>
    let es := laneElems h.et w.ctl (w.opd h.et a l)
    let q := vbqLane h.et (blockExp (w.block h.et (w.lanesS h.nm) a l)) (es.map Prod.fst)
    (q.1, q.2 ||| idFlags es)

/-- VBDQ (12 R236): A is N32. -/
def opVbdq (h : VHead) (a : Opd) (sat : Bool) (r : Rnd) : SlotOp := fOne 6 h .n32 (fun c => vbdq h.et c sat r) a

/-- The SFU instructions (12 R237), by opcode. -/
def opVrcp (h : VHead) (a : Opd) (sat : Bool) : SlotOp := fOne 12 h h.et (fun c => vsfu h.et 0x50 c sat) a
def opVrsq (h : VHead) (a : Opd) (sat : Bool) : SlotOp := fOne 12 h h.et (fun c => vsfu h.et 0x51 c sat) a
def opVsqrt (h : VHead) (a : Opd) (sat : Bool) : SlotOp := fOne 12 h h.et (fun c => vsfu h.et 0x52 c sat) a
def opVexp2 (h : VHead) (a : Opd) (sat : Bool) : SlotOp := fOne 12 h h.et (fun c => vsfu h.et 0x53 c sat) a
def opVlog2 (h : VHead) (a : Opd) (sat : Bool) : SlotOp := fOne 12 h h.et (fun c => vsfu h.et 0x54 c sat) a
def opVsinp (h : VHead) (a : Opd) (sat : Bool) : SlotOp := fOne 12 h h.et (fun c => vsfu h.et 0x55 c sat) a
def opVcosp (h : VHead) (a : Opd) (sat : Bool) : SlotOp := fOne 12 h h.et (fun c => vsfu h.et 0x56 c sat) a
def opVtanh (h : VHead) (a : Opd) (sat : Bool) : SlotOp := fOne 12 h h.et (fun c => vsfu h.et 0x57 c sat) a

end Sys2Proof.Machine
end

