-- ==== Sys2Proof/Machine/VecCross.lean ====
section
/-! DEFINITION. The V slot: cross-lane instructions and tile access (spec 12 R238 to R243; 10 R201). -/

namespace Sys2Proof.Machine
open Sys2Proof.LaneFns

/-- The first lane of lane l's sub-group. -/
def Warp.base (w : Warp) (l : Nat) : Nat := l - l % w.sgw

/-- The lane whose A lane l takes (12 R238): its own where no source is defined, or where the source lies outside the sub-group or AM. -/
def Warp.srcLane (w : Warp) (l : Nat) (src : Option Nat) : Nat :=
  match src with
  | some s => if w.base s = w.base l && s < 64 && w.am.getLsbD s then s else l
  | none => l

/-- That lane's modified A. -/
def Warp.fromLane (w : Warp) (et : Etype) (a : Opd) (l : Nat) (src : Option Nat) : LaneVal := w.opd et a (w.srcLane l src)

/-- base(l) + idx when idx is below the sub-group width. -/
def Warp.inGroup (w : Warp) (l idx : Nat) : Option Nat := if idx < w.sgw then some (w.base l + idx) else none

/-- VSHFL (12 R238). -/
def opVshfl (h : VHead) (a b : Opd) : SlotOp :=
  vPlain 4 h.d (·.lanesS h.nm) fun w l => w.fromLane h.et a l (w.inGroup l (w.opd .n32 b l).toNat)

/-- The source lane of VSHFLR (12 Table 12.7). -/
def Warp.shflSrc (w : Warp) (m : ShflMode) (l d : Nat) : Option Nat :=
  if d = 0 then none
  else
    match m with
    | .up => if w.base l + d ≤ l then some (l - d) else none
    | .dn => if l + d < w.base l + w.sgw then some (l + d) else none
    | .xor => if d < w.sgw then some (Nat.xor l d) else none
    | .rot => some (w.base l + (l - w.base l + d) % w.sgw)

/-- VSHFLR (12 R238). -/
def opVshflr (h : VHead) (a b : Opd) (m : ShflMode) : SlotOp :=
  vPlain 4 h.d (·.lanesS h.nm) fun w l => w.fromLane h.et a l (w.shflSrc m l (w.sgw / 2 ^ ((w.opd .n32 b l).toNat % 8)))

/-- VBCST (12 R238): the index is the scalar or the constant. -/
def opVbcst (h : VHead) (a b : Opd) : SlotOp :=
  vPlain 4 h.d (·.lanesS h.nm) fun w l => w.fromLane h.et a l (w.inGroup l (w.opd .n32 b l).toNat)

/-- The lanes of a sub-group, by its first lane. -/
def Warp.groupOf (w : Warp) (base : Nat) : List Nat := (List.range w.sgw).map fun i => base + i

/-- The first lanes of the sub-groups. -/
def Warp.bases (w : Warp) : List Nat := (List.range 64).filter fun l => l % w.sgw == 0

/-- A value for each lane from its sub-group's result: f gives the lanes it writes with their values, and flags. -/
def byGroup (w : Warp) (f : Nat → List (Nat × LaneVal) × Nat) : Lanes × Nat :=
  let rs := w.bases.map f
  let all := rs.flatMap Prod.fst
  (mkLanes fun l => ((all.find? fun p => p.1 == l).map Prod.snd).getD 0, rs.foldl (fun a r => a ||| r.2) 0)

/-- VSCAN in one sub-group (12 R239). -/
def Warp.scanGroup (w : Warp) (h : VHead) (a : Opd) (sat : Bool) (r : Rnd) (op : RedOp) (ex : Bool) (base : Nat) :
    List (Nat × LaneVal) × Nat :=
  let ls := (w.groupOf base).filter fun l => (w.lanesS h.nm).getLsbD l
  let u := scanLoop (redStep h.et op w.ctl sat r) 7 1 (ls.map fun l => w.opd h.et a l)
  (ls.zip (if ex then redIdent h.et op :: u.1 else u.1), u.2)

/-- VSCAN (12 R239). -/
def opVscan (h : VHead) (a : Opd) (sat : Bool) (r : Rnd) (op : RedOp) (ex : Bool) : SlotOp :=
  { effect := fun s =>
      let g := byGroup s.w (s.w.scanGroup h a sat r op ex)
      (s.vWrite 8 h.d (s.w.lanesS h.nm) g.1).raise g.2 }

/-- VRED in one sub-group: every lane of S receives the tree's value (12 R239). -/
def Warp.redGroup (w : Warp) (h : VHead) (a : Opd) (sat : Bool) (r : Rnd) (op : RedOp) (base : Nat) : List (Nat × LaneVal) × Nat :=
  let S := w.lanesS h.nm
  let t := redLoop (redStep h.et op w.ctl sat r) 6 ((w.groupOf base).map fun l => if S.getLsbD l then some (w.opd h.et a l) else none)
  (((w.groupOf base).filter fun l => S.getLsbD l).map fun l => (l, t.1.getD 0), t.2)

/-- VRED (12 R239). -/
def opVred (h : VHead) (a : Opd) (sat : Bool) (r : Rnd) (op : RedOp) : SlotOp :=
  { effect := fun s =>
      let g := byGroup s.w (s.w.redGroup h a sat r op)
      (s.vWrite 8 h.d (s.w.lanesS h.nm) g.1).raise g.2 }

/-- VCOMP (12 R240): every lane of every sub-group is written. -/
def opVcomp (h : VHead) (a : Opd) : SlotOp :=
  { effect := fun s =>
      let w := s.w
      let g := byGroup w fun base =>
        ((w.groupOf base).zip (((w.groupOf base).filter fun l => (w.lanesS h.nm).getLsbD l).map fun l => w.opd h.et a l), 0)
      s.vWrite 8 h.d (BitVec.allOnes 64) g.1 }

/-- The lane that VGET or VINS names, when it is in AM (12 R241). -/
def Warp.oneAm (w : Warp) (b : Opd) : Option Nat :=
  let i := (w.opd .n32 b 0).toNat
  if i < 64 && w.am.getLsbD i then some i else none

/-- VGET (12 R241): sign-extended for I32, zero-extended otherwise. -/
def opVget (h : VHead) (a b : Opd) : SlotOp :=
  { effect := fun s => s.vScalar 4 h.d (match s.w.oneAm b with
      | some i => if h.et.isI then (s.w.opd h.et a i).signExtend 64 else (s.w.opd h.et a i).setWidth 64
      | none => 0) }

/-- Of a cross-lane instruction, its operands A and B and the lanes in which it reads A (12 R238, R241), lanes of AM outside its set among
them; B it reads in the lanes of its set. -/
def Warp.crossLanes (w : Warp) (i : Instr) : Option (Sel × Sel × Mask) :=
  match i with
  | .vshfl h a b => some (a.sel, b.sel, maskOf ((lanesOf (w.lanesS h.nm)).map fun l => w.srcLane l (w.inGroup l (w.opd .n32 b l).toNat)))
  | .vshflr h a b m =>
    some (a.sel, b.sel, maskOf ((lanesOf (w.lanesS h.nm)).map fun l => w.srcLane l (w.shflSrc m l (w.sgw / 2 ^ ((w.opd .n32 b l).toNat % 8)))))
  | .vbcst h a b => some (a.sel, b.sel, maskOf ((lanesOf (w.lanesS h.nm)).map fun l => w.srcLane l (w.inGroup l (w.opd .n32 b l).toNat)))
  | .vget _ a b | .vins _ a b => some (a.sel, b.sel, maskOf (w.oneAm b).toList)
  | _ => none

/-- VINS (12 R241): one lane of v[vd]. -/
def opVins (h : VHead) (a b : Opd) : SlotOp :=
  { effect := fun s => match s.w.oneAm b with
      | some i => s.vWrite 4 h.d (BitVec.ofNat 64 (2 ^ i)) (mkLanes fun _ => s.w.opd h.et a i)
      | none => s }

/-! ## Tile access (12 R242, R243) -/

/-- The word of its slot that a lane addresses. -/
def Warp.tileWord (w : Warp) (b : Opd) (l : Nat) : Nat := ((w.opd .n32 b l).toNat + l) % 1024

/-- A word of a slot. -/
def TSlot.word (t : TSlot) (k : Nat) : LaneVal := BitVec.ofNat 32 (leNat (tgets 0 t.bytes (4 * k) 4))

/-- The hold of a busy handle (10 R201), not with S empty. -/
def State.tileHold (s : State) (h : Nat) (S : Mask) : Option Nat := if S != 0 && s.busyHandle h then some 4 else none

/-- The lanes of a mask whose words hold an uncorrectable error (19 R368). -/
def TSlot.badLanes (t : TSlot) (m : Mask) (f : Nat → Nat) : Mask := if t.bad = [] then 0 else maskOf ((lanesOf m).filter fun l => t.bad.contains (f l))

/-- VTRD (12 R242): latency 6. -/
def opVtrd (h : VHead) (hd : Reg) (b : Opd) : SlotOp :=
  { causes := fun s => s.needBound hd.val,
    hold := fun s => s.tileHold hd.val (s.w.lanesS h.nm),
    effect := fun s => match s.w.slotOf hd.val with
      | some n =>
        let bad := (s.slotAt n).badLanes (s.w.lanesS h.nm) (s.w.tileWord b)
        (s.vWrite 6 h.d (s.w.lanesS h.nm) (overMask (s.w.lanesS h.nm) fun l => (s.slotAt n).word (s.w.tileWord b l))).consumeIf
          s.w.id (bad != 0) bad
      | none => s }

/-- VTWR (12 R242): vd names the handle; the words commit at cycle 4, and of the lanes that write one word the
highest wins. -/
def opVtwr (h : VHead) (a b : Opd) : SlotOp :=
  { causes := fun s => s.needBound h.d.reg.val,
    hold := fun s => s.tileHold h.d.reg.val (s.w.lanesS h.nm),
    effect := fun s => match s.w.slotOf h.d.reg.val with
      | some n =>
        let ws := (lanesOf (s.w.lanesS h.nm)).map fun l => (s.w.tileWord b l, s.w.opd h.et a l)
        if ws = [] then s else s.onCore fun c => { c with vtw := c.vtw ++ [{ due := s.now + 4, slot := n, words := ws }] }
      | none => s }

end Sys2Proof.Machine
end

