-- ==== Sys2Proof/Machine/MemLocal.lean ====
section
/-! DEFINITION. The M slot: the local space, FIFO banks, bank configuration and the L1 (spec 06; 08 R146 to R148,
R150, R153, R157). -/

namespace Sys2Proof.Machine

/-! ## The local space (06 R111, R112, R120) -/

/-- Is a local bank in transition (06 R119)? -/
def Cohort.moving (co : Cohort) (bank : Nat) : Bool := co.drain.any fun d => d.banks.contains bank

/-- A byte of the local space: zero in a bank in transition (06 Table 6.3). -/
def Cohort.byte (co : Cohort) (off : Nat) : Byte := if co.moving (off / 16384) then 0 else tget 0 co.scratch off

/-- n bytes of the local space. -/
def Cohort.readN (co : Cohort) (off n : Nat) : List Byte := (List.range n).map fun i => co.byte (off + i)

/-- The bytes of a write that are not dropped (06 Table 6.3). -/
def Cohort.kept (co : Cohort) (ws : List (Nat × Byte)) : List (Nat × Byte) := ws.filter fun p => !co.moving (p.1 / 16384)

/-- An access that met a bank in transition is counted once (06 R120). -/
def State.countTrans (s : State) (offs : List Nat) : State :=
  if offs.any fun o => s.co.moving (o / 16384) then
    s.onCore fun c => { c with ctr := { c.ctr with bankTrans := c.ctr.bankTrans + 1 } }
  else s

/-- Hold cycles of fixed length (02 R49): no latency counts them. -/
def State.heldFor (s : State) (n : Nat) : State := s.onCore fun c => { c with held := c.held + n }

/-- The words that an access of n bytes touches. -/
def wordsOf (off n : Nat) : List Nat := (List.range ((off + n - 1) / 4 - off / 4 + 1)).map fun i => off / 4 + i

/-- D (06 R112): the most words in one column; lanes that touch one word count it once, but in the atomics. -/
def conflict (each : Bool) (n : Nat) (l : List LaneAt) : Nat :=
  let ws := l.flatMap fun p => wordsOf p.va.toNat n
  let ws := if each then ws else ws.dedup
  (List.range 64).foldl (fun m c => max m (ws.filter fun x => x % 64 == c).length) 0

/-- Do n bytes of the local space meet a word with an uncorrectable error (19 R368)? -/
def Cohort.badAt (co : Cohort) (off n : Nat) : Bool := co.bad != [] && (wordsOf off n).any fun w => co.bad.contains (.scratch w)

/-- The lanes of an access that meet one. -/
def Cohort.badLanes (co : Cohort) (n : Nat) (l : List LaneAt) : List Nat := (l.filter fun p => co.badAt p.va.toNat n).map LaneAt.lane

/-- Such errors are consumed by the warp that reads: word 3 names its lanes, or none of a warp instruction. -/
def State.readBanks (s : State) (warpWide : Bool) (lanes : List Nat) : State :=
  s.consumeIf s.w.id (lanes != []) (if warpWide then 0 else maskOf lanes)

/-- The hold of D − 1 cycles. -/
def State.bankHold (s : State) (each : Bool) (n : Nat) (l : List LaneAt) : State := s.heldFor (conflict each n l - 1)

/-- Lane stores that become visible four cycles on (06 R112). -/
def State.store (s : State) (ws : List (Nat × Byte)) : State :=
  if s.co.kept ws = [] then s
  else s.onCo fun co => { co with stores := co.stores ++ [{ wid := s.w.id, fenced := false, due := s.now + 4, bytes := s.co.kept ws }] }

/-- A datum of width w in each lane of S written to v[d] and the registers after it, at latency L (08 R141). -/
def State.vDatum (s : State) (L : Nat) (d : Nat) (n : Nat) (S : Mask) (f : Nat → Nat) : State :=
  if S = 0 then s
  else (List.range n).foldl (fun s k => s.later L (.v (d + k)) S (overMask S fun l => BitVec.ofNat 32 (f l / 2 ^ (32 * k))) 0) s

/-- Registers of a datum. -/
def regCount : Width → Nat
  | .w64 => 2
  | .w128 => 4
  | _ => 1

/-- A datum of each lane of S to a register group and, where le is set, to a latch. -/
def State.vLoad (s : State) (L : Nat) (d : Reg) (w : Width) (le : Bool) (xn : Fin 8) (S : Mask) (f : Nat → Nat) : State :=
  let s1 := s.vDatum L d.val (regCount w) S f
  if le && S != 0 then s1.later L (.x xn.val) S (overMask S fun l => BitVec.ofNat 32 (f l)) 0 else s1

/-- The bytes of a lane store, lane by lane, so that the highest lane comes last. -/
def storeBytes (n : Nat) (l : List LaneAt) (f : Nat → Nat) : List (Nat × Byte) :=
  l.flatMap fun p => (leBytes n (f p.lane)).zipIdx.map fun q => (p.va.toNat + q.2, q.1)

/-- The offsets of an access. -/
def offsets (l : List LaneAt) : List Nat := l.map fun p => p.va.toNat

/-- LLD (08 R146). -/
def opLld (d : Reg) (w : Width) (a : LAddr) (le : Bool) (xn : Fin 8) : SlotOp :=
  { causes := fun s => s.localCauses (wBytes w) (s.w.laneAddrs a),
    touch := fun s => touches (s.w.laneAddrs a) (wBytes w) true false,
    effect := fun s =>
      let l := s.w.laneAddrs a
      let v := fun i => leNat (s.co.readN (s.w.laneAddr a i).toNat (wBytes w))
      (((s.countTrans (offsets l)).vLoad 6 d w le xn s.w.em v).bankHold false (wBytes w) l).readBanks false (s.co.badLanes (wBytes w) l) }

/-- LST (08 R146). -/
def opLst (d : Reg) (w : Width) (a : LAddr) : SlotOp :=
  { causes := fun s => s.localCauses (wBytes w) (s.w.laneAddrs a),
    touch := fun s => touches (s.w.laneAddrs a) (wBytes w) false true,
    effect := fun s =>
      let l := s.w.laneAddrs a
      ((s.countTrans (offsets l)).store (storeBytes (wBytes w) l (s.w.laneBytes d.val (regCount w)))).bankHold false (wBytes w) l }

/-- LLDS (08 R146): a warp instruction, no hold. -/
def opLlds (d : Reg) (w : Width) (sb : Reg) (imm : BitVec 16) : SlotOp :=
  { causes := fun s => asWarp (s.localCauses (wBytes w) (oneLane (s.w.baseAddr sb imm))),
    touch := fun s => touches (oneLane (s.w.baseAddr sb imm)) (wBytes w) true false,
    effect := fun s =>
      let o := (s.w.baseAddr sb imm).toNat
      ((s.countTrans [o]).sLater 6 d (BitVec.ofNat 64 (leNat (s.co.readN o (wBytes w))))).readBanks true
        (s.co.badLanes (wBytes w) (oneLane (s.w.baseAddr sb imm))) }

/-- LSTS (08 R146). -/
def opLsts (d : Reg) (w : Width) (sb : Reg) (imm : BitVec 16) : SlotOp :=
  { causes := fun s => asWarp (s.localCauses (wBytes w) (oneLane (s.w.baseAddr sb imm))),
    touch := fun s => touches (oneLane (s.w.baseAddr sb imm)) (wBytes w) false true,
    effect := fun s =>
      (s.countTrans [(s.w.baseAddr sb imm).toNat]).store
        (storeBytes (wBytes w) (oneLane (s.w.baseAddr sb imm)) fun _ => (s.w.rdS d.val).toNat) }

/-! ## Local atomics (08 R147) -/

/-- Lanes performed one after another over the bytes m: f gives a lane's new value from the value it finds, or none to
leave it. The answer is what each lane found, and the bytes written. An atomic in a bank in transition, or on a word with an
uncorrectable error (03 R77), is not performed and finds zero. -/
def atomicLanes (co : Cohort) (n : Nat) (f : Nat → Nat → Option Nat) :
    List LaneAt → Tbl Byte → List (Nat × Nat) × List (Nat × Byte)
  | [], _ => ([], [])
  | p :: l, m =>
    let o := p.va.toNat
    if co.moving (o / 16384) || co.badAt o n then
      let r := atomicLanes co n f l m
      ((p.lane, 0) :: r.1, r.2)
    else
      let old := leNat (tgets 0 m o n)
      let ws := match f p.lane old with
        | some x => (leBytes n x).zipIdx.map fun q => (o + q.2, q.1)
        | none => []
      let r := atomicLanes co n f l (tsets 0 m ws)
      ((p.lane, old) :: r.1, ws ++ r.2)

/-- What a lane found. -/
def foundAt (l : List (Nat × Nat)) (i : Nat) : Nat := ((l.find? fun p => p.1 == i).map Prod.snd).getD 0

/-- A local atomic at latency 8; its stores are seen four cycles on (07 R132). -/
def State.localAtomic (s : State) (d : Reg) (w : Width) (a : GAddr) (f : Nat → Nat → Option Nat) : State :=
  let l := s.w.laneAddrs (fullAddr a)
  let r := atomicLanes s.co (wBytes w) f l s.co.scratch
  let s1 := ((s.countTrans (offsets l)).store r.2).vDatum 8 d.val (regCount w) s.w.em fun i => foundAt r.1 i
  (s1.bankHold true (wBytes w) l).readBanks false (s.co.badLanes (wBytes w) l)

/-- LATOM (08 R147). -/
def opLatom (d : Reg) (w : Width) (a : GAddr) (op : Aop) : SlotOp :=
  { causes := fun s => s.localCauses (wBytes w) (s.w.laneAddrs (fullAddr a)),
    touch := fun s => touches (s.w.laneAddrs (fullAddr a)) (wBytes w) true true,
    effect := fun s => s.localAtomic d w a fun i old =>
      some (aopVal op (8 * wBytes w) old (s.w.laneBytes d.val (regCount w) i)) }

/-- The expected and the new value of a CAS: the halves of its pair or quad. -/
def Warp.casExp (w : Warp) (d : Reg) (wd : Width) (l : Nat) : Nat := w.laneBytes d.val (regCount wd) l
def Warp.casNew (w : Warp) (d : Reg) (wd : Width) (l : Nat) : Nat := w.laneBytes (d.val + regCount wd) (regCount wd) l

/-- LCAS (08 R147). -/
def opLcas (d : Reg) (w : Width) (a : GAddr) : SlotOp :=
  { causes := fun s => s.localCauses (wBytes w) (s.w.laneAddrs (fullAddr a)),
    touch := fun s => touches (s.w.laneAddrs (fullAddr a)) (wBytes w) true true,
    effect := fun s => s.localAtomic d w a fun i old => if old = s.w.casExp d w i then some (s.w.casNew d w i) else none }

/-! ## FIFO banks (06 R116 to R118; 08 R148) -/

/-- A FIFO index and the local bank it names. -/
def Warp.fifoIx (w : Warp) (sb : Reg) (imm : BitVec 16) : Nat := (w.baseAddr sb imm).toNat
def Cohort.fifoBank (co : Cohort) (q : Nat) : Nat := co.ns + q
def Cohort.fifo (co : Cohort) (q : Nat) : Fifo := tget Fifo.empty co.fifos (co.fifoBank q)
def Cohort.setFifo (co : Cohort) (q : Nat) (f : Fifo) : Cohort := { co with fifos := tset Fifo.empty co.fifos (co.fifoBank q) f }

/-- PERM detail 5 for an index outside 0 to n_f − 1 (06 R116), with the index in word 2. -/
def State.fifoCause (s : State) (q : Nat) : List Cause := if q < s.co.nf then [] else [s.cause 7 5 (BitVec.ofNat 64 q) 0]

/-- A FIFO operation on a bank in transition is counted. -/
def State.fifoTrans (s : State) (q : Nat) : State := s.countTrans [16384 * s.co.fifoBank q]

/-- 64-byte granules of a block. -/
def granulesOf : Nat → List Byte → List (List Byte)
  | 0, _ => []
  | n + 1, l => l.take 64 :: granulesOf n (l.drop 64)

/-- QENQ (08 R148): held until there is room (06 R117), dropped in transition. Its block is in the ring from its issue on: log 56. -/
def opQenq (d : Reg) (w : Width) (sb : Reg) (imm : BitVec 16) : SlotOp :=
  { causes := fun s => s.fifoCause (s.w.fifoIx sb imm),
    hold := fun s =>
      let q := s.w.fifoIx sb imm
      if !s.co.moving (s.co.fifoBank q) && decide (256 < (s.co.fifo q).q.length + wBytes w) then some 7 else none,
    effect := fun s =>
      let q := s.w.fifoIx sb imm
      let f := s.co.fifo q
      let blk := (List.range 64).flatMap fun l => leBytes (wBytes w) (if s.w.em.getLsbD l then s.w.laneBytes d.val (regCount w) l else 0)
      if s.co.moving (s.co.fifoBank q) then s.fifoTrans q
      else s.onCo fun co => co.setFifo q { f with q := f.q ++ granulesOf (wBytes w) blk } }

/-- The lanes of a mask whose datum of n bytes, in the granules that a QDEQ takes, meets a word with an uncorrectable error (19 R368). -/
def Cohort.badBlock (co : Cohort) (q n : Nat) (m : Mask) : List Nat :=
  if co.bad = [] then [] else (lanesOf m).filter fun l => (wordsOf (l * n) n).any fun k => co.bad.contains (.fifo q k)

/-- A place once n granules have left a FIFO, whose words are then counted anew; none where it has left with them. -/
def CoSite.shift (q n : Nat) (b : CoSite) : Option CoSite :=
  match b with
  | .fifo p k => if p = q then (if k < 16 * n then none else some (.fifo p (k - 16 * n))) else some b
  | _ => some b

/-- The places of a cohort then. -/
def Cohort.fifoShift (co : Cohort) (q n : Nat) : Cohort :=
  { co with
    bad := co.bad.filterMap (CoSite.shift q n), odd := co.odd.filterMap fun p => (CoSite.shift q n p.1).map fun b => (b, p.2) }

/-- QDEQ (08 R148): held until its granules are present; zero in transition. -/
def opQdeq (d : Reg) (w : Width) (sb : Reg) (imm : BitVec 16) (le : Bool) (xn : Fin 8) : SlotOp :=
  { causes := fun s => s.fifoCause (s.w.fifoIx sb imm),
    hold := fun s =>
      let q := s.w.fifoIx sb imm
      if !s.co.moving (s.co.fifoBank q) && decide ((s.co.fifo q).q.length < wBytes w) then some 7 else none,
    effect := fun s =>
      let q := s.w.fifoIx sb imm
      let f := s.co.fifo q
      let blk := (f.q.take (wBytes w)).flatten
      if s.co.moving (s.co.fifoBank q) then (s.fifoTrans q).vLoad 6 d w le xn s.w.em fun _ => 0
      else
        ((s.vLoad 6 d w le xn s.w.em fun l => leNat ((blk.drop (l * wBytes w)).take (wBytes w))).onCo fun co =>
            (co.setFifo q { f with q := f.q.drop (wBytes w) }).fifoShift q (wBytes w)).readBanks false (s.co.badBlock q (wBytes w) s.w.em) }

/-- QSTAT (06 R116): the count in [8:0] and OVF in [16]; OVF is cleared. -/
def opQstat (d : Reg) (sb : Reg) (imm : BitVec 16) : SlotOp :=
  { causes := fun s => s.fifoCause (s.w.fifoIx sb imm),
    effect := fun s =>
      let q := s.w.fifoIx sb imm
      let f := s.co.fifo q
      if s.co.moving (s.co.fifoBank q) then (s.fifoTrans q).sLater 6 d 0
      else (s.sLater 6 d (BitVec.ofNat 64 (f.q.length + 65536 * f.ovf.toNat))).onCo fun co => co.setFifo q { f with ovf := false } }

/-! ## PHASE and L1INV (06 R119 to R122; 08 R153, R157) -/

/-- The mode of a local bank: 0 scratch, 1 FIFO, 2 L1 (06 R110). -/
def bankMode (ns nf b : Nat) : Nat := if b < ns then 0 else if b < ns + nf then 1 else 2

/-- The bank counts of a PHASE (06 Table 6.2). -/
def phaseNs (imm : BitVec 16) : Nat := imm.toNat % 32
def phaseNf (imm : BitVec 16) : Nat := imm.toNat / 32 % 32
def phaseNl (imm : BitVec 16) : Nat := imm.toNat / 1024 % 32

/-- The changing banks of a cohort. -/
def Cohort.changing (co : Cohort) (ns nf : Nat) : List Nat :=
  (List.range co.banks).filter fun b => bankMode co.ns co.nf b != bankMode ns nf b

/-- The drain time T (06 R119). -/
def Cohort.drainTime (co : Cohort) (ns nf : Nat) : Nat :=
  ((co.changing ns nf).map fun b => if bankMode co.ns co.nf b = 2 then 32 else 8).sum

/-- The bank in which a place lies. -/
def Cohort.bankOf (co : Cohort) : CoSite → Nat
  | .scratch n => n / 4096
  | .fifo q _ => co.ns + q
  | .l1 line _ => ((co.l1.find? fun x => x.line == line).map L1Line.bank).getD co.banks

/-- The places that are no words of the L1. -/
def outsideL1 : CoSite → Bool
  | .l1 _ _ => false
  | _ => true

/-- A place under a configuration that puts the FIFOs from bank ns on: a bank that stays a FIFO keeps its words under its new index. -/
def Cohort.renumber (co : Cohort) (ns : Nat) : CoSite → CoSite
  | .fifo q i => .fifo (co.ns + q - ns) i
  | b => b

/-- A new configuration: a bank that changes enters its mode empty, and what it held is lost (06 R121). -/
def Cohort.reconfigure (co : Cohort) (ns nf nl t : Nat) : Cohort :=
  let ch := co.changing ns nf
  let T := co.drainTime ns nf
  { co with
    ns := ns, nf := nf, nl := nl,
    scratch := co.scratch.filter fun p => !ch.contains (p.1 / 16384),
    stores := (co.stores.map fun x => { x with bytes := x.bytes.filter fun p => !ch.contains (p.1 / 16384) }).filter fun x => x.bytes != [],
    fifos := co.fifos.filter fun p => !ch.contains p.1,
    l1 := co.l1.filter fun x => !ch.contains x.bank,
    bad := (co.bad.filter fun b => !ch.contains (co.bankOf b)).map (co.renumber ns),
    odd := (co.odd.filter fun p => !ch.contains (co.bankOf p.1)).map fun p => (co.renumber ns p.1, p.2),
    drain := if ch = [] then none else some { endAt := t + T, banks := ch } }

/-- Granules that a PHASE discards (06 R121). -/
def Cohort.discarded (co : Cohort) (ns nf : Nat) : Nat :=
  ((co.fifos.filter fun p => (co.changing ns nf).contains p.1).map fun p => p.2.q.length).sum

/-- PHASE (08 R157): ILLOP detail 4 when the counts do not add up, a hold while an earlier PHASE drains. -/
def opPhase (imm : BitVec 16) : SlotOp :=
  { causes := fun s =>
      if phaseNs imm + phaseNf imm + phaseNl imm = s.co.banks then [] else [s.cause 2 4 s.w.pc 0],
    hold := fun s => if s.co.drain.isSome then some 9 else none,
    effect := fun s =>
      (s.onCore fun c => { c with ctr := { c.ctr with fifoLost := c.ctr.fifoLost + s.co.discarded (phaseNs imm) (phaseNf imm) } }).onCo
        fun co => co.reconfigure (phaseNs imm) (phaseNf imm) (phaseNl imm) s.now }

/-- L1INV (08 R153). -/
def opL1inv : SlotOp := { effect := fun s => s.onCo fun co => { co with l1 := [], bad := co.bad.filter outsideL1, odd := co.odd.filter fun p => outsideL1 p.1 } }

end Sys2Proof.Machine
end

