-- ==== Sys2Proof/Machine/MemGlobal.lean ====
section
/-! DEFINITION. The M slot: global memory (spec 05 R100, R101; 07 R126 to R128; 08 R149 to R152, R154, R155). An
asynchronous instruction becomes an operation of its core at issue; the steps LINE_REQUEST, L2_ATOMIC,
ASYNC_RESULT_WRITE and ACCESS_COMPLETE carry it out. -/

namespace Sys2Proof.Machine

/-! ## Operations and their order -/

def OpKind.reads : OpKind → Bool
  | .load _ _ | .atom _ _ | .cas _ | .signal _ => true
  | _ => false
def OpKind.writes : OpKind → Bool
  | .store | .atom _ _ | .cas _ | .signal _ => true
  | _ => false
/-- Is it ordered by class (07 R126)? -/
def OpKind.ordered : OpKind → Bool
  | .load _ _ | .store | .atom _ _ | .cas _ | .signal _ | .empty => true
  | _ => false

/-- Does a copy read or write global memory? -/
def CopyKind.reads : CopyKind → Bool
  | .gl | .gg _ => true
  | _ => false
def CopyKind.writes : CopyKind → Bool
  | .lg | .gg _ | .fil true _ => true
  | _ => false
def CopyKind.global (k : CopyKind) : Bool := k.reads || k.writes

/-- Is an access in a fence's before-set, or its after-set (07 Table 7.2)? -/
def inBefore (k : FenceKind) (mask : BitVec 16) (cls : Nat) (rd : Bool) : Bool :=
  match k with
  | .rel => mask.getLsbD cls
  | .acq => rd
  | .full => mask.getLsbD cls || rd
def inAfter (k : FenceKind) (mask : BitVec 16) (cls : Nat) (wr : Bool) : Bool :=
  match k with
  | .rel => wr
  | .acq => mask.getLsbD cls
  | .full => true

/-- Has the warp numbered wid an access of the class that was issued before operation `before` and has not
performed? Operations and copies are numbered in order of issue. -/
def CoreSt.classBusy (c : CoreSt) (wid cls before : Nat) : Bool :=
  (c.ops.any fun o => o.wid == wid && o.cls == cls && o.kind.ordered && !o.done && decide (o.id < before)) ||
  (c.copies.any fun k => k.wid == wid && k.cls == cls && k.kind.global && decide (k.id < before))

/-- Does a fence of the warp, issued before, still hold back an access (08 R152)? -/
def CoreSt.fenced (c : CoreSt) (wid cls before : Nat) (wr : Bool) : Bool :=
  c.ops.any fun o => o.wid == wid && !o.done && decide (o.id < before) && match o.kind with
    | .fence k m => inAfter k m cls wr
    | _ => false

/-- A lane's access once translated, its operands a and b. -/
def laneAcc (s : State) (need : Need) (a b : Nat → Nat) (p : LaneAt) : Option LaneAcc :=
  match s.xlate s.w.ctx p.va.toNat need with
  | .ok pl _ => some { lane := p.lane, va := p.va.toNat, pl := pl, a := a p.lane, b := b p.lane, sent := false, done := false, res := 0 }
  | _ => none

/-- An operation of the warp in focus, issued now. -/
def State.newOp (s : State) (kind : OpKind) (cls : Nat) (sc : Scope) (flag : Option FlagNo) (w : Width) (lanes : List LaneAcc) : Op :=
  { id := s.nextId, wid := s.w.id, cid := s.w.cid, ctx := s.w.ctx, job := s.w.job, kind := kind, cls := cls, sc := sc,
    flag := flag, w := w, lanes := lanes, issue := s.now, done := false, res := 0, wrote := false, waits := [],
    psn := [], fail := [] }

def State.addOp (s : State) (o : Op) : State := (s.onCore fun c => { c with ops := c.ops ++ [o] }).bump

/-- A global lane access: its checks, and the operation it becomes. With no lane it only counts its flag (08 R144). -/
def globalOp (kind : OpKind) (k : MHead) (f : Option FlagNo) (w : Width) (need : Need) (rd wr : Bool)
    (l : State → List LaneAt) (a b : State → Nat → Nat) (warpWide : Bool) : SlotOp :=
  { causes := fun s => (if warpWide then asWarp else id) (s.globalCauses (wBytes w) need (fun _ => none) (l s)),
    hold := fun s => s.migHold need (alignedOf (wBytes w) (l s)),
    reach := fun s => vasOf (alignedOf (wBytes w) (l s)),
    bad := fun s => s.lanesBad need (l s),
    flag := f,
    touch := fun s => touches (l s) (wBytes w) rd wr,
    effect := fun s =>
      let lanes := (l s).filterMap (laneAcc s need (a s) (b s))
      if lanes = [] then (if f.isSome then s.addOp (s.newOp .empty k.cls.val k.sc f w []) else s)
      else (s.fillLanes (l s)).addOp (s.newOp kind k.cls.val k.sc f w lanes) }

/-- The EM lanes of an A-layout access. -/
def gLanes (a : GAddr) (s : State) : List LaneAt := s.w.laneAddrs (fullAddr a)

/-- The datum of a lane. -/
def gData (d : Reg) (w : Width) (s : State) : Nat → Nat := fun l => s.w.laneBytes d.val (regCount w) l % 2 ^ (8 * wBytes w)

def noData (_ : State) : Nat → Nat := fun _ => 0

/-- GLD, GST, GATOM, GRED, GCAS (08 R149). -/
def opGld (k : MHead) (f : FlagNo) (d : Reg) (w : Width) (a : GAddr) : SlotOp :=
  globalOp (.load d.val false) k (some f) w [1] true false (gLanes a) noData noData false
def opGst (k : MHead) (f : Option FlagNo) (d : Reg) (w : Width) (a : GAddr) : SlotOp :=
  globalOp .store k f w [2] false true (gLanes a) (gData d w) noData false
def opGatom (k : MHead) (f : FlagNo) (d : Reg) (w : Width) (a : GAddr) (op : Aop) : SlotOp :=
  globalOp (.atom op (some d.val)) k (some f) w [1, 2, 3] true true (gLanes a) (gData d w) noData false
def opGred (k : MHead) (f : Option FlagNo) (d : Reg) (w : Width) (a : GAddr) (op : Aop) : SlotOp :=
  globalOp (.atom op none) k f w [1, 2, 3] true true (gLanes a) (gData d w) noData false
def opGcas (k : MHead) (f : FlagNo) (d : Reg) (w : Width) (a : GAddr) : SlotOp :=
  globalOp (.cas d.val) k (some f) w [1, 2, 3] true true (gLanes a) (fun s => s.w.casExp d w) (fun s => s.w.casNew d w) false

/-- The one address of a scalar access. -/
def sLane (sb : Reg) (imm : BitVec 16) (s : State) : List LaneAt := oneLane (s.w.baseAddr sb imm)

/-- The datum of a scalar store. -/
def sData (d : Reg) (w : Width) (s : State) : Nat → Nat := fun _ => (s.w.rdS d.val).toNat % 2 ^ (8 * wBytes w)

/-- SGLD, SGST (08 R151): GLD and GST of one lane, word 3 zero. -/
def opSgld (k : MHead) (f : FlagNo) (d : Reg) (w : Width) (sb : Reg) (imm : BitVec 16) : SlotOp :=
  globalOp (.load d.val true) k (some f) w [1] true false (sLane sb imm) noData noData true
def opSgst (k : MHead) (f : Option FlagNo) (d : Reg) (w : Width) (sb : Reg) (imm : BitVec 16) : SlotOp :=
  globalOp .store k f w [2] false true (sLane sb imm) (sData d w) noData true

/-! ## GLDC and SLDC (06 R114, R115; 08 R150) -/

/-- The physical address of a lane in main memory. -/
def State.mainAt (s : State) (va : Nat) : Option Nat :=
  match s.xlate s.w.ctx va [1] with
  | .ok (.main pa) _ => some pa
  | _ => none

/-- The L1's copy of a line. -/
def Cohort.l1Line (co : Cohort) (line : Nat) : Option (List Byte) := (co.l1.find? fun x => x.line == line).map L1Line.bytes

/-- The L1 banks that are not in transition. -/
def Cohort.l1Banks (co : Cohort) : List Nat := ((List.range co.nl).map fun i => co.ns + co.nf + i).filter fun b => !co.moving b

/-- A line pinned by another core (05 R106). -/
def State.pinnedElsewhere (s : State) (core line : Nat) : Bool :=
  s.allCores.any fun c => c.no != core && c.pins.any fun p => p.line == line

/-- Does the line lie pinned to another core, or, where it is not pinned to this one, does an earlier retry of another wait for it (05
R106: in order of arrival)? -/
def State.retried (s : State) (core line : Nat) (who : Waiter) : Bool :=
  s.pinnedElsewhere core line ||
  (!((s.coreAt core).pins.any fun p => p.line == line) &&
    (s.mem.retryq.takeWhile fun r => !(r.line == line && r.who == who)).any fun r => r.line == line)

/-- A retried request waits: in its core's request path, in its copy engine, in its core's hold, at its fabric interface. -/
def State.waitRetry (s : State) (line : Nat) (who : Waiter) : State :=
  if s.mem.retryq.contains { line := line, who := who } then s
  else s.onMem fun m => { m with retryq := m.retryq ++ [{ line := line, who := who }] }

/-- A request that performs waits no longer. -/
def State.leaveRetry (s : State) (line : Nat) (who : Waiter) : State :=
  if s.mem.retryq = [] then s else s.onMem fun m => { m with retryq := m.retryq.filter (· != { line := line, who := who }) }

/-- A line fetched through the L2 and kept in a way that the manual does not fix (06 R114); a line with a poisoned
sector is not kept (06 R115). -/
def State.fetchLine (s : State) (line : Nat) : State :=
  if (s.co.l1Line line).isSome then s
  else
    let r := ((s.leaveRetry line (.cache s.core.no)).makeRoom line).fetchFor s.w.id (128 * line) 128
    let bs := s.co.l1Banks
    let s1 := r.1
    if bs = [] || r.2.2 != [] then s1
    else
      let b := bs.getD (Config.freeNat s.freeCtr % bs.length) 0
      { (s1.onCo fun co =>
          { co with
            bad := co.bad.filter fun
              | .l1 k _ => !(co.bankOf (.l1 k 0) == b && k % 128 == line % 128)
              | _ => true,
            odd := co.odd.filter fun p => match p.1 with
              | .l1 k _ => !(co.bankOf (.l1 k 0) == b && k % 128 == line % 128)
              | _ => true,
            l1 := (co.l1.filter fun x => !(x.bank == b && x.line % 128 == line % 128)) ++
              [{ bank := b, line := line, bytes := r.2.1 }] }) with freeCtr := s.freeCtr + 1 }

/-- What a lane reads: from the L1's line, or through the L2, poisoned bytes as zero. -/
def State.cachedRead (s : State) (pa n : Nat) : Nat :=
  match s.co.l1Line (pa / 128) with
  | some l => leNat ((l.drop (pa % 128)).take n)
  | none => leNat (s.mem.load pa n).2.1

/-- The lanes whose granule is poisoned and not in the L1. -/
def State.poisonLanes (s : State) (l : List LaneAt) : List LaneAt :=
  l.filter fun p => match s.mainAt p.va.toNat with
    | some pa => (s.co.l1Line (pa / 128)).isNone && (s.mem.fill (pa / 32)).poisoned (pa / 32)
    | none => false

/-- Poison that lanes read is delivered: counted and logged for its stack (03 Table 3.3), unless the fetch m0 itself has just found it. -/
def State.deliverPoison (s : State) (m0 : MemSt) (l : List LaneAt) : State :=
  s.onMem fun m => m0.logPoison m (((l.filterMap fun p => (s.mainAt p.va.toNat).map fun pa => pa / 32)).dedup)

/-- It is consumed when the load completes, at latency L (03 R77): word 2 the granule's address, word 3 the lanes that read it; each
granule has its entry. -/
def State.consumeLanes (s : State) (L : Nat) (warpWide : Bool) (l : List LaneAt) : State :=
  match l with
  | [] => s
  | p :: _ =>
    let m : Word := if warpWide then 0 else maskOf ((l.filter fun q => q.va.toNat / 32 == p.va.toNat / 32).map LaneAt.lane)
    (((l.map fun q => q.va.toNat / 32 * 32).dedup).foldl (fun s va => s.entryFor s.w.id (poisonEntry va)) s).onW fun w =>
      { w with soon := w.soon ++ [(s.now + L, .consumed false (p.va &&& ~~~31) m)] }

/-- The lines of some lanes that the L1 does not hold. -/
def State.missing (s : State) (l : List LaneAt) : List Nat :=
  ((l.filterMap fun p => (s.mainAt p.va.toNat).map fun pa => pa / 128).dedup).filter fun k => (s.co.l1Line k).isNone

/-- Does an access of a class stand behind a fence, or behind its class (08 R150)? -/
def State.cacheWaits (s : State) (cls : Nat) (l : List LaneAt) : Bool :=
  l != [] && (s.core.fenced s.w.id cls s.nextId false || s.core.classBusy s.w.id cls s.nextId)

/-- A miss holds while its line is fetched (06 R114), and on a pinned line (05 R106), and so does an access behind a fence or its class
(08 R150). -/
def State.cacheHold (s : State) (cls : Nat) (l : List LaneAt) : Option Nat :=
  if (s.migHold [1] l).isSome then s.migHold [1] l
  else if s.cacheWaits cls l then some 3
  else if (s.missing l).any fun k =>
      !s.core.want.contains k || s.retried s.core.no k (.cache s.core.no) || (granules (128 * k) 128).any s.mem.away then some 3
  else none

/-- The lanes that hit a word of the L1 with an uncorrectable error (19 R368). -/
def State.badCached (s : State) (n : Nat) (l : List LaneAt) : List Nat :=
  if s.co.bad = [] then []
  else (l.filter fun p => (s.mainAt p.va.toNat).any fun pa => (wordsOf (pa % 128) n).any fun k => s.co.bad.contains (.l1 (pa / 128) k)).map LaneAt.lane

/-- A GLDC or SLDC, counted once while any L1 bank of the cohort is in transition (06 R120; log 57): its lanes through the L1 at latency 24, f writing the data it finds. -/
def cachedOp (k : MHead) (w : Width) (l : State → List LaneAt) (warpWide : Bool) (f : State → (Nat → Nat) → State) : SlotOp :=
  { causes := fun s =>
      (if warpWide then asWarp else id) (s.globalCauses (wBytes w) [1] (fun p => match p with
        | .main _ => none
        | _ => some 6) (l s)),
    hold := fun s => s.cacheHold k.cls.val (alignedOf (wBytes w) (l s)),
    reach := fun s => vasOf (alignedOf (wBytes w) (l s)),
    lines := fun s => if s.cacheWaits k.cls.val (alignedOf (wBytes w) (l s)) then [] else s.missing (alignedOf (wBytes w) (l s)),
    bad := fun s => s.lanesBad [1] (l s),
    touch := fun s => touches (l s) (wBytes w) true false,
    effect := fun s =>
      let bad := s.poisonLanes (l s)
      let lines := ((l s).filterMap fun p => (s.mainAt p.va.toNat).map fun pa => pa / 128).dedup
      let moving := (List.range s.co.nl).map fun i => 16384 * (s.co.ns + s.co.nf + i)
      let s1 := lines.foldl State.fetchLine ((if l s = [] then s else s.countTrans moving).fillLanes (l s))
      let v := fun i => match (l s).find? fun p => p.lane == i with
        | some p => ((s1.mainAt p.va.toNat).map fun pa => s1.cachedRead pa (wBytes w)).getD 0
        | none => 0
      (((f s1 v).deliverPoison s.mem bad).consumeLanes 24 warpWide bad).readBanks warpWide (s.badCached (wBytes w) (l s)) }

/-- GLDC (08 R150). -/
def opGldc (k : MHead) (d : Reg) (w : Width) (a : LAddr) (le : Bool) (xn : Fin 8) : SlotOp :=
  cachedOp k w (fun s => s.w.laneAddrs a) false fun s v => s.vLoad 24 d w le xn s.w.em v

/-- SLDC (08 R150). -/
def opSldc (k : MHead) (d : Reg) (w : Width) (sb : Reg) (imm : BitVec 16) : SlotOp :=
  cachedOp k w (sLane sb imm) true fun s v => s.sLater 24 d (BitVec.ofNat 64 (v 0))

/-! ## Fences, drains, prefetch (08 R152, R154, R155) -/

/-- The lane stores of the warp in focus that are not yet visible, behind a fence at scope warp: engine reads see them (07 R133). -/
def State.fenceStores (s : State) (sc : Scope) : State :=
  if sc = .warp then s.onCo fun co => { co with stores := upd (·.wid == s.w.id) (fun t => { t with fenced := true }) co.stores } else s

/-- FENCE (08 R152): no hold at issue; the step ACCESS_COMPLETE ends it. -/
def opFence (kind : FenceKind) (sc : Scope) (f : Option FlagNo) (mask : BitVec 16) : SlotOp :=
  { flag := f,
    effect := fun s =>
      (s.fenceStores sc).addOp { s.newOp (.fence kind mask) 0 sc f .w32 [] with waits := if sc = .warp then [] else s.w.syncs } }

/-- WCFL (08 R154). -/
def opWcfl (f : FlagNo) : SlotOp :=
  { flag := some f, effect := fun s => s.addOp (s.newOp .wcfl 0 .fab (some f) .w32 []) }

/-- The lanes that a PREF keeps (08 R155): a TLB hit, R granted, main memory, not migrating. A misaligned lane is dropped too: log 53. -/
def State.prefLanes (s : State) (w : Width) (l : List LaneAt) : List LaneAcc :=
  (l.filter fun p => p.va.toNat % wBytes w == 0 && (hitTlb s.core.tlb s.w.ctx p.va.toNat).isSome && (s.mainAt p.va.toNat).isSome).filterMap
    (laneAcc s [1] (fun _ => 0) fun _ => 0)

/-- PREF (08 R155): it never faults (04 R97) and has no flag. -/
def opPref (w : Width) (a : LAddr) : SlotOp :=
  { touch := fun s => touches (s.w.laneAddrs a) (wBytes w) true false,
    effect := fun s =>
      let ls := s.prefLanes w (s.w.laneAddrs a)
      if ls = [] then s else s.addOp (s.newOp .pref 0 .dev none w ls) }

end Sys2Proof.Machine
end

