-- ==== Sys2Proof/Machine/MemSys.lean ====
section
/-! DEFINITION. The M slot: hints, signals, quiet, device-side launch and the handler's paging tools (spec 08 R156,
R158 to R166). Each asynchronous one becomes an operation of its core, which the step ACCESS_COMPLETE ends. -/

namespace Sys2Proof.Machine

/-- An operation without lanes, issued now. -/
def State.issueOp (s : State) (kind : OpKind) (flag : Option FlagNo) : State := s.addOp (s.newOp kind 0 .fab flag .w64 [])

/-- HINT (08 R156): the range, the priority in [63:61] and the next-use step in [60:0] of the scalar sh. -/
def opHint (f : Option FlagNo) (d sb sh : Reg) (imm : BitVec 16) : SlotOp :=
  { flag := f,
    effect := fun s =>
      let x := (s.w.rdS sh.val).toNat
      s.issueOp (.hint (s.w.baseAddr sb imm).toNat (s.w.rdS d.val).toNat (x / 2 ^ 61) (x % 2 ^ 61)) f }

/-- SIGNAL (08 R158): an atomic that returns nothing, at a word with R, W and A. -/
def opSignal (k : MHead) (f : Option FlagNo) (d sb : Reg) (imm : BitVec 16) (op : Aop) : SlotOp :=
  globalOp (.signal op) k f .w64 [1, 2, 3] true true (sLane sb imm) (fun s _ => (s.w.rdS d.val).toNat) noData true

/-! ## Signal slots (08 R159 to R162) -/

/-- Every armed slot, of a core or of a saved context. -/
def State.allSigs (s : State) : List SigSlot := s.allCores.flatMap CoreSt.sigs ++ s.sch.saved.flatMap Saved.sigs

/-- Is the slot armed for the word at va? A word is where its address translates, whatever address named it when it was armed. -/
def State.namesWord (s : State) (va : Nat) (g : SigSlot) : Bool :=
  match s.xlateMem s.w.ctx va [] with
  | .ok (.main pa) _ => g.pa == some pa
  | _ => g.va == va

/-- Is the slot of the cohort in focus, and armed for the word at va? -/
def State.ownSig (s : State) (va : Nat) (g : SigSlot) : Bool := g.cid == s.co.cid && s.namesWord va g

/-- The PERM fault of a SARM: a word that is not in a TGT 0 page (6), an index beyond the FIFOs (5), no free slot or a
word that another cohort has armed (7). Where several hold, 6 comes first, then 5, then 7: log 53. -/
def State.sarmFault (s : State) (q va : Nat) : Option Nat :=
  match s.xlate s.w.ctx va [] with
  | .migrating | .miss | .nowhere _ => none
  | .ok (.main pa) _ =>
    if s.co.nf ≤ q then some 5
    else if s.allSigs.any fun g => g.pa == some pa && g.cid != s.co.cid then some 7
    else if s.core.sigs.any (s.ownSig va) then none
    else if 16 ≤ s.core.sigs.length then some 7
    else none
  | _ => some 6

/-- The slot armed for the word, or its FIFO index replaced. -/
def State.arm (s : State) (q va : Nat) : State :=
  if s.core.sigs.any (s.ownSig va) then
    s.onCore fun c => { c with sigs := upd (s.ownSig va) (fun g => { g with q := q }) c.sigs }
  else
    match s.xlate s.w.ctx va [] with
    | .ok (.main pa) _ =>
      s.onCore fun c =>
        { c with sigs := c.sigs ++ [{ cid := s.co.cid, ctx := s.w.ctx, va := va, pa := some pa, q := q, wait := [], pend := [] }] }
    | _ => s

/-- SARM (08 R159). -/
def opSarm (q : Fin 16) (sb : Reg) (imm : BitVec 16) : SlotOp :=
  { causes := fun s =>
      let va := s.w.baseAddr sb imm
      if va.toNat % 8 != 0 then [s.cause 5 1 va 0]
      else (s.sarmFault q.val va.toNat).elim [] fun d => [s.cause 7 d va 0],
    hold := fun s => s.migHold [] (alignedOf 8 (sLane sb imm s)),
    reach := fun s => vasOf (alignedOf 8 (sLane sb imm s)),
    bad := fun s => s.lanesBad [] (sLane sb imm s),
    effect := fun s => (s.fillLanes (sLane sb imm s)).arm q.val (s.w.baseAddr sb imm).toNat }

/-- SARM.OFF (08 R159): the slot is freed, and its pending records are consumed; with no slot armed, nothing. It makes no check of its
address, so that a misaligned or unmapped one, which names no slot, does nothing: log 53. -/
def opSarmOff (sb : Reg) (imm : BitVec 16) : SlotOp :=
  { effect := fun s => s.freeSigs (s.ownSig (s.w.baseAddr sb imm).toNat) }

/-- SACK (08 R162): the oldest pending record of the word's slot is consumed; its count waits for the warp's remote
messages, as an operation. With none pending the core's stray-SACK counter rises. -/
def opSack (sb : Reg) (imm : BitVec 16) : SlotOp :=
  { effect := fun s =>
      let own := s.ownSig (s.w.baseAddr sb imm).toNat
      match (s.core.sigs.find? own).map SigSlot.pend with
      | some (j :: _) =>
        (s.onCore fun c => { c with sigs := upd own (fun g => { g with pend := g.pend.tail }) c.sigs }).issueOp (.sack j) none
      | _ => s.onCore fun c => { c with ctr := { c.ctr with straySack := c.ctr.straySack + 1 } } }

/-- QUIET (08 R163). -/
def opQuiet (f : FlagNo) (d : Reg) : SlotOp :=
  { flag := some f, effect := fun s => s.issueOp (.quiet d.val) (some f) }

/-- LAUNCH (08 R164): the record's 64 bytes are read at the issue cycle. -/
def opLaunch (f : FlagNo) (d sb : Reg) (imm : BitVec 16) : SlotOp :=
  { causes := fun s => asWarp (s.localCauses 64 (sLane sb imm s)),
    flag := some f,
    touch := fun s => touches (sLane sb imm s) 64 true false,
    effect := fun s =>
      let o := (s.w.baseAddr sb imm).toNat
      let rec_ := (List.range 8).map fun i => BitVec.ofNat 64 (leNat ((s.co.seen s.now).readN (o + 8 * i) 8))
      ((s.countTrans [o]).issueOp (.launch d.val (s.w.rdS d.val).toNat rec_) (some f)).readBanks true (s.co.badLanes 64 (sLane sb imm s)) }

/-- PGFETCH (08 R165): privileged; it never faults XLATE or PERM. -/
def opPgfetch (f : FlagNo) (kind : PgKind) (d sb : Reg) (imm : BitVec 16) : SlotOp :=
  { causes := State.privCause,
    flag := some f,
    effect := fun s => s.issueOp (.pgfetch d.val kind (s.w.baseAddr sb imm).toNat) (some f) }

/-- XINV (08 R166): privileged. -/
def opXinv (f : Option FlagNo) (d sb : Reg) (imm : BitVec 16) : SlotOp :=
  { causes := State.privCause,
    flag := f,
    effect := fun s => s.issueOp (.xinv (s.w.baseAddr sb imm).toNat (s.w.rdS d.val).toNat) f }

end Sys2Proof.Machine
end

