-- ==== Sys2Proof/Machine/EngCopy.lean ====
section
/-! DEFINITION. The E slot: copies (spec 09). A copy instruction checks its operands and starts a copy of its core; the
steps COPY_COMPLETE, COPY_SUSPEND and CPYP_FLIT_ARRIVAL carry it out. -/

namespace Sys2Proof.Machine

/-! ## Geometry (09 R174 to R176) -/

/-- The fields of a geometry word (09 Table 9.3), NY and NZ with 0 read as 1. -/
structure Geo where
  nx  : Nat
  ny  : Nat
  nz  : Nat
  sz  : Nat
  hx  : Nat
  hy  : Nat
  zf  : Bool
  top : Nat
  deriving DecidableEq, Repr

/-- 0 read as 1. -/
def orOne (n : Nat) : Nat := if n = 0 then 1 else n

def geoOf (g : Word) : Geo :=
  let n := g.toNat
  { nx := n % 65536, ny := orOne (n / 2 ^ 16 % 65536), nz := orOne (n / 2 ^ 32 % 4096), sz := 2 ^ (n / 2 ^ 44 % 4),
    hx := n / 2 ^ 46 % 16, hy := n / 2 ^ 50 % 16, zf := n / 2 ^ 54 % 2 == 1, top := n / 2 ^ 55 }

/-- RP and PP of a pitch pair (09 R175). -/
def rowPitch (p : Word) : Nat := p.toNat % 2 ^ 32
def planePitch (p : Word) : Nat := p.toNat / 2 ^ 32

/-- HX and HY of a copy: zero in every instruction but CPYGL (09 R176). -/
def CopyKind.halo (k : CopyKind) (g : Geo) : Nat × Nat :=
  match k with
  | .gl => (g.hx, g.hy)
  | _ => (0, 0)

/-- Bytes of a packed region (09 R176); a copy with nx = 0 moves no element. -/
def CopyKind.packedBytes (k : CopyKind) (g : Geo) : Nat :=
  if g.nx = 0 then 0 else (g.nx + 2 * (k.halo g).1) * (g.ny + 2 * (k.halo g).2) * g.nz * g.sz

/-- The sides of a copy. -/
def CopyKind.srcLocal : CopyKind → Bool
  | .lg | .ll | .p _ => true
  | _ => false
def CopyKind.dstLocal : CopyKind → Bool
  | .gl | .ll | .fil false _ => true
  | _ => false
/-- Does the copy apply pitches? -/
def CopyKind.pitches : CopyKind → Bool
  | .fil glob _ => glob
  | .p _ => false
  | _ => true
def CopyKind.usesSrc : CopyKind → Bool
  | .fil _ _ => false
  | _ => true
def CopyKind.usesDst : CopyKind → Bool
  | .p _ => false
  | _ => true

/-! ## Checks at issue (09 R173, R186) -/

/-- The lowest offset at or beyond L of n bytes from an offset, modulo 2^64. -/
def rowBeyond (L start n : Nat) : Option Nat :=
  if n = 0 then none
  else if start < L then (if L < start + n then some L else none)
  else if 2 ^ 64 + L < start + n then some L else some start

/-- The least of some offsets. -/
def leastOf : List Nat → Option Nat
  | [] => none
  | a :: l => some (l.foldl min a)

/-- The rows of a pitched region: where each starts, modulo 2^64. -/
def pitchedRows (g : Geo) (base rp pp : Nat) : List Nat :=
  if g.nx = 0 then []
  else (List.range g.nz).flatMap fun p => (List.range g.ny).map fun j => (base + p * pp + j * rp) % 2 ^ 64

/-- The copy that an instruction asks for, of the warp in focus. -/
def State.theCopy (s : State) (kind : CopyKind) (k : MHead) (f : FlagNo) (sa sd sg sx : Reg) (imm : BitVec 16) : Copy :=
  { id := s.nextId, wid := s.w.id, cid := s.w.cid, ctx := s.w.ctx, kind := kind, cls := k.cls.val, sc := k.sc, flag := f,
    src := (s.w.rdS sa.val).toNat, dst := (s.w.rdS sd.val).toNat, geo := s.w.rdS sg.val, pit := s.w.rdS sx.val,
    bnd := s.w.rdS (sx.val + 1), imm := imm, issue := s.now, done := 0, asked := 0, got := [], susp := none, met := false, walked := [], bad := false,
    psn := [], fail := [] }

/-- The first misaligned value, in the order s[sa], s[sd], RP, PP. -/
def Copy.misalign (c : Copy) : Option Nat :=
  let sz := (geoOf c.geo).sz
  let vals := (if c.kind.usesSrc then [c.src] else []) ++ (if c.kind.usesDst then [c.dst] else []) ++
    (if c.kind.pitches then [rowPitch c.pit, planePitch c.pit] else [])
  match c.kind with
  | .p _ => if c.src % 64 = 0 then none else some c.src
  | _ => vals.find? fun v => v % sz != 0

/-- The lowest local offset of the copy's extents that lies beyond the local space of L bytes: the source's first. -/
def Copy.beyond (c : Copy) (L : Nat) : Option Nat :=
  let g := geoOf c.geo
  let src := match c.kind with
    | .lg => rowBeyond L c.src (c.kind.packedBytes g)
    | .p _ => rowBeyond L c.src (c.kind.packedBytes g)
    | .ll => leastOf ((pitchedRows g c.src (rowPitch c.pit) (planePitch c.pit)).filterMap fun r => rowBeyond L r (g.nx * g.sz))
    | _ => none
  let dst := if c.kind.dstLocal then rowBeyond L c.dst (c.kind.packedBytes g) else none
  src.or dst

/-- Is the geometry invalid (09 R173)? -/
def Copy.badGeo (c : Copy) : Bool :=
  let g := geoOf c.geo
  let B := g.nx * g.ny * g.nz * g.sz
  g.top != 0 ||
  (match c.kind with
    | .gl => false
    | _ => g.hx != 0 || g.hy != 0 || g.zf) ||
  (match c.kind with
    | .p _ => B % 64 != 0 || B < 64 || 16384 < B
    | _ => false)

/-- The checks of a copy: ALIGN 2, PERM 5, COPYF of kind 3. -/
def State.copyCauses (s : State) (c : Copy) : List Cause :=
  (c.misalign.elim [] fun v => [s.cause 5 2 (BitVec.ofNat 64 v) 0]) ++
  ((c.beyond s.co.localBytes).elim [] fun o => [s.cause 7 5 (BitVec.ofNat 64 o) 0]) ++
  (if c.badGeo then [s.cause 11 3 0 0] else [])

/-- The hold of 09 R168: 16 active copies of the core, four of the warp. -/
def State.copyHold (s : State) : Option Nat :=
  if 16 ≤ (s.core.copies.filter fun c => c.susp.isNone).length ∨ 4 ≤ (s.core.copies.filter (·.wid == s.w.id)).length
  then some 6 else none

/-- A copy instruction. -/
def copyOp (f : FlagNo) (c : State → Copy) (more : State → List Cause) : SlotOp :=
  { causes := fun s => more s ++ s.copyCauses (c s),
    hold := State.copyHold,
    flag := some f,
    effect := fun s => (s.onCore fun k => { k with copies := k.copies ++ [c s] }).bump }

/-! ## The copy instructions (09 R180 to R186) -/

/-- The class and scope that the local copies ignore (09 R178). -/
def noHead : MHead := { cls := 0, sc := .core }

def opCpygl (k : MHead) (f : FlagNo) (sa sd sg sx : Reg) : SlotOp :=
  copyOp f (fun s => s.theCopy .gl k f sa sd sg sx 0) fun _ => []
def opCpylg (k : MHead) (f : FlagNo) (sa sd sg sx : Reg) : SlotOp :=
  copyOp f (fun s => s.theCopy .lg k f sa sd sg sx 0) fun _ => []
def opCpyll (f : FlagNo) (sa sd sg sx : Reg) : SlotOp :=
  copyOp f (fun s => s.theCopy .ll noHead f sa sd sg sx 0) fun _ => []
def opCpygg (k : MHead) (f : FlagNo) (sa sd sg sx : Reg) (pk : Bool) : SlotOp :=
  copyOp f (fun s => s.theCopy (.gg pk) k f sa sd sg sx 0) fun _ => []
def opCpyfil (f : FlagNo) (sd sg : Reg) (imm : BitVec 16) (hi : Bool) (g : Option CpyG) : SlotOp :=
  copyOp f (fun s => match g with
    | some x => s.theCopy (.fil true hi) x.k f 0 sd sg x.sx imm
    | none => s.theCopy (.fil false hi) noHead f 0 sd sg 0 imm) fun _ => []

/-- The gang of the cohort in focus. -/
def State.gangOf (s : State) (co : Cohort) : Option Gang := s.sch.gangs.find? (·.uid == co.gang)

/-- The channel numbered n of a gang, absent when an end lies at or beyond the gang's size (09 R188). -/
def Gang.chan (g : Gang) (n : Nat) : Option Channel :=
  (g.chans[n]?).bind fun c => if c.src < g.size ∧ c.dst < g.size then some c else none

/-- ILLOP detail 4 for a channel that is not the cohort's to send on (09 R186). -/
def State.chanCause (s : State) (n : Nat) : List Cause :=
  match (s.gangOf s.co).bind fun g => g.chan n with
  | some c => if c.src = s.co.idx then [] else [s.cause 2 4 s.w.pc 0]
  | none => [s.cause 2 4 s.w.pc 0]

def opCpyp (f : FlagNo) (sa sg : Reg) (ch : BitVec 16) : SlotOp :=
  copyOp f (fun s => s.theCopy (.p ch.toNat) noHead f sa 0 sg 0 0) fun s => s.chanCause ch.toNat

end Sys2Proof.Machine
end

