-- ==== Sys2Proof/Machine/EngTile.lean ====
section
/-! DEFINITION. The E slot: tile handles, and TLD and TST (spec 10). -/

namespace Sys2Proof.Machine

/-! ## Descriptors (10 R194, R195) -/

/-- The fields of a descriptor (10 Table 10.1), ROWS and COLS with 0 read as 256. -/
structure Desc where
  fmt  : Nat
  acc  : Bool
  halo : Bool
  kax  : Bool
  rows : Nat
  cols : Nat
  gw   : Nat
  ow   : Nat
  zero : Bool
  deriving DecidableEq, Repr

def orMax (n : Nat) : Nat := if n = 0 then 256 else n

def descOf (d : Word) : Desc :=
  let n := d.toNat
  { fmt := n % 16, acc := n.testBit 4, halo := n.testBit 5, kax := n.testBit 6, rows := orMax (n / 2 ^ 8 % 256),
    cols := orMax (n / 2 ^ 16 % 256), gw := n / 2 ^ 24 % 256, ow := n / 2 ^ 32 % 256,
    zero := !n.testBit 7 && n / 2 ^ 40 == 0 }

/-- Element size (10 R192). -/
def Desc.esz (d : Desc) : Nat := if d.fmt < 2 then 2 else if d.fmt < 4 then 4 else 1

/-- Is it well formed (10 Table 10.2)? -/
def Desc.wellFormed (d : Desc) : Bool :=
  d.zero && decide (d.fmt ≤ 6) &&
  (!d.acc || d.fmt == 2 || d.fmt == 3) &&
  (d.fmt != 4 || (if d.kax then d.rows == 16 else d.cols == 16)) &&
  (if d.halo then !d.kax && d.gw != 0 && d.ow != 0 && decide (d.ow ≤ d.gw) && d.rows % d.gw == 0
   else d.gw == 0 && d.ow == 0)

/-- Exponent bytes of a BLK8 tile: one a row of an A tile, one a column of a B tile. -/
def Desc.sides (d : Desc) : Nat := if d.fmt = 4 then (if d.kax then d.cols else d.rows) else 0

/-- Its size, and whether it fits (10 R195). -/
def Desc.size (d : Desc) : Nat := d.rows * d.cols * d.esz + d.sides
def Desc.fits (d : Desc) : Bool := decide (d.size ≤ 4096)

/-- The byte of an element, and of an exponent (10 R192). -/
def Desc.at (d : Desc) (r c : Nat) : Nat := (r * d.cols + c) * d.esz
def Desc.sideAt (d : Desc) (k : Nat) : Nat := d.rows * d.cols + k

/-! ## Binding and releasing (10 R196, R197, R203 to R206) -/

/-- A change of a handle that takes effect n cycles after its issue (10 Table 10.4). -/
def State.handleLater (s : State) (n : Nat) (a : HAct) : State :=
  s.onW fun w => { w with hpend := w.hpend ++ [{ due := s.now + n, act := a }] }

/-- Is the handle bound, or about to be? -/
def Warp.taken (w : Warp) (h : Nat) : Bool := (w.slotOf h).isSome || w.binding h

/-- The free slots of the cohort's pools (10 R191, R193): slots below 64 are tile slots. -/
def State.freeSlots (s : State) (acc : Bool) : List Nat :=
  (List.range 96).filter fun n =>
    let x := s.slotAt n
    decide (64 ≤ n) == acc && x.owner == s.co.cid + 1 && !x.taken && !x.releasing

/-- The status that TALLOC writes (10 R203). -/
def State.tallocStatus (s : State) (d : Desc) : Nat :=
  if !d.wellFormed then 3 else if !d.fits then 2 else if s.freeSlots d.acc = [] then 0 else 1

/-- TALLOC (10 R203): the slot is taken at issue, in an order that the manual leaves open. -/
def opTalloc (hd sdesc sst : Reg) : SlotOp :=
  { causes := fun s => if s.w.taken hd.val then [s.handleCause 6 hd.val] else [],
    effect := fun s =>
      let dw := s.w.rdS sdesc.val
      let d := descOf dw
      let s1 := s.sLater 2 sst (BitVec.ofNat 64 (s.tallocStatus d))
      if s.tallocStatus d = 1 then
        let n := (s.freeSlots d.acc).getD (Config.freeNat s.freeCtr % (s.freeSlots d.acc).length) 0
        { (s1.onCore fun c =>
            { c with slots := tset TSlot.free c.slots n { tget TSlot.free c.slots n with taken := true, desc := dw } }).handleLater
          2 (.bind hd.val n) with freeCtr := s.freeCtr + 1 }
      else s1 }

/-- TFREE (10 R204). -/
def opTfree (hd : Reg) : SlotOp :=
  { causes := fun s => s.needBound hd.val,
    effect := fun s => match s.w.slotOf hd.val with
      | some n => (s.handleLater 1 (.unbind hd.val)).onCore fun c => c.release (s.now + 1) n
      | none => s }

/-- The live warp of the cohort in focus with an index. -/
def State.peer (s : State) (i : Nat) : Option Warp :=
  s.allWarps.find? fun w => w.cid == s.w.cid && w.warpIdx == i && w.run != .retired

/-- THAND's target and entry (10 R205). -/
def handTo (x : Word) : Nat × Nat := (x.toNat % 16, x.toNat / 256 % 16)

/-- THAND (10 R205). -/
def opThand (hd st : Reg) : SlotOp :=
  { causes := fun s =>
      let t := handTo (s.w.rdS st.val)
      if (s.w.slotOf hd.val).isNone then [s.handleCause 1 hd.val]
      else
        match s.peer t.1 with
        | none => [s.handleCause 5 hd.val]
        | some w => if tget 0 w.mail t.2 = 0 then [] else [s.handleCause 4 hd.val],
    effect := fun s =>
      let t := handTo (s.w.rdS st.val)
      match s.w.slotOf hd.val with
      | some n =>
        (s.handleLater 1 (.unbind hd.val)).mapWarps (fun w => w.cid == s.w.cid && w.warpIdx == t.1)
          fun w => { w with mail := tset 0 w.mail t.2 (n + 1) }
      | none => s }

/-- TTAKE (10 R205). -/
def opTtake (hd se sst : Reg) : SlotOp :=
  { causes := fun s => if s.w.taken hd.val then [s.handleCause 6 hd.val] else [],
    effect := fun s =>
      let e := (s.w.rdS se.val).toNat % 16
      let n := tget 0 s.w.mail e
      if n = 0 then s.sLater 2 sst 0
      else ((s.sLater 2 sst 1).onW fun w => { w with mail := tset 0 w.mail e 0 }).handleLater 2 (.bind hd.val (n - 1)) }

/-- The descriptor of a handle's binding. -/
def State.descAt (s : State) (h : Nat) : Option Word := (s.w.slotOf h).map fun n => (s.slotAt n).desc

/-- TDESC (10 R206). -/
def opTdesc (hd sd : Reg) : SlotOp :=
  { causes := fun s => s.needBound hd.val,
    effect := fun s => s.sLater 2 sd ((s.descAt hd.val).getD 0) }

/-- TSETD (10 R206). -/
def opTsetd (hd sdesc : Reg) : SlotOp :=
  { causes := fun s => match s.descAt hd.val with
      | none => [s.handleCause 1 hd.val]
      | some old =>
        let d := descOf (s.w.rdS sdesc.val)
        if d.wellFormed && d.fits && d.acc == (descOf old).acc then [] else [s.handleCause 7 hd.val],
    hold := fun s => if s.busyHandle hd.val then some 4 else none,
    effect := fun s => match s.w.slotOf hd.val with
      | some n => s.handleLater 2 (.setDesc n (s.w.rdS sdesc.val))
      | none => s }

/-! ## The matrix issue queue (13 R245, R246) -/

/-- The hold of a full queue. -/
def State.queueHold (s : State) : Option Nat := if 8 ≤ s.core.mxq.length then some 5 else none

/-- An entry of the warp in focus with what its issue captures. -/
def State.newEntry (s : State) (op : Instr) (f : Option FlagNo) (hd ha hb : Option Nat) (base : Nat) (pitch : Word) : MxEntry :=
  let d := fun h => (h.bind s.descAt).getD 0
  let sl := fun h => h.bind s.w.slotOf
  { id := s.nextId, wid := s.w.id, cid := s.w.cid, ctx := s.w.ctx, op := op, hd := sl hd, ha := sl ha, hb := sl hb,
    dd := d hd, da := d ha, db := d hb, base := base, pitch := pitch, msatb := s.w.msatb.toNat, munfb := s.w.munfb.toNat,
    mcanb := s.w.mcanb.toNat, mcank := s.w.mcank.toNat, flag := f, issue := s.now, pass := none }

/-- An entry put into the queue. -/
def State.enqueue (s : State) (e : MxEntry) : State := (s.onCore fun c => { c with mxq := c.mxq ++ [e] }).bump

/-! ## TLD and TST (10 R207) -/

/-- The local offset of an element, and of an exponent. -/
def tileElemAt (d : Desc) (base rp : Nat) (tr : Bool) (r c : Nat) : Nat :=
  (if tr then base + c * rp + r * d.esz else base + r * rp + c * d.esz) % 2 ^ 64
def tileSideAt (base so k : Nat) : Nat := (base + so + k) % 2 ^ 64

/-- The lowest local offset that a TLD or TST reaches at or beyond L. -/
def tileBeyond (d : Desc) (base rp so : Nat) (tr : Bool) (L : Nat) : Option Nat :=
  let rows := if tr then (List.range d.cols).map fun c => rowBeyond L (tileElemAt d base rp tr 0 c) (d.rows * d.esz)
    else (List.range d.rows).map fun r => rowBeyond L (tileElemAt d base rp tr r 0) (d.cols * d.esz)
  leastOf ((rows ++ [rowBeyond L (tileSideAt base so 0) d.sides]).filterMap id)

/-- Checks 2 to 4 of a TLD or TST, for a bound handle. -/
def State.tileCauses (s : State) (h : Nat) (d : Desc) (base : Nat) (pit : Word) (tr : Bool) : List Cause :=
  let rp := rowPitch pit
  (match [base, rp].find? fun v => v % d.esz != 0 with
    | some v => [s.cause 5 2 (BitVec.ofNat 64 v) 0]
    | none => []) ++
  (match tileBeyond d base rp (planePitch pit) tr s.co.localBytes with
    | some o => [s.cause 7 5 (BitVec.ofNat 64 o) 0]
    | none => []) ++
  (if tr && d.fmt == 4 then [s.handleCause 3 h] else [])

/-- TLD and TST: op is the instruction itself, as its entry keeps it. -/
def tileMove (op : Instr) (f : Option FlagNo) (hd base pit : Reg) (tr : Bool) : SlotOp :=
  { causes := fun s => match s.descAt hd.val with
      | none => [s.handleCause 1 hd.val]
      | some d => s.tileCauses hd.val (descOf d) (s.w.rdS base.val).toNat (s.w.rdS pit.val) tr,
    hold := State.queueHold,
    flag := f,
    effect := fun s => s.enqueue (s.newEntry op f (some hd.val) none none (s.w.rdS base.val).toNat (s.w.rdS pit.val)) }

def opTld (f : Option FlagNo) (hd base pit : Reg) (tr : Bool) : SlotOp := tileMove (.tld f hd base pit tr) f hd base pit tr
def opTst (f : FlagNo) (hd base pit : Reg) (tr : Bool) : SlotOp := tileMove (.tst f hd base pit tr) (some f) hd base pit tr

end Sys2Proof.Machine
end

