-- ==== Sys2Proof/Machine/EngMatrix.lean ====
section
/-! DEFINITION. The E slot: the matrix instructions at issue (spec 14 R263 to R278), and what an entry computes once it
runs (13 R249 to R261; 01 R37). -/

namespace Sys2Proof.Machine
open Sys2Proof.Num

/-! ## Checks (14 R266, Table 14.2; 13 R250) -/

/-- A requirement on one operand: its handle, the store it must have, its other conditions. -/
structure HReq where
  h     : Nat
  store : Option Bool
  ok    : Desc → Bool

/-- The first handle that fails, with its first detail. -/
def State.firstBad (s : State) : List HReq → List Cause
  | [] => []
  | r :: l =>
    match s.descAt r.h with
    | none => [s.handleCause 1 r.h]
    | some w =>
      if r.store.any fun b => b != (descOf w).acc then [s.handleCause 2 r.h]
      else if !r.ok (descOf w) then [s.handleCause 3 r.h]
      else s.firstBad l

/-- The descriptor of a handle's binding, decoded. -/
def State.descOfH (s : State) (h : Reg) : Option Desc := (s.descAt h.val).map descOf

/-- The fmt that an etype names (14, "fmt matches etype"). -/
def fmtCode : MType → Nat
  | .f16 => 0 | .b16 => 1 | .f32 => 2 | .i32 => 3 | .block => 4

/-- A window's offsets, signed. -/
def Win.y (w : Win) : Int := w.dy.toInt
def Win.x (w : Win) : Int := w.dx.toInt

/-- Does the window leave the grid of the A tile (13 R250)? -/
def winBad (w : Win) (d : Desc) (m : Nat) : Bool :=
  !d.halo || decide (Win.x w < 0) || decide (Win.y w < 0) ||
  decide ((d.gw : Int) ≤ Win.x w + (d.ow : Int) - 1) ||
  decide (((d.rows / d.gw : Nat) : Int) ≤ Win.y w + (((m - 1) / d.ow : Nat) : Int))

/-- The checks of a windowed product: its handles, then its window. -/
def State.winCauses (s : State) (reqs : List HReq) (ha : Reg) (win : Option Win) (m : Nat) : List Cause :=
  match s.firstBad reqs, win, s.descOfH ha with
  | [], some w, some d => if winBad w d m then [s.handleCause 3 ha.val] else []
  | l, _, _ => l

/-- A matrix instruction: its checks and its entry. -/
def matOp (op : Instr) (f : Option FlagNo) (hd ha hb : Option Reg) (causes : State → List Cause) (base : State → Nat) : SlotOp :=
  { causes := causes,
    hold := State.queueHold,
    flag := f,
    effect := fun s => s.enqueue (s.newEntry op f (hd.map Fin.val) (ha.map Fin.val) (hb.map Fin.val) (base s) 0) }

def noBase (_ : State) : Nat := 0

/-- MZERO (14 R269). -/
def opMzero (f : Option FlagNo) (hd : Reg) : SlotOp :=
  matOp (.mzero f hd) f (some hd) none none (fun s => s.needBound hd.val) noBase

/-- M and N of an MHFA. -/
def mhfaDim (x32 : Bool) : Nat := if x32 then 32 else 16

/-- MHFA (14 R270). -/
def opMhfa (f : Option FlagNo) (et : MType) (hd ha hb : Reg) (x32 : Bool) (win : Option Win) : SlotOp :=
  let m := mhfaDim x32
  matOp (.mhfa f et hd ha hb x32 win) f (some hd) (some ha) (some hb)
    (fun s => s.winCauses
      [ { h := hd.val, store := some true, ok := fun d => d.fmt == 2 && decide (m ≤ d.rows) && decide (m ≤ d.cols) },
        { h := ha.val, store := none, ok := fun d => d.fmt == fmtCode et && !d.kax && decide (16 ≤ d.cols) && (win.isSome || decide (m ≤ d.rows)) },
        { h := hb.val, store := none, ok := fun d => d.fmt == fmtCode et && d.kax && decide (16 ≤ d.rows) && decide (m ≤ d.cols) } ]
      ha win m) noBase

/-- MBMM (14 R271): M and N are the rows and columns of hd. -/
def opMbmm (f : Option FlagNo) (rg : RungSel) (hd ha hb : Reg) (win : Option Win) : SlotOp :=
  let M := fun (s : State) => (s.descOfH hd).elim 0 Desc.rows
  let N := fun (s : State) => (s.descOfH hd).elim 0 Desc.cols
  matOp (.mbmm f rg hd ha hb win) f (some hd) (some ha) (some hb)
    (fun s => s.winCauses
      [ { h := hd.val, store := some true, ok := fun d => d.fmt == 3 && decide (d.rows ≤ 32) && decide (d.cols ≤ 32) },
        { h := ha.val, store := none, ok := fun d => d.fmt == 4 && !d.kax && (win.isSome || decide (M s ≤ d.rows)) },
        { h := hb.val, store := none, ok := fun d => d.fmt == 4 && d.kax && decide (N s ≤ d.cols) } ]
      ha win (M s)) noBase

/-- Two descriptors of one shape; true where the other handle is unbound (14 R266). -/
def sameShape (o : Option Desc) (d : Desc) : Bool := o.all fun e => e.rows == d.rows && e.cols == d.cols

/-- MSCA (14 R272). -/
def opMsca (f : Option FlagNo) (hd ha : Reg) : SlotOp :=
  matOp (.msca f hd ha) f (some hd) (some ha) none
    (fun s => s.firstBad
      [ { h := hd.val, store := some true, ok := fun d => d.fmt == 2 },
        { h := ha.val, store := some true, ok := fun d => d.fmt == 3 && sameShape (s.descOfH hd) d } ]) noBase

/-- MHAD (14 R273). -/
def opMhad (f : Option FlagNo) (et : MType) (hd : Reg) : SlotOp :=
  matOp (.mhad f et hd) f (some hd) none none
    (fun s => s.firstBad
      [ { h := hd.val, store := none,
          ok := fun d => d.fmt == fmtCode et && (if d.kax then d.rows else d.cols) % 16 == 0 } ]) noBase

/-- MDRN (14 R274). -/
def opMdrn (f : Option FlagNo) (hd ha : Reg) (blk : Fin 16) : SlotOp :=
  matOp (.mdrn f hd ha blk) f (some hd) (some ha) none
    (fun s => s.firstBad
      [ { h := hd.val, store := none, ok := fun d => d.fmt == 4 && !d.kax && (s.descOfH ha).all fun e => e.rows == d.rows },
        { h := ha.val, store := some true, ok := fun d => d.fmt == 2 && decide (16 * blk.val + 15 < d.cols) } ]) noBase

/-- MCVT (14 R275). -/
def opMcvt (f : Option FlagNo) (et : MType) (hd ha : Reg) : SlotOp :=
  matOp (.mcvt f et hd ha) f (some hd) (some ha) none
    (fun s => s.firstBad
      [ { h := hd.val, store := none, ok := fun d => d.fmt == fmtCode et },
        { h := ha.val, store := none, ok := fun d => d.fmt != 4 && sameShape (s.descOfH hd) d } ]) noBase

/-- MADD (14 R276). -/
def opMadd (f : Option FlagNo) (et : MType) (hd ha : Reg) : SlotOp :=
  matOp (.madd f et hd ha) f (some hd) (some ha) none
    (fun s => s.firstBad
      [ { h := hd.val, store := some true, ok := fun d => d.fmt == fmtCode et },
        { h := ha.val, store := some true, ok := fun d => d.fmt == fmtCode et && sameShape (s.descOfH hd) d } ]) noBase

/-- MSCL (14 R277). -/
def opMscl (f : Option FlagNo) (hd ha : Reg) (row : Bool) : SlotOp :=
  matOp (.mscl f hd ha row) f (some hd) (some ha) none
    (fun s => s.firstBad
      [ { h := hd.val, store := some true, ok := fun d => d.fmt == 2 },
        { h := ha.val, store := some true,
          ok := fun d => d.fmt == 2 && (s.descOfH hd).all fun e =>
            if row then d.rows == e.rows && d.cols == 1 else d.rows == 1 && d.cols == e.cols } ]) noBase

/-- MSETD (14 R278): the scalar is read at issue. -/
def opMsetd (f : Option FlagNo) (sa : Reg) : SlotOp :=
  matOp (.msetd f sa) f none none none (fun _ => []) fun s => (s.w.rdS sa.val).toNat % 65536

/-! ## Elements of a slot -/

/-- An element's bits, an exponent byte. -/
def TSlot.elem (t : TSlot) (d : Desc) (r c : Nat) : Nat := leNat (tgets 0 t.bytes (d.at r c) d.esz)
def TSlot.side (t : TSlot) (d : Desc) (k : Nat) : Nat := (tget 0 t.bytes (d.sideAt k)).toNat

/-- The words whose bytes are all written hold no error any longer (19 R368). -/
def TSlot.renew (t : TSlot) (p : Nat → Bool) : TSlot :=
  { t with bad := t.bad.filter fun n => !((List.range 4).all fun i => p (4 * n + i)) }

/-- Has a slot an error in the bytes of a tile? -/
def TSlot.badIn (t : TSlot) (d : Desc) : Bool := t.bad.any fun n => decide (4 * n < d.size)

/-- Bytes written into a slot. -/
def TSlot.put (t : TSlot) (a : Nat) (l : List Byte) : TSlot := { t with bytes := tsets 0 t.bytes (l.zipIdx.map fun p => (a + p.2, p.1)) }

/-- Elements written into a slot. -/
def TSlot.putElems (t : TSlot) (d : Desc) (l : List (Nat × Nat × Nat)) : TSlot :=
  (l.foldl (fun t p => t.put (d.at p.1 p.2.1) (leBytes d.esz p.2.2)) t).renew fun b =>
    l.any fun p => decide (d.at p.1 p.2.1 ≤ b) && decide (b < d.at p.1 p.2.1 + d.esz)

/-- The pairs (row, column) of a shape. -/
def shape (m n : Nat) : List (Nat × Nat) := (List.range m).flatMap fun r => (List.range n).map fun c => (r, c)

/-- Every element of a shape given by a function. -/
def TSlot.fillElems (t : TSlot) (d : Desc) (m n : Nat) (f : Nat → Nat → Nat) : TSlot :=
  t.putElems d ((shape m n).map fun p => (p.1, p.2, f p.1 p.2))

/-- The tile row of product row i (13 R249). -/
def winRow (win : Option Win) (d : Desc) (i : Nat) : Nat :=
  match win with
  | some w => (w.dy.toNat + i / d.ow) * d.gw + w.dx.toNat + i % d.ow
  | none => i

/-! ## Arithmetic (01 R37) -/

/-- A float of a format rounded once to nearest, with nothing flushed. -/
def rneOf (f : Fmt) (v : FV) : Nat := (deliver f .rne false false v).1

/-- MHFA's output (14 R270). -/
def mhfaElem (f : Fmt) (acc : Nat) (ab : List (Nat × Nat)) : Nat :=
  rneOf .f32 (sumV .rne (unpack .f32 acc :: ab.map fun p => (mulV (unpack f p.1) (unpack f p.2)).1)).1

def fmtOfM : MType → Fmt
  | .f16 => .f16
  | .b16 => .b16
  | _ => .f32

def runMhfa (et : MType) (m : Nat) (win : Option Win) (dd da db : Desc) (d a b : TSlot) : TSlot :=
  d.fillElems dd m m fun r c =>
    mhfaElem (fmtOfM et) (d.elem dd r c)
      ((List.range 16).map fun k => (a.elem da (winRow win da r) k, b.elem db k c))

/-! ## The re-steep ladder (13 R252 to R256; 14 R271) -/

/-- The rungs by their code. -/
def rungOf : Nat → Rung
  | 0 => .r2 | 1 => .r3 | 2 => .r4 | 3 => .r6 | _ => .r8
def rungCode : Rung → Nat
  | .r2 => 0 | .r3 => 1 | .r4 => 2 | .r6 => 3 | .r8 => 4

/-- The mantissas of an A row and of a B column, zero where the block's exponent is. -/
def rowMants (a : TSlot) (da : Desc) (r : Nat) : List Nat :=
  (List.range 16).map fun k => if expByte (a.side da r) = 0 then 0 else a.elem da r k
def colMants (b : TSlot) (db : Desc) (c : Nat) : List Nat :=
  (List.range 16).map fun k => if expByte (b.side db c) = 0 then 0 else b.elem db k c

/-- The events of some mantissas at a width: saturated, underflowed. -/
def satCount (w : Nat) (l : List Nat) : Nat := (l.filter fun x => (view w x).2.1).length
def unfCount (w : Nat) (l : List Nat) : Nat := (l.filter fun x => (view w x).2.2).length

/-- An exact sum of products, and the sum of their absolute values. -/
def dotAt (w : Nat) (x y : List Nat) : Int × Nat :=
  let ps := List.zipWith (fun a b => (view w a).1 * (view w b).1) x y
  (ps.sum, (ps.map Int.natAbs).sum)

/-- A pass at width w: its partial, and the monitors SAT, UNF, CAN. -/
structure Pass where
  out : List (Nat × Nat × Int)
  sat : Nat
  unf : Nat
  can : Nat
  deriving DecidableEq, Repr

def runPass (w cank : Nat) (win : Option Win) (dd da db : Desc) (a b : TSlot) : Pass :=
  let rows := (List.range dd.rows).map fun r => rowMants a da (winRow win da r)
  let cols := (List.range dd.cols).map fun c => colMants b db c
  let outs := (shape dd.rows dd.cols).map fun p => (p.1, p.2, dotAt w (rows.getD p.1 []) (cols.getD p.2 []))
  { out := outs.map fun p => (p.1, p.2.1, p.2.2.1),
    sat := (rows.map (satCount w)).sum + (cols.map (satCount w)).sum,
    unf := (rows.map (unfCount w)).sum + (cols.map (unfCount w)).sum,
    can := (outs.filter fun p => p.2.2.2 != 0 && decide (p.2.2.1.natAbs * 2 ^ cank < p.2.2.2)).length }

/-- Does a pass exceed the budgets captured at issue (13 R253)? -/
def Pass.over (p : Pass) (e : MxEntry) : Bool := decide (e.msatb < p.sat) || decide (e.munfb < p.unf) || decide (e.mcanb < p.can)

/-- The commit of a pass (13 R255). -/
def commitPass (p : Pass) (code : Nat) (exh : Bool) (win : Option Win) (dd da db : Desc) (d a b : TSlot) : TSlot :=
  { d.putElems dd (p.out.map fun q => (q.1, q.2.1, wrap 32 q.2.2)) with
    ea := tsets 0 [] ((List.range dd.rows).map fun r => (r, expByte (a.side da (winRow win da r)))),
    eb := tsets 0 [] ((List.range dd.cols).map fun c => (c, expByte (b.side db c))),
    rung := code, exh := exh, badMeta := false }

/-! ## The other entries -/

/-- MSCA (13 R258, 14 R272); a zero partial counts as +0: log 48. -/
def runMsca (dd da : Desc) (d a : TSlot) : TSlot :=
  let w := rungW (rungOf a.rung)
  d.fillElems dd dd.rows dd.cols fun r c =>
    let ea := tget 0 a.ea r
    let eb := tget 0 a.eb c
    let acc := d.elem dd r c
    if 32 ≤ r || 32 ≤ c || ea = 0 || eb = 0 then acc
    else
      let p := sval 32 (a.elem da r c)
      rneOf .f32 (sumV .rne [unpack .f32 acc, .num (decide (p < 0)) p.natAbs ((ea : Int) + eb - 254 - 2 * w + 4)]).1

/-- H16[i][j] is negative (01 R37). -/
def h16neg (i j : Nat) : Bool := popc 4 (Nat.land i j) % 2 == 1

/-- A segment rotated (13 R260); an exact zero sum has the sign that VFADD gives it: log 48. -/
def hadSeg (f : Fmt) (signs : Nat) (seg : List Nat) : List Nat :=
  (List.range 16).map fun i =>
    let t := sumV .rne (seg.zipIdx.map fun p =>
      if h16neg i p.2 != signs.testBit p.2 then negV (unpack f p.1) else unpack f p.1)
    rneOf f (match t.1 with
      | .num s m e => .num s m (e - 2)
      | v => v)

/-- MHAD (14 R273): K lines are rows when kax = 0, columns when kax = 1. -/
def runMhad (et : MType) (signs : Nat) (dd : Desc) (d : TSlot) : TSlot :=
  d.fillElems dd dd.rows dd.cols fun r c =>
    let k := if dd.kax then r else c
    let seg := (List.range 16).map fun j =>
      if dd.kax then d.elem dd (k / 16 * 16 + j) c else d.elem dd r (k / 16 * 16 + j)
    (hadSeg (fmtOfM et) signs seg).getD (k % 16) 0

/-- MDRN (13 R261, 14 R274). -/
def runMdrn (blk : Nat) (dd da : Desc) (d a : TSlot) : TSlot :=
  (List.range dd.rows).foldl (fun t r =>
    let vs := (List.range 16).map fun i => unpack .f32 (a.elem da r (16 * blk + i))
    let E := blockExp vs
    (t.put (dd.at r 0) (vs.map fun v => BitVec.ofNat 8 (quantize E v).1)).put (dd.sideAt r) [BitVec.ofNat 8 E]) (d.renew fun b => decide (b < dd.size))

/-- The element type of a tile format (10 Table 10.1), for conversions. -/
def etypeOf : Nat → Etype
  | 0 => .f16x2 | 1 => .b16x2 | 2 => .f32 | 3 => .i32 | 5 => .n8x4 | _ => .i8x4

/-- MCVT (14 R275). -/
def runMcvt (dd da : Desc) (d a : TSlot) : TSlot :=
  d.fillElems dd dd.rows dd.cols fun r c => (LaneFns.cvtE (etypeOf da.fmt) (etypeOf dd.fmt) 0 false .rne (a.elem da r c)).1

/-- MADD (14 R276). -/
def runMadd (et : MType) (dd da : Desc) (d a : TSlot) : TSlot :=
  d.fillElems dd dd.rows dd.cols fun r c =>
    let x := d.elem dd r c
    let y := a.elem da r c
    match et with
    | .i32 => (x + y) % 2 ^ 32
    | _ => (LaneFns.addE .f32 0 false .rne x y).1

/-- MSCL (14 R277). -/
def runMscl (row : Bool) (dd da : Desc) (d a : TSlot) : TSlot :=
  d.fillElems dd dd.rows dd.cols fun r c =>
    (LaneFns.mulE .f32 0 false .rne (d.elem dd r c) (if row then a.elem da r 0 else a.elem da 0 c)).1

/-- MZERO (14 R269): every byte, and an accumulator's metadata. -/
def runMzero (acc : Bool) (d : TSlot) : TSlot :=
  if acc then { d with bytes := [], ea := [], eb := [], exh := false, rung := 0, bad := [], badMeta := false } else { d with bytes := [], bad := [] }

end Sys2Proof.Machine
end

