-- ==== Sys2Proof/Machine/Scalar.lean ====
section
/-! DEFINITION. The C slot: the scalar ALU, its immediate forms, the masks (spec 16 R306 to R312). -/

namespace Sys2Proof.Machine
open Sys2Proof.Num

/-! ## The scalar ALU (16 R306 to R308) -/

/-- A scalar instruction of latency L over the pre-issue state. -/
def sOp (L : Nat) (d : Reg) (f : Warp → Word) : SlotOp := { effect := fun s => s.sLater L d (f s.w) }

/-- Two scalar operands. -/
def sTwo (L : Nat) (d a b : Reg) (f : Word → Word → Word) : SlotOp := sOp L d fun w => f (w.rdS a.val) (w.rdS b.val)
/-- One. -/
def sOne (d a : Reg) (f : Word → Word) : SlotOp := sOp 1 d fun w => f (w.rdS a.val)

def opSadd (d a b : Reg) : SlotOp := sTwo 1 d a b fun x y => x + y
def opSsub (d a b : Reg) : SlotOp := sTwo 1 d a b fun x y => x - y
def opSmul (d a b : Reg) : SlotOp := sTwo 3 d a b fun x y => x * y

/-- The high 64 bits of the exact product. -/
def mulHigh (u : Bool) (x y : Word) : Word :=
  if u then BitVec.ofNat 64 (x.toNat * y.toNat / 2 ^ 64) else BitVec.ofInt 64 (x.toInt * y.toInt / 2 ^ 64)
def opSmulh (d a b : Reg) (u : Bool) : SlotOp := sTwo 3 d a b (mulHigh u)

/-- Quotient and remainder (16 R307). -/
def divide (u : Bool) (x y : Word) : Word :=
  if y = 0 then BitVec.allOnes 64
  else if u then BitVec.ofNat 64 (x.toNat / y.toNat)
  else BitVec.ofInt 64 (x.toInt.tdiv y.toInt)
def remainder (u : Bool) (x y : Word) : Word :=
  if y = 0 then x
  else if u then BitVec.ofNat 64 (x.toNat % y.toNat)
  else BitVec.ofInt 64 (x.toInt.tmod y.toInt)

/-- The hold of a division: 1 to 40 cycles, a number that the manual leaves open. -/
def State.divHold (s : State) : State := { (s.heldFor (1 + Config.freeNat s.freeCtr % 40)) with freeCtr := s.freeCtr + 1 }

def opSdiv (d a b : Reg) (u : Bool) : SlotOp :=
  { effect := fun s => (s.sLater 1 d (divide u (s.w.rdS a.val) (s.w.rdS b.val))).divHold }
def opSrem (d a b : Reg) (u : Bool) : SlotOp :=
  { effect := fun s => (s.sLater 1 d (remainder u (s.w.rdS a.val) (s.w.rdS b.val))).divHold }

def opSand (d a b : Reg) : SlotOp := sTwo 1 d a b fun x y => x &&& y
def opSor (d a b : Reg) : SlotOp := sTwo 1 d a b fun x y => x ||| y
def opSxor (d a b : Reg) : SlotOp := sTwo 1 d a b fun x y => x ^^^ y
def opSandn (d a b : Reg) : SlotOp := sTwo 1 d a b fun x y => x &&& ~~~y
def opSshl (d a b : Reg) : SlotOp := sTwo 1 d a b fun x y => x <<< (y.toNat % 64)
def opSshr (d a b : Reg) : SlotOp := sTwo 1 d a b fun x y => x >>> (y.toNat % 64)
def opSsra (d a b : Reg) : SlotOp := sTwo 1 d a b fun x y => x.sshiftRight (y.toNat % 64)

/-- Is x below y, signed or unsigned? -/
def below (u : Bool) (x y : Word) : Bool := if u then x.ult y else x.slt y
def opSmin (d a b : Reg) (u : Bool) : SlotOp := sTwo 1 d a b fun x y => if below u y x then y else x
def opSmax (d a b : Reg) (u : Bool) : SlotOp := sTwo 1 d a b fun x y => if below u x y then y else x

def opScmp (cc : Cmp) (d a b : Reg) : SlotOp := sTwo 1 d a b fun x y => if LaneFns.cmp 64 cc x.toNat y.toNat then 1 else 0
def opSsel (d a b c : Reg) : SlotOp := sOp 1 d fun w => if w.rdS a.val = 0 then w.rdS c.val else w.rdS b.val
def opSpopc (d a : Reg) : SlotOp := sOne d a fun x => BitVec.ofNat 64 (popc 64 x.toNat)
def opSclz (d a : Reg) : SlotOp := sOne d a fun x => BitVec.ofNat 64 (64 - bitLen x.toNat)
def opSctz (d a : Reg) : SlotOp := sOne d a fun x => BitVec.ofNat 64 (ctz 64 x.toNat)

/-- The position and the length of a field (16 R308). -/
def fieldPos (b : Word) : Nat := b.toNat % 64
def fieldLen (b : Word) : Nat := min (b.toNat / 256 % 128) (64 - fieldPos b)

/-- SBFX and SBFI (16 R308). -/
def bitField (sx : Bool) (a b : Word) : Word :=
  let n := a.toNat / 2 ^ fieldPos b % 2 ^ fieldLen b
  if fieldLen b = 0 then 0 else if sx then BitVec.ofInt 64 (sval (fieldLen b) n) else BitVec.ofNat 64 n
def bitInsert (a b c : Word) : Word :=
  let m := BitVec.ofNat 64 ((2 ^ fieldLen b - 1) * 2 ^ fieldPos b)
  (c &&& ~~~m) ||| ((a <<< fieldPos b) &&& m)
def opSbfx (d a b : Reg) (sx : Bool) : SlotOp := sTwo 1 d a b (bitField sx)
def opSbfi (d a b c : Reg) : SlotOp := sOp 1 d fun w => bitInsert (w.rdS a.val) (w.rdS b.val) (w.rdS c.val)

/-! ## Immediate forms (16 R309) -/

def opSaddi (d a : Reg) (imm : BitVec 32) : SlotOp := sOne d a fun x => x + imm.signExtend 64
def opSandi (d a : Reg) (imm : BitVec 32) : SlotOp := sOne d a fun x => x &&& imm.signExtend 64
def opSori (d a : Reg) (imm : BitVec 32) : SlotOp := sOne d a fun x => x ||| imm.signExtend 64
def opSxori (d a : Reg) (imm : BitVec 32) : SlotOp := sOne d a fun x => x ^^^ imm.signExtend 64
def opSli (d : Reg) (imm : BitVec 32) : SlotOp := sOp 1 d fun _ => imm.signExtend 64
def opSlih (d a : Reg) (imm : BitVec 32) : SlotOp := sOne d a fun x => (imm.setWidth 64 <<< 32) ||| (x &&& 0xFFFFFFFF)
def opSshli (d a : Reg) (n : Fin 64) : SlotOp := sOne d a fun x => x <<< n.val
def opSshri (d a : Reg) (n : Fin 64) (ar : Bool) : SlotOp := sOne d a fun x => if ar then x.sshiftRight n.val else x >>> n.val

/-! ## Masks (16 R311, R312) -/

/-- EM, kept within AM. -/
def Warp.setEm (w : Warp) (x : Word) : Warp := { w with em := x &&& w.am }

def opEmset (a : Reg) : SlotOp := { effect := fun s => s.onW fun w => w.setEm (w.rdS a.val) }
def opEmand (d a : Reg) : SlotOp :=
  { effect := fun s => (s.sLater 1 d s.w.em).onW fun w => { w with em := w.em &&& w.rdS a.val } }
def opEmget (d : Reg) : SlotOp := sOp 1 d Warp.em

/-- SENT.CLOSE's effect (16 R325). -/
def Warp.closeSentence (w : Warp) : Warp := { w with sepc := 0 }

/-- What the bundle being issued asks for. -/
def State.onIss (s : State) (f : Issue → Issue) : State := { s with iss := f s.iss }

/-- EXIT (16 R312): a nonzero L closes the sentence; with AM = 0 the warp retires, and its bundle is yield-safe. -/
def opExit (m : Option Reg) : SlotOp :=
  { effect := fun s =>
      let L := match m with
        | some r => s.w.rdS r.val &&& s.w.em
        | none => s.w.em
      if L = 0 then (if s.w.am = 0 then s.retire.onIss fun i => { i with ys := true } else s)
      else
        let s1 := s.onW fun w => { w.closeSentence with am := w.am &&& ~~~L, em := w.em &&& ~~~L }
        if s1.w.am = 0 then s1.retire.onIss fun i => { i with ys := true } else s1 }

end Sys2Proof.Machine
end

