-- ==== Sys2Proof/Machine/Ctl.lean ====
section
/-! DEFINITION. The C slot: special registers, transfers, loops, waits, barriers, sentences, steps, traps and the frame
(spec 02 R63 to R65; 16 R310, R313 to R331). -/

namespace Sys2Proof.Machine

/-! ## The trap frame (16 R330, 18 R352) -/

/-- The bits of frame word 1 that hold a value (18 Table 18.2). -/
def causeMask : Word := 0x001FFFFFFFFF0FFF

/-- A frame word read and written: an index of 801 or more reads zero and is not written. -/
def Warp.frameAt (w : Warp) (i : Nat) : Word := if i < Config.frameWords then tget 0 w.frame i else 0
def Warp.setFrame (w : Warp) (i : Nat) (x : Word) : Warp :=
  if i < Config.frameWords then { w.renew (· == .frame i) with frame := tset 0 w.frame i (if i = 1 then x &&& causeMask else x) } else w

/-- Reading frame word 1 is remembered (18 R360). -/
def Warp.seen (w : Warp) (i : Nat) : Warp := if i = 1 then { w with causeRead := true } else w

/-- The frame index that TFRD and TFWR name. -/
def Warp.frameIx (w : Warp) (a : Reg) (imm : BitVec 32) : Nat := (w.rdS a.val + imm.setWidth 64).toNat

def opTfrd (d a : Reg) (imm : BitVec 32) : SlotOp :=
  { causes := State.privCause,
    effect := fun s => (s.sLater 2 d (s.w.frameAt (s.w.frameIx a imm))).onW fun w => w.seen (s.w.frameIx a imm) }
def opTfwr (v a : Reg) (imm : BitVec 32) : SlotOp :=
  { causes := State.privCause, effect := fun s => s.onW fun w => w.setFrame (w.frameIx a imm) (w.rdS v.val) }

/-! ## Special registers (02 Tables 2.12, 2.21) -/

/-- The context's step (03 R83). -/
def State.stepOf (s : State) (ctx : Nat) : Word := ((s.ctxAt ctx).map Ctx.stepc).getD 0

/-- What SGET of a number reads. -/
def State.special (s : State) (n : Nat) : Word :=
  let w := s.w
  let num := fun k => BitVec.ofNat 64 k
  match n with
  | 0x00 => num Config.warpw
  | 0x01 => num (w.corE % 256)
  | 0x02 => num (w.corE / 256)
  | 0x03 => num w.warpIdx
  | 0x04 => num w.cohortIdx
  | 0x05 => num w.gsize
  | 0x06 => num w.gidx
  | 0x07 => num w.lid
  | 0x08 => w.em
  | 0x09 => w.am
  | 0x0A => num w.sgw
  | 0x0B => w.fpctl
  | 0x0C => w.fpstat
  | 0x0D => w.flagWord 0
  | 0x0E => w.flagWord 8
  | 0x0F => w.lps0
  | 0x10 => w.lpe0
  | 0x11 => w.lpc0
  | 0x12 => w.lps1
  | 0x13 => w.lpe1
  | 0x14 => w.sepc
  | 0x15 => s.stepOf w.ctx
  | 0x16 => num s.core.cycle
  | 0x17 => w.msatb
  | 0x18 => w.munfb
  | 0x19 => w.mcanb
  | 0x1A => w.mcank
  | 0x1B => w.rsteep2
  | 0x1C => w.rsteep3
  | 0x1D => w.rsteep4
  | 0x1E => w.rsteep6
  | 0x1F => w.rsteep8
  | 0x20 => w.mexh
  | 0x21 => w.frameAt 1
  | 0x22 => w.frameAt 2
  | 0x23 => w.frameAt 3
  | 0x24 => w.frameAt 0
  | 0x25 => w.tvec
  | 0x26 => w.hsp
  | 0x27 => w.wsw
  | 0x28 => num w.ctx
  | 0x29 => num w.job
  | 0x2A => w.quant
  | 0x2B => w.errw
  | 0x2C => w.lpc1
  | _ => 0

/-- What SSET of a number writes: zero fields stay zero, ERRW's bits are cleared by writing 1. -/
def Warp.setSpecial (w : Warp) (n : Nat) (x : Word) : Warp :=
  match n with
  | 0x08 => w.setEm x
  | 0x0B => { w with fpctl := x &&& 0x3F }
  | 0x0C => { w with fpstat := x &&& 0x7F }
  | 0x0F => { w with lps0 := x }
  | 0x10 => { w with lpe0 := x }
  | 0x11 => { w with lpc0 := x }
  | 0x12 => { w with lps1 := x }
  | 0x13 => { w with lpe1 := x }
  | 0x17 => { w with msatb := x &&& 0xFFFF }
  | 0x18 => { w with munfb := x &&& 0xFFFF }
  | 0x19 => { w with mcanb := x &&& 0xFFFF }
  | 0x1A => { w with mcank := x &&& 0x1F }
  | 0x1B => { w with rsteep2 := x }
  | 0x1C => { w with rsteep3 := x }
  | 0x1D => { w with rsteep4 := x }
  | 0x1E => { w with rsteep6 := x }
  | 0x1F => { w with rsteep8 := x }
  | 0x20 => { w with mexh := x }
  | 0x21 => w.setFrame 1 x
  | 0x22 => w.setFrame 2 x
  | 0x23 => w.setFrame 3 x
  | 0x24 => w.setFrame 0 x
  | 0x25 => { w with tvec := x }
  | 0x26 => { w.renew (· == .s 64) with hsp := x }
  | 0x27 => { w with prio := x.toNat / 16 % 8, ss := x.getLsbD 1 }
  | 0x2A => { w with quant := x }
  | 0x2B => { w with errw := w.errw &&& ~~~x }
  | 0x2C => { w with lpc1 := x }
  | _ => w

/-- The registers that only handler mode reads (02 R63), and that only it writes. -/
def specialPR (n : Nat) : Bool := n == 0x25 || n == 0x26 || n == 0x2A
def specialP (n : Nat) : Bool := specialPR n || n == 0x27

/-- SGET and SSET (16 R310). -/
def opSget (d : Reg) (n : BitVec 8) : SlotOp :=
  { causes := fun s => if specialPR n.toNat then s.privCause else [],
    early := fun s => (s.sLater 2 d (s.special n.toNat)).onW fun w => if n.toNat = 0x21 then w.seen 1 else w }
def opSset (n : BitVec 8) (a : Reg) : SlotOp :=
  { causes := fun s => if specialP n.toNat then s.privCause else [],
    effect := fun s => s.onW fun w => w.setSpecial n.toNat (w.rdS a.val) }

/-! ## Branches and calls (16 R313 to R315) -/

/-- The bundle at a signed distance, and the next one. -/
def Warp.bundleAt (w : Warp) (off : BitVec 32) : Word := w.pc + 32 * off.signExtend 64
def Warp.link (w : Warp) : Word := w.pc + 32

def opBr (off : BitVec 32) : SlotOp := { next := fun s => some (s.w.bundleAt off) }

/-- BC's condition (02 Table 2.9). -/
def condHolds (cc : BCond) (x : Word) : Bool :=
  match cc with
  | .eqz => x == 0
  | .nez => x != 0
  | .ltz => x.slt 0
  | .gez => !x.slt 0
  | .gtz => (0 : Word).slt x
  | .lez => !(0 : Word).slt x

def opBc (cc : BCond) (cr : Reg) (off : BitVec 32) : SlotOp :=
  { next := fun s => if condHolds cc (s.w.rdS cr.val) then some (s.w.bundleAt off) else none }
def opBzm (off : BitVec 32) : SlotOp := { next := fun s => if s.w.em = 0 then some (s.w.bundleAt off) else none }

/-- CFLOW detail 1 for a register target that is no bundle address (16 R314). -/
def State.targetCause (s : State) (t : Word) : List Cause :=
  if t.toNat % 32 = 0 then [] else [{ code := 4, detail := 1, w0 := s.w.pc, w2 := t, w3 := 0, slots := 0 }]

/-- A checked transfer owes the landing-pad check of its kind (16 R315). -/
def State.owe (s : State) (kind : Nat) : State := s.onW fun w => { w with owed := some { kind := kind, src := s.iss.pc } }

/-- A transfer to a register's target. -/
def regJump (a : Reg) (kind : Nat) (effect : State → State) : SlotOp :=
  { causes := fun s => s.targetCause (s.w.rdS a.val),
    effect := fun s => (effect s).owe kind,
    next := fun s => some (s.w.rdS a.val) }

def opJr (a : Reg) (kind : Fin 16) : SlotOp := regJump a kind.val id
def opCall (d : Reg) (off : BitVec 32) : SlotOp :=
  { effect := fun s => s.sLater 1 d s.w.link, next := fun s => some (s.w.bundleAt off) }
def opCallr (d a : Reg) (kind : Fin 16) : SlotOp := regJump a kind.val fun s => s.sLater 1 d s.w.link
/-- RET checks for kind 2. -/
def opRet (a : Reg) : SlotOp := regJump a 2 id

/-- LPAD has no effect (16 R315). -/
def opLpad (_kind : Fin 16) : SlotOp := .nop

/-! ## Loops (16 R316 to R318) -/

/-- A loop level set; level 0 deactivates level 1. -/
def Warp.setLoop (w : Warp) (lvl : Fin 2) (ls le lc : Word) : Warp :=
  if lvl = 0 then { w with lps0 := ls, lpe0 := le, lpc0 := lc, lpc1 := 0 } else { w with lps1 := ls, lpe1 := le, lpc1 := lc }

/-- LOOP and LOOPI: with a count of 0 control leaves for the bundle after the end. -/
def loopOp (lvl : Fin 2) (end_ : Warp → Word) (cnt : Warp → Word) : SlotOp :=
  { effect := fun s => s.onW fun w => w.setLoop lvl (w.pc + 32) (end_ w) (cnt w),
    next := fun s => if cnt s.w = 0 then some (end_ s.w + 32) else none }
def opLoop (lvl : Fin 2) (cr : Reg) (off : BitVec 32) : SlotOp :=
  loopOp lvl (fun w => w.bundleAt off) fun w => w.rdS cr.val
def opLoopi (lvl : Fin 2) (cnt fin : BitVec 16) : SlotOp :=
  loopOp lvl (fun w => w.pc + 32 * fin.setWidth 64) fun _ => cnt.setWidth 64

/-- A level deactivated, and level 1 with level 0 (16 R318). -/
def Warp.leaveLoop (w : Warp) (lvl : Fin 2) : Warp := if lvl = 0 then { w with lpc0 := 0, lpc1 := 0 } else { w with lpc1 := 0 }
def opLoopx (lvl : Fin 2) : SlotOp := { effect := fun s => s.onW fun w => w.leaveLoop lvl }

/-- The loop-end action (16 R317) of the bundle at pc: the levels after it, and the bundle it repeats from, bits [4:0] of its address
zero (02 R39). -/
def Warp.loopEnd (w : Warp) (pc : Word) : Warp × Option Word :=
  let outer := fun (w : Warp) =>
    if w.lpc0 != 0 && pc == w.lpe0 then
      if w.lpc0 = 1 then ({ w with lpc0 := 0 }, none) else ({ w with lpc0 := w.lpc0 - 1 }, some (bundleAddr w.lps0))
    else (w, none)
  if w.lpc1 != 0 && pc == w.lpe1 then
    if w.lpc1 = 1 then outer { w with lpc1 := 0 } else ({ w with lpc1 := w.lpc1 - 1 }, some (bundleAddr w.lps1))
  else outer w

/-- The levels that a taken transfer to t leaves (16 R318). -/
def Warp.leaveLoops (w : Warp) (t : Word) : Warp :=
  let out := fun (ls le lc : Word) => lc != 0 && (t.ult ls || le.ult t)
  if out w.lps0 w.lpe0 w.lpc0 then w.leaveLoop 0 else if out w.lps1 w.lpe1 w.lpc1 then w.leaveLoop 1 else w

/-! ## Waiting and yielding (16 R319, R320) -/

/-- WAITF: the condition is judged when the warp's next bundle would issue. -/
def opWaitf (t : Option WaitArg) : SlotOp :=
  { effect := fun s => s.onW fun w => { w with run := match t with
      | some a => .waitF a.f.val a.n.val
      | none => .waitAll } }
def opYield : SlotOp := { effect := fun s => s.onIss fun i => { i with ys := true, yielded := true } }

/-! ## Barriers (16 R321 to R323) -/

/-- The barrier an instruction names. -/
def Warp.barIx (w : Warp) (a : Reg) (imm : BitVec 32) : Nat := (w.rdS a.val + imm.setWidth 64).toNat
def State.barAt (s : State) (b : Nat) : Bar := tget Bar.fresh s.co.bars b

/-- PERM detail 8 beyond the cohort's barriers, and detail 9 for an arrival of a non-member. -/
def State.barCauses (s : State) (b : Nat) (member : Bool) : List Cause :=
  if s.co.nbars ≤ b then [s.cause 7 8 (BitVec.ofNat 64 b) 0]
  else if member && !(s.barAt b).mem.contains s.w.warpIdx then [s.cause 7 9 (BitVec.ofNat 64 b) 0]
  else []

def Bar.join (x : Bar) (w : Nat) : Bar := if x.mem.contains w then x else { x with mem := x.mem ++ [w] }
def Bar.arrive (x : Bar) (w : Nat) : Bar := if x.arr.contains w then x else { x with arr := x.arr ++ [w] }

/-- The release fences of the warp in focus, at scope core or wider, that are not done (16 R324). -/
def State.releasing (s : State) : List Nat :=
  (s.core.ops.filter fun o => o.wid == s.w.id && !o.done && o.sc != .warp && match o.kind with
    | .fence .acq _ => false
    | .fence _ _ => true
    | _ => false).map Op.id

/-- An arrival with those fences. -/
def State.arriveAt (s : State) (x : Bar) : Bar := { x.arrive s.w.warpIdx with rels := x.rels ++ s.releasing }

/-- Is the operation numbered id still to be done? -/
def State.pendingOp (s : State) (id : Nat) : Bool := s.allCores.any fun c => c.ops.any fun o => o.id == id && !o.done

/-- A warp's wait on a barrier ends because its phase completed (16 R323, R324). -/
def State.synced (s : State) (b : Bar) (w : Warp) : Warp := { w with syncs := (w.syncs ++ b.lastRels).filter s.pendingOp }

/-- The phase for which a warp would wait at cycle t, if it waits (16 Table 16.3). -/
def Bar.waitFor (x : Bar) (w t : Nat) : Option Nat :=
  if x.mem.contains w && x.arr.contains w then some x.phase
  else if x.mem.contains w && x.last.contains w && decide (t < x.relAt) then some (x.phase - 1)
  else none

/-- A barrier wait of the warp in focus. -/
def State.barWait (s : State) (b : Nat) : State :=
  match (s.barAt b).waitFor s.w.warpIdx s.now with
  | some p => s.onW fun w => { w with run := .waitB b p }
  | none => if (s.barAt b).last.contains s.w.warpIdx then s.onW (s.synced (s.barAt b)) else s

/-- Is the wait on a phase over at cycle t (16 R323)? -/
def Bar.over (x : Bar) (p t : Nat) : Bool := decide (p < x.phase) && decide (x.relAt ≤ t)

/-- A barrier instruction: its checks, and its effect on its barrier's number. -/
def barOp (a : Reg) (imm : BitVec 32) (member : Bool) (f : State → Nat → State) : SlotOp :=
  { causes := fun s => s.barCauses (s.w.barIx a imm) member, effect := fun s => f s (s.w.barIx a imm) }

def opBjoin (a : Reg) (imm : BitVec 32) : SlotOp := barOp a imm false fun s b => s.onBar b fun x => x.join s.w.warpIdx
def opBleave (a : Reg) (imm : BitVec 32) : SlotOp := barOp a imm false fun s b => s.onBar b fun x => x.leave s.w.warpIdx
def opBarv (a : Reg) (imm : BitVec 32) : SlotOp := barOp a imm true fun s b => s.onBar b s.arriveAt
def opBwait (a : Reg) (imm : BitVec 32) : SlotOp := barOp a imm false fun s b => s.barWait b
def opBsync (a : Reg) (imm : BitVec 32) : SlotOp :=
  barOp a imm true fun s b => (s.onBar b s.arriveAt).barWait b

/-! ## Sentences and steps (16 R325, R327) -/

/-- What SENT records of the warp. -/
def Warp.record (w : Warp) : Sentence :=
  { em := w.em, am := w.am, lps0 := w.lps0, lpe0 := w.lpe0, lpc0 := w.lpc0, lps1 := w.lps1, lpe1 := w.lpe1,
    lpc1 := w.lpc1, count := 0 }

/-- SENT: it records the next bundle's address and the loop registers after the loop-end action. -/
def opSent : SlotOp :=
  { effect := fun s => s.onW fun w =>
      { w with
        sepc := s.iss.next,
        sent := w.record } }
def opSentClose : SlotOp := { effect := fun s => s.onW Warp.closeSentence }

/-- The greater of two words, unsigned. -/
def maxWord (a b : Word) : Word := if a.ult b then b else a
def opStep (a : Reg) : SlotOp :=
  { effect := fun s => s.onXl fun x =>
      { x with ctxs := upd (·.id == s.w.ctx) (fun c => { c with stepc := maxWord c.stepc (s.w.rdS a.val) }) x.ctxs } }

/-! ## Traps, return and halt (16 R328, R329, R331) -/

/-- An asynchronous cause raised by the C slot of the bundle being issued (22 Table 22.4 shows its SLOTS). -/
def State.post (s : State) (code detail : Nat) : State :=
  s.onW fun w => { w with pend := w.pend ++ [{ code := code, detail := detail, w2 := s.iss.pc, w3 := 0, slots := slotMask .C }] }

def opTrap (imm : BitVec 16) : SlotOp := { effect := fun s => s.post 12 imm.toNat }
def opBrk (imm : BitVec 12) : SlotOp := { effect := fun s => s.post 13 (4096 + imm.toNat) }

/-- RFT (16 R329): the first bundle after it issues three cycles after its gap. -/
def opRft : SlotOp :=
  { causes := State.privCause,
    effect := fun s => s.rft (s.iss.t + s.iss.gap + 3),
    next := fun s => some (bundleAddr (s.w.frameAt 0)) }

/-- HALTW (16 R331). -/
def opHaltw : SlotOp :=
  { effect := fun s => ((s.onW fun w => { w with run := .halted }).notify s.w.id s.iss.pc).onIss fun i => { i with ys := true } }

end Sys2Proof.Machine
end

