-- ==== Sys2Proof/Machine/SlotOps.lean ====
section
/-! DEFINITION. Each slot instruction's operation at issue; the steps that are not slot instructions have none. -/

namespace Sys2Proof.Machine

/-- The NOPs of the M, E and C slots (02 R41). -/
def opMnop : SlotOp := .nop
def opEnop : SlotOp := .nop
def opCnop : SlotOp := .nop

/-- A slot instruction's operation. -/
def slotOp : Instr → SlotOp
  | .vnop => opVnop
  | .vadd h a b sat => opVadd h a b sat
  | .vsub h a b sat => opVsub h a b sat
  | .vmul h a b sat => opVmul h a b sat
  | .vmulh h a b => opVmulh h a b
  | .vmad h a b c sat => opVmad h a b c sat
  | .vneg h a sat => opVneg h a sat
  | .vabs h a sat => opVabs h a sat
  | .vmin h a b => opVmin h a b
  | .vmax h a b => opVmax h a b
  | .vavg h a b fl => opVavg h a b fl
  | .vsad h a b c sat => opVsad h a b c sat
  | .vdot h a b c sat => opVdot h a b c sat
  | .vshl h a b sat => opVshl h a b sat
  | .vshr h a b => opVshr h a b
  | .vsra h a b => opVsra h a b
  | .vrot h a b => opVrot h a b
  | .vand h a b => opVand h a b
  | .vor h a b => opVor h a b
  | .vxor h a b => opVxor h a b
  | .vandn h a b => opVandn h a b
  | .vnot h a => opVnot h a
  | .vclz h a => opVclz h a
  | .vpopc h a => opVpopc h a
  | .vbrev h a => opVbrev h a
  | .vbfx h a b => opVbfx h a b
  | .vbfi h a b c => opVbfi h a b c
  | .vcmp h a b cc => opVcmp h a b cc
  | .vsel h a b c => opVsel h a b c
  | .vmov h a => opVmov h a
  | .vprm h a b c => opVprm h a b c
  | .vlane h m => opVlane h m
  | .vaddi h a imm => opVaddi h a imm
  | .vandi h a imm => opVandi h a imm
  | .vori h a imm => opVori h a imm
  | .vxori h a imm => opVxori h a imm
  | .vimm h imm => opVimm h imm
  | .vfadd h a b sat r => opVfadd h a b sat r
  | .vfsub h a b sat r => opVfsub h a b sat r
  | .vfmul h a b sat r => opVfmul h a b sat r
  | .vfma h a b c sat r => opVfma h a b c sat r
  | .vfnma h a b c sat r => opVfnma h a b c sat r
  | .vfmin h a b => opVfmin h a b
  | .vfmax h a b => opVfmax h a b
  | .vfcmp h a b cc => opVfcmp h a b cc
  | .vfclass h a => opVfclass h a
  | .vfrnd h a r => opVfrnd h a r
  | .vfscl h a b sat r => opVfscl h a b sat r
  | .vfdot2 h a b c sat r => opVfdot2 h a b c sat r
  | .vfkey h a => opVfkey h a
  | .vcvt h a src sat r => opVcvt h a src sat r
  | .vpack h a b src sat r => opVpack h a b src sat r
  | .vunpk h a src => opVunpk h a src
  | .vbexp h a => opVbexp h a
  | .vbq h a => opVbq h a
  | .vbdq h a sat r => opVbdq h a sat r
  | .vrcp h a sat => opVrcp h a sat
  | .vrsq h a sat => opVrsq h a sat
  | .vsqrt h a sat => opVsqrt h a sat
  | .vexp2 h a sat => opVexp2 h a sat
  | .vlog2 h a sat => opVlog2 h a sat
  | .vsinp h a sat => opVsinp h a sat
  | .vcosp h a sat => opVcosp h a sat
  | .vtanh h a sat => opVtanh h a sat
  | .vshfl h a b => opVshfl h a b
  | .vshflr h a b m => opVshflr h a b m
  | .vbcst h a b => opVbcst h a b
  | .vscan h a sat r op ex => opVscan h a sat r op ex
  | .vred h a sat r op => opVred h a sat r op
  | .vcomp h a => opVcomp h a
  | .vget h a b => opVget h a b
  | .vins h a b => opVins h a b
  | .vtrd h hd b => opVtrd h hd b
  | .vtwr h a b => opVtwr h a b
  | .mnop => opMnop
  | .lld d w a le xn => opLld d w a le xn
  | .lst d w a => opLst d w a
  | .llds d w sb imm => opLlds d w sb imm
  | .lsts d w sb imm => opLsts d w sb imm
  | .latom d w a op => opLatom d w a op
  | .lcas d w a => opLcas d w a
  | .qenq d w sb imm => opQenq d w sb imm
  | .qdeq d w sb imm le xn => opQdeq d w sb imm le xn
  | .qstat d sb imm => opQstat d sb imm
  | .gld k f d w a => opGld k f d w a
  | .gst k f d w a => opGst k f d w a
  | .gatom k f d w a op => opGatom k f d w a op
  | .gred k f d w a op => opGred k f d w a op
  | .gcas k f d w a => opGcas k f d w a
  | .gldc k d w a le xn => opGldc k d w a le xn
  | .sldc k d w sb imm => opSldc k d w sb imm
  | .sgld k f d w sb imm => opSgld k f d w sb imm
  | .sgst k f d w sb imm => opSgst k f d w sb imm
  | .fence kind sc f mask => opFence kind sc f mask
  | .l1inv => opL1inv
  | .wcfl f => opWcfl f
  | .pref w a => opPref w a
  | .hint f d sb sh imm => opHint f d sb sh imm
  | .phase imm => opPhase imm
  | .signal k f d sb imm op => opSignal k f d sb imm op
  | .sack sb imm => opSack sb imm
  | .quiet f d => opQuiet f d
  | .sarm q sb imm => opSarm q sb imm
  | .sarmOff sb imm => opSarmOff sb imm
  | .launch f d sb imm => opLaunch f d sb imm
  | .pgfetch f kind d sb imm => opPgfetch f kind d sb imm
  | .xinv f d sb imm => opXinv f d sb imm
  | .enop => opEnop
  | .cpygl k f sa sd sg sx => opCpygl k f sa sd sg sx
  | .cpylg k f sa sd sg sx => opCpylg k f sa sd sg sx
  | .cpyll f sa sd sg sx => opCpyll f sa sd sg sx
  | .cpygg k f sa sd sg sx pk => opCpygg k f sa sd sg sx pk
  | .cpyfil f sd sg imm hi g => opCpyfil f sd sg imm hi g
  | .cpyp f sa sg ch => opCpyp f sa sg ch
  | .tld f hd base pit tr => opTld f hd base pit tr
  | .tst f hd base pit tr => opTst f hd base pit tr
  | .talloc hd sdesc sst => opTalloc hd sdesc sst
  | .tfree hd => opTfree hd
  | .thand hd st => opThand hd st
  | .ttake hd se sst => opTtake hd se sst
  | .tdesc hd sd => opTdesc hd sd
  | .tsetd hd sdesc => opTsetd hd sdesc
  | .mzero f hd => opMzero f hd
  | .mhfa f et hd ha hb x32 win => opMhfa f et hd ha hb x32 win
  | .mbmm f rg hd ha hb win => opMbmm f rg hd ha hb win
  | .msca f hd ha => opMsca f hd ha
  | .mhad f et hd => opMhad f et hd
  | .mdrn f hd ha blk => opMdrn f hd ha blk
  | .mcvt f et hd ha => opMcvt f et hd ha
  | .madd f et hd ha => opMadd f et hd ha
  | .mscl f hd ha row => opMscl f hd ha row
  | .msetd f sa => opMsetd f sa
  | .cnop => opCnop
  | .sadd d a b => opSadd d a b
  | .ssub d a b => opSsub d a b
  | .smul d a b => opSmul d a b
  | .smulh d a b u => opSmulh d a b u
  | .sdiv d a b u => opSdiv d a b u
  | .srem d a b u => opSrem d a b u
  | .sand d a b => opSand d a b
  | .sor d a b => opSor d a b
  | .sxor d a b => opSxor d a b
  | .sandn d a b => opSandn d a b
  | .sshl d a b => opSshl d a b
  | .sshr d a b => opSshr d a b
  | .ssra d a b => opSsra d a b
  | .smin d a b u => opSmin d a b u
  | .smax d a b u => opSmax d a b u
  | .scmp cc d a b => opScmp cc d a b
  | .ssel d a b c => opSsel d a b c
  | .spopc d a => opSpopc d a
  | .sclz d a => opSclz d a
  | .sctz d a => opSctz d a
  | .sbfx d a b sx => opSbfx d a b sx
  | .sbfi d a b c => opSbfi d a b c
  | .saddi d a imm => opSaddi d a imm
  | .sandi d a imm => opSandi d a imm
  | .sori d a imm => opSori d a imm
  | .sxori d a imm => opSxori d a imm
  | .sli d imm => opSli d imm
  | .slih d a imm => opSlih d a imm
  | .sshli d a n => opSshli d a n
  | .sshri d a n ar => opSshri d a n ar
  | .sget d n => opSget d n
  | .sset n a => opSset n a
  | .emset a => opEmset a
  | .emand d a => opEmand d a
  | .emget d => opEmget d
  | .exit m => opExit m
  | .br off => opBr off
  | .bc cc cr off => opBc cc cr off
  | .bzm off => opBzm off
  | .jr a kind => opJr a kind
  | .call d off => opCall d off
  | .callr d a kind => opCallr d a kind
  | .ret a => opRet a
  | .lpad kind => opLpad kind
  | .loop lvl cr off => opLoop lvl cr off
  | .loopi lvl cnt fin => opLoopi lvl cnt fin
  | .loopx lvl => opLoopx lvl
  | .waitf t => opWaitf t
  | .yield => opYield
  | .bjoin a imm => opBjoin a imm
  | .bleave a imm => opBleave a imm
  | .barv a imm => opBarv a imm
  | .bwait a imm => opBwait a imm
  | .bsync a imm => opBsync a imm
  | .sent => opSent
  | .sentClose => opSentClose
  | .step a => opStep a
  | .trap imm => opTrap imm
  | .rft => opRft
  | .tfrd d a imm => opTfrd d a imm
  | .tfwr v a imm => opTfwr v a imm
  | .brk imm => opBrk imm
  | .haltw => opHaltw
  | .bundleIssue _ | .resultWriteback _ | .asyncResultWrite _ _ | .accessComplete _ _ | .trapDelivery _
  | .sentenceRestart _ | .lockstepDisagreement _ | .warpSwitch _ | .quantumExpiry _ | .holdtmo _ | .waitfWake _
  | .barrierRelease _ _ | .fifoOpResume _ | .phaseDrainEnd _ | .warpResourceRelease _ | .slotClearDone _ _
  | .vtwrCommit _ | .matrixEntryStart _ | .mbmmPassEnd _ _ | .matrixEntryFinish _ _ | .copyComplete _ _
  | .copySuspend _ _ | .cpypFlitArrival _ _ | .signalRecordAppend _ _ | .lineRequest _ _ | .l2Atomic _ _
  | .pinRetryReplay _ | .pinTimeout _ | .l2Writeback _ | .eccWriteback _ | .scrub _ | .heartbeatReceived _
  | .heartbeatMiss _ | .stackFailed _ | .stackRetrainDone _ | .tlbWalkStart _ _ _ | .walkComplete _ _ _
  | .tierPromote _ _ | .migrationComplete _ _ | .migrationNodeFailure _ _ | .wcAgeDrain _ _ | .linkTrain _ _
  | .laneStateChange _ _ | .laneRetire _ | .pathDown _ | .retransmit _ | .remoteRequestArrival _
  | .streamResume _ | .streamAbort _ | .remoteReply _ _ | .drcExpire _ | .waveStart _ | .waveEnd _ _ _
  | .qtmoExpiry _ _ | .participantTimeout _ _ | .nodeFailure _ | .gangPlace _ _ | .launchComplete _
  | .watchdogExpiry _ | .stubRedirect _ _ _ | .powerOn _ | .inputDisconnect _ | .railSample _ _
  | .fluxEstimate _ _ _ | .backstop _ | .caddyExtInterrupt _ | .caddyTimerInterrupt _ | .alertClear _ _
  | .throtWrite _ _ _ | .capfluxWrite _ _ | .pcapWrite _ _ | .powerRegWrite _ _ _ | .otherDatagram _
  | .session _ | .ctxnew _ _ _ | .ctxend _ _ | .map _ _ _ | .unmap _ _ _ _ _ | .write _ _ _ _ | .read _ _ _ _
  | .modload _ _ _ | .hostLaunch _ _ _ | .queueCreate _ _ _ _ _ | .queueBind _ _ _ | .queueEnd _ _
  | .queueSet _ _ _ _ _ | .part _ _ | .preempt _ _ | .resume _ _ _ | .reset _ _ | .qfix _ _ _ | .stackcfg _ _ _
  | .window _ _ _ _ _ _ | .telem _ _ | .attest _ _ | .power _ _ _ _ | .fjodyDebug _ _ | .landingPadCheck _
  | .inflightReplay _ | .refreshHandBack _ | .registerParticipantSet _ _ | .softError _ => .nop

end Sys2Proof.Machine
end

