-- ==== Sys2Proof/Machine/Bundle.lean ====
section
/-! DEFINITION. Issuing a bundle: fetch, the boundary's causes, holds, the debug comparators, the commit, the scheduler
(spec 02 R40 to R51; 16 R315 to R318; 17 R344 to R348; 18 R353 to R366). -/

namespace Sys2Proof.Machine

/-! ## A bundle at issue -/

/-- A slot of a bundle: its instruction, the ILLOP detail that rejects its syllable, its operation. -/
structure Syl where
  sl  : Slot
  i   : Instr
  ill : Option Nat
  op  : SlotOp

/-- A bundle: its slots in the order V, M, E, C, its gap, its yield-safe bit. -/
structure Bun where
  syls : List Syl
  gap  : Nat
  ys   : Bool

/-- A slot as its syllable decodes. -/
def sylOf (sl : Slot) (w : Nat) : Syl :=
  { sl := sl, i := (decodeSyl sl w).i, ill := lowest ((decodeSyl sl w).bad ++ (decodeSyl sl w).i.details),
    op := slotOp (decodeSyl sl w).i }

/-- The bundle whose 256 bits are n. -/
def readBun (n : Nat) : Bun :=
  { syls := [sylOf .V (fld n 0 64), sylOf .M (fld n 64 64), sylOf .E (fld n 128 64), sylOf .C (fld n 192 64)],
    gap := fld n 253 3, ys := isOne (fld n 252 1) }

/-- The NOP of a slot (02 R41). -/
def nopOf : Slot → Instr
  | .V => .vnop | .M => .mnop | .E => .enop | .C => .cnop

/-- The bundle that holds i alone, with gap 0 and its yield-safe bit clear. -/
def oneBun (i : Instr) (op : SlotOp) : Bun :=
  { syls := [Slot.V, .M, .E, .C].map fun sl =>
      if i.slot = some sl then { sl := sl, i := i, ill := i.illop, op := op }
      else { sl := sl, i := nopOf sl, ill := none, op := .nop },
    gap := 0, ys := false }

/-- Its C slot. -/
def Bun.ctl (b : Bun) : Option Syl := b.syls.find? fun y => y.sl == .C

/-! ## Fetch (04 R97 to R99) -/

/-- What a fetch gives: the bundle's bits, a fault, a hold on a migrating page or a TLB miss, a wait for memory that is away, an address
that does not exist. -/
inductive Fetched where
  | bits (n : Nat) (s : State)
  | fault (c : Cause)
  | hold
  | wait
  | nowhere (pa : Nat)
  deriving DecidableEq, Repr

/-- 256 free bits: what a fetch from poisoned memory or over the fabric delivers, which the manual does not state. -/
def State.freeBits (s : State) : Fetched :=
  .bits ((Config.freeWord s.freeCtr).toNat + 2 ^ 64 * (Config.freeWord (s.freeCtr + 1)).toNat +
    2 ^ 128 * (Config.freeWord (s.freeCtr + 2)).toNat + 2 ^ 192 * (Config.freeWord (s.freeCtr + 3)).toNat)
    { s with freeCtr := s.freeCtr + 4 }

/-- The warp's next bundle fetched; a fault reports its address in words 0 and 2. Its line may lie in a stack that retrains (03 R71) or be
pinned to another core (05 R106): then it waits. -/
def State.fetch (s : State) : Fetched :=
  match s.xlate s.w.ctx s.w.pc.toNat [4] with
  | .fault c d => .fault (syncCause s.w.pc c d)
  | .migrating | .miss => .hold
  | .nowhere pa => .nowhere pa
  | .ok (.main pa) _ =>
    if s.mem.away (pa / 32) || s.pinnedElsewhere s.core.no (pa / 128) then .wait else
    let s1 := (s.fillTlb s.w.ctx s.w.pc.toNat).makeRoom (pa / 128)
    let r := s1.fetchFor s.w.id pa Config.bundleBytes
    if r.2.2 = [] then .bits (leNat r.2.1) r.1 else r.1.freeBits
  | .ok _ _ => s.freeBits

/-! ## Causes of a bundle (18 R353) -/

/-- Does a geometry scalar have its zf bit set (09 R180)? -/
def Warp.zfBit (w : Warp) (r : Reg) : Bool := (w.rdS r.val).getLsbD 54

/-- What the slots name, for the port limits. -/
def Bun.ports (b : Bun) (w : Warp) : List SlotPorts := b.syls.map fun y => { sl := y.sl, p := portsOf w.zfBit y.i }

/-- ILLOP of a slot, its SLOTS bit set. -/
def illopOf (pc : Word) (sl : Slot) (d : Nat) : Cause := { syncCause pc 2 d with slots := slotMask sl }

/-- The causes that a slot raises: a rejected syllable only ILLOP, of all the details that apply (02 R42). -/
def Syl.causes (y : Syl) (s : State) : List Cause :=
  (if overRegs s.w.nregs (portsOf s.w.zfBit y.i) then [illopOf s.w.pc y.sl 6] else []) ++
  (match y.ill with
    | some d => illopOf s.w.pc y.sl d :: ((y.op.causes s).filter (·.code == 2)).map fun c => { c with slots := slotMask y.sl }
    | none => (y.op.causes s).map fun c => { c with slots := slotMask y.sl })

/-- A hold that a slot asks for, with its SLOTS bit; one of a rejected syllable is none. -/
def Syl.hold (y : Syl) (s : State) : Option (Nat × Nat) :=
  if y.ill.isSome then none else (y.op.hold s).map fun c => (c, slotMask y.sl)

/-- The flags a bundle counts. -/
def Bun.flags (b : Bun) : List FlagNo := b.syls.filterMap fun y => y.op.flag

/-- The holds at issue (17 Table 17.3): a flag that would pass 63 is code 8. -/
def Bun.holds (b : Bun) (s : State) : List (Nat × Nat) :=
  (b.syls.filterMap fun y => y.hold s) ++
  (if s.overFull b.flags then
    [(8, (b.syls.filter fun y => y.op.flag.isSome).foldl (fun a y => a ||| slotMask y.sl) 0)] else [])

/-! ## Debug comparators (18 R364, R365) -/

/-- A comparator that matches: its action, the DEBUG cause it would raise. -/
structure Hit where
  act : Nat
  c   : Cause
  deriving DecidableEq, Repr

/-- The other core of a lockstep pair: a debug stop of either holds both, so that its comparators count too (19 R371, R372). A core that
is in no pair has none. -/
def State.twin (s : State) : CoreSt := if s.w.prot then s.core.behind (s.coreAt (s.core.no + 1)) else CoreSt.fresh s.core.no

/-- Is a core's comparator on for the warp in focus? One with ACT 3 is not, in handler mode. -/
def State.armed (s : State) (c : CoreSt) (k : Cmpr) : Bool :=
  let act := k.ctl.toNat % 4
  act != 0 && (!k.ctl.getLsbD 2 || c.cmpCtx == s.w.ctx) && !(act == 3 && s.w.hm)

/-- ADDR, as a multiple of 32. -/
def Cmpr.line (k : Cmpr) : Nat := k.ctl.toNat / 32 % 2 ^ 51

/-- The PC comparators of a core that match. -/
def State.pcHits (s : State) (c : CoreSt) : List Hit :=
  c.pcCmp.filterMap fun p =>
    let m := s.w.em &&& p.2.qual
    if s.armed c p.2 && p.2.line == s.w.pc.toNat / 32 % 2 ^ 51 && m != 0 then
      some { act := p.2.ctl.toNat % 4,
             c := { code := 13, detail := 3 * 4096 + p.1, w0 := s.w.pc, w2 := s.w.pc, w3 := m, slots := 0 } }
    else none

/-- Does a touch meet a comparator's window, in the way its KIND names? -/
def Cmpr.meets (k : Cmpr) (t : Touch) : Bool :=
  let kind := k.ctl.toNat / 8 % 4
  decide (t.va < 32 * (k.line + 1)) && decide (32 * k.line < t.va + t.n) &&
  ((kind != 2 && kind != 0 && t.rd) || (kind != 1 && kind != 0 && t.wr))

/-- The data comparators of a core that match the lanes of EM and QUAL. -/
def State.dataHits (s : State) (ts : List Touch) (c : CoreSt) : List Hit :=
  c.dataCmp.filterMap fun p =>
    match ts.filter fun t => p.2.meets t && (s.w.em &&& p.2.qual).getLsbD t.lane with
    | [] => none
    | t :: l =>
      if s.armed c p.2 then
        some { act := p.2.ctl.toNat % 4,
               c := { code := 13, detail := 4 * 4096 + p.1, w0 := s.w.pc, w2 := BitVec.ofNat 64 t.va,
                      w3 := maskOf ((t :: l).map Touch.lane), slots := slotMask .M } }
      else none

def Bun.hits (b : Bun) (s : State) : List Hit :=
  [s.core, s.twin].flatMap s.pcHits ++ [s.core, s.twin].flatMap (s.dataHits ((b.syls.filter fun y => y.ill.isNone).flatMap fun y => y.op.touch s))

/-- The synchronous causes of a bundle but for HOLDTMO. -/
def Bun.causes (b : Bun) (s : State) : List Cause :=
  illbun s.w.pc (b.ports s.w) ++ b.syls.flatMap (fun y => y.causes s) ++
  ((b.hits s).filter fun h => h.act == 3).map Hit.c

/-! ## Delivery (18 R353 to R360) -/

/-- The base scalars of an access (18 R360): M-slot addresses, TLD, TST and copies. -/
def basesOf : Instr → List Reg
  | .lld _ _ a _ _ | .lst _ _ a | .gldc _ _ _ a _ _ | .pref _ a => [a.sb]
  | .latom _ _ a _ | .lcas _ _ a | .gld _ _ _ _ a | .gst _ _ _ _ a | .gatom _ _ _ _ a _ | .gred _ _ _ _ a _
  | .gcas _ _ _ _ a => [a.sb]
  | .llds _ _ sb _ | .lsts _ _ sb _ | .sldc _ _ _ sb _ | .sgld _ _ _ _ sb _ | .sgst _ _ _ _ sb _
  | .signal _ _ _ sb _ _ | .sarm _ sb _ | .launch _ _ sb _ | .qenq _ _ sb _ | .qdeq _ _ sb _ _ _ | .qstat _ sb _ | .sarmOff sb _
  | .sack sb _ => [sb]
  | .cpygl _ _ sa sd _ _ | .cpylg _ _ sa sd _ _ | .cpyll _ sa sd _ _ | .cpygg _ _ sa sd _ _ _ => [sa, sd]
  | .cpyfil _ sd _ _ _ _ => [sd]
  | .cpyp _ sa _ _ => [sa]
  | .tld _ _ b _ _ | .tst _ _ b _ _ => [b]
  | _ => []

/-- Is a cause a fault, or a HOLDTMO, of an access whose base scalar is s62? -/
def Bun.viaHsp (b : Bun) (c : Cause) : Bool :=
  (decide (5 ≤ c.code ∧ c.code ≤ 7) || c.code == 15) &&
  b.syls.any fun y => c.slots &&& slotMask y.sl != 0 && (basesOf y.i).any fun r => r.val == 62

/-- No hold is in force. -/
def State.unhold (s : State) : State := s.onCore fun k => { k with hold := none, paused := none, miss := [], walked := [], want := [] }

/-- The causes at a boundary delivered, synchronous ones before asynchronous ones of the same code; in handler mode a
double fault. Every cause not reported is marked in OTHER. -/
def State.deliver (s : State) (sync : List Cause) (owed : Option Owed) (viaHsp : Cause → Bool) : State :=
  match report (gathered sync s.asyncCauses) with
  | none => s
  | some c =>
    let s1 := s.unhold
    let isSync := sync.any fun d => d.code == c.code
    let left := (s.asyncCauses.filter fun d => d.code == c.code).length - (if isSync then 0 else 1)
    let other := otherBits c.code (sync ++ s.asyncCauses) + (if 0 < left then 2 ^ (15 + c.code) else 0)
    if s.w.hm then s1.doubleFault c other owed (viaHsp c)
    else
      (if isSync then s1 else s1.clearCause c).takeTrap c other owed

/-- The landing-pad check that fails (16 R315), if one is owed. -/
def Bun.padCause (b : Bun) (s : State) : Option Cause :=
  match s.w.owed with
  | none => none
  | some o =>
    let no := fun d => some { code := 4, detail := d, w0 := s.w.pc, w2 := o.src, w3 := 0, slots := 0 : Cause }
    match b.ctl with
    | some { i := .lpad k, ill := none, .. } => if k.val = o.kind then none else no 3
    | _ => no 2

/-- The landing-pad check made. -/
def Warp.settled (w : Warp) : Warp := { w with owed := none }

/-- What is taken at the boundary in place of the bundle: a failed landing-pad check before any other trap, then the
reported cause. A page that migrates is waited for first, since no lane's faults are known before (04 R97), unless an
asynchronous cause ends the hold (18 R354). -/
def Bun.taken (b : Bun) (s : State) : Option State :=
  let s1 := s.onW Warp.settled
  match b.padCause s with
  | some c =>
    let s2 := s1.unhold
    let other := otherBits c.code (c :: s2.asyncCauses)
    some (if s2.w.hm then s2.doubleFault c other none false else s2.takeTrap c other none)
  | none =>
    let sync := if s1.asyncCauses = [] && (b.holds s1).any (fun h => h.1 == 1) then [] else b.causes s1
    if sync = [] && s1.asyncCauses = [] then none else some (s1.deliver sync none b.viaHsp)

/-! ## The scheduler (17 R344 to R346) -/

/-- Is the condition that a warp waits for met? A waiting warp is not ready before; a halted or retired one never. -/
def State.waitOver (s : State) (w : Warp) : Bool :=
  match w.run with
  | .ready => true
  | .waitF f n => w.flagLe f n
  | .waitAll => w.flagsZero
  | .waitB b p =>
    match s.allCohorts.find? (·.cid == w.cid) with
    | some co => (tget Bar.fresh co.bars b).over p s.now
    | none => true
  | _ => false

/-- Does the warp wait at a boundary with something to take there (18 R354, 19 R370)? -/
def State.hasPending (s : State) (w : Warp) : Bool :=
  !w.hm && (w.pend != [] || w.restart != [] || w.soon.any (fun p => decide (p.1 ≤ s.now)) || w.sigBad.any (fun t => decide (t ≤ s.now)) ||
    s.core.copies.any fun c => c.wid == w.id && c.susp.any fun u => !u.reported)

/-- May the warp issue, or take something at its boundary? -/
def State.mayIssue (s : State) (w : Warp) : Bool :=
  w.id != 0 && w.run != .halted && w.run != .retired && !w.stopReq && w.image.isNone && (s.waitOver w || s.hasPending w)

/-- The eligible warps of the core in focus. -/
def State.eligible (s : State) : List Warp := s.allWarps.filter fun w => w.corE == s.core.no && s.mayIssue w

/-- The warps of a list with the highest priority, and of those the ones whose last issue lies furthest back. -/
def bestOf (l : List Warp) : List Warp :=
  let hi := (l.map Warp.prio).foldl max 0
  let l1 := l.filter fun w => w.prio == hi
  match leastOf (l1.map Warp.lastIssue) with
  | some t => l1.filter fun w => w.lastIssue == t
  | none => []

/-- Handle changes taken at once. -/
def Warp.applyPend (w : Warp) : Warp :=
  { w.hpend.foldl (fun w p => match p.act with
      | .bind h n => { w with h := tset 0 w.h h (n + 1) }
      | .unbind h => { w with h := tset 0 w.h h 0 }
      | .setDesc _ _ => w) w with hpend := [] }
def CoreSt.applyPend (c : CoreSt) (l : List HPend) : CoreSt :=
  l.foldl (fun c p => match p.act with
    | .setDesc n d => { c with slots := tset TSlot.free c.slots n { tget TSlot.free c.slots n with desc := d } }
    | _ => c) c

/-- A warp switched out: its results are written before it issues again (02 R49), its latches are lost (02 R45). One restored from its
image has not issued since, and keeps what the image gave it (18 R363). -/
def Warp.switchOut (w : Warp) : Warp := if w.replay.isSome then w else { (w.flushAll.applyPend).renew RegSite.inLatch with x := [] }

/-- The warps of the core in focus that p picks switched out. -/
def State.switchOut (s : State) (p : Warp → Bool) : State :=
  let others := fun (w : Warp) => w.corE == s.core.no && p w
  let acts := (s.allWarps.filter others).flatMap Warp.hpend
  (s.onCore fun c => c.applyPend acts).mapWarps others Warp.switchOut

/-- The warp numbered id becomes the running one: every other warp of the core is switched out. -/
def State.switchIn (s : State) (id : Nat) : State :=
  let s1 := ((s.switchOut fun w => w.id != id).focus id).unhold
  s1.onCore fun c => { c with running := some id, qstart := max c.cycle s1.w.nextIssue, switchReq := false }

/-- A choice among eligible warps; where the rules leave several, a free one. With none, the core has switched away from its warp all
the same, and stands idle (17 R345). -/
def State.choose (s : State) (l : List Warp) : State :=
  match bestOf l with
  | [] => ((s.switchOut fun _ => true).unhold).onCore fun c => { c with running := none, switchReq := false }
  | [w] => s.switchIn w.id
  | ws => { (s.switchIn ((ws.map Warp.id).getD (Config.freeNat s.freeCtr % ws.length) 0)) with freeCtr := s.freeCtr + 1 }

/-- The scheduler after a bundle of the running warp: y says that it was yield-safe, yl that it was a YIELD. -/
def State.schedule (s : State) (y yl : Bool) : State :=
  let due := s.core.switchReq || decide (s.core.qstart + s.w.quant.toNat + 1 ≤ s.w.lastIssue)
  let others := s.eligible.filter fun w => w.id != s.w.id
  if s.w.run = .halted || s.w.run = .retired then s.choose others
  else if !y then s
  else if yl && others != [] || !s.mayIssue s.w then s.choose others
  else if due then
    if others.any fun w => decide (s.w.prio ≤ w.prio) then s.choose others
    else s.onCore fun c => { c with qstart := c.cycle, switchReq := false }
  else s

/-- A waiting warp that runs on; one that waited on a barrier comes after the releases of its phase (16 R324). -/
def State.awake (s : State) (w : Warp) : Warp :=
  match w.run with
  | .waitB b _ => { s.synced (tget Bar.fresh s.co.bars b) w with run := .ready }
  | _ => { w with run := .ready }

/-- A waiting warp whose condition holds runs on. -/
def State.wake (s : State) : State := if s.waitOver s.w then s.onW s.awake else s

/-- A restored warp at its first boundary: the records of its image are in flight from there on (18 R363). -/
def State.replayed (s : State) : State :=
  match s.w.replay with
  | some img =>
    if s.w.run = .ready || s.hasPending s.w then
      s.onW fun w => { w with fly := (replayAll { w with frame := img } s.now).foldl (fun l g => insFly g l) w.fly, replay := none }
    else s
  | none => s

/-- The warp in focus at the boundary before its next bundle. -/
def State.boundary (s : State) : State :=
  let s1 := s.advance s.w.nextIssue
  ((s1.onW fun w => w.ripe s1.now).disagreed.wake).replayed

/-! ## The commit (02 R40; 16 R317, R318; 18 R366) -/

/-- The bundle's timing and next address: a taken transfer's target, else the loop-end action's (16 R317). -/
def Bun.issueOf (b : Bun) (s : State) : Issue × Bool :=
  let target := b.ctl.bind fun y => y.op.next s
  ({ pc := s.w.pc, next := target.getD (((s.w.loopEnd s.w.pc).2).getD (s.w.pc + 32)), t := s.now, gap := b.gap, ys := b.ys,
     yielded := false }, target.isSome)

/-- The slots' effects: the early reads, V, M and E, the loop registers, then C. -/
def Bun.effects (b : Bun) (s : State) : State :=
  let i := b.issueOf s
  let s0 := b.syls.foldl (fun s y => y.op.early s) { s with iss := i.1 }
  let s1 := s0.countUp b.flags
  let s2 := (b.syls.filter fun y => y.sl != .C).foldl (fun s y => y.op.effect s) s1
  let s3 := s2.onW fun w => if i.2 then w.leaveLoops i.1.next else (w.loopEnd i.1.pc).1
  match b.ctl with
  | some y => y.op.effect s3
  | none => s3

/-- The throttle holds of n cycles: THROT of the core's group out of every 16 (27 Table 27.1, 17 Table 17.3). -/
def State.throttle (s : State) (n : Nat) : Nat :=
  let k := tget 0 (tget DieP.fresh s.dies (s.core.no / 256)).throt (s.core.no % 256 / 16)
  (s.now + n) * k / (16 - k) - s.now * k / (16 - k)
def State.throttled (s : State) (n : Nat) : State := s.heldFor (s.throttle n)

/-- What the bundle leaves behind: the next address and issue cycle, a single step's cause, the clock moved on, the
scheduler. -/
def State.close (s : State) (taken step : Bool) : State :=
  let i := s.iss
  let s1 := s.onW fun w =>
    { w with
      pc := i.next, nextIssue := i.t + i.gap + (if taken then 3 else 1), lastIssue := i.t + 1,
      pend := if step && w.run != .retired
        then w.pend ++ [{ code := 13, detail := 2 * 4096, w2 := i.pc, w3 := 0, slots := 0 }] else w.pend }
  let s2 := { (s1.unhold).throttled (s1.w.nextIssue - s1.now) with iss := Issue.idle }
  ((s2.advance s1.w.nextIssue).wake).schedule i.ys i.yielded

/-- The words of the frame store that an instruction of the C slot reads (16 R329, R330; 02 Table 2.12). -/
def Warp.readsFrame (w : Warp) (i : Instr) (k : Nat) : Bool :=
  match i with
  | .tfrd _ a imm => w.frameIx a imm == k
  | .rft => true
  | .sget _ n => n.toNat == [0x24, 0x21, 0x22, 0x23].getD k 256
  | _ => false

/-- Does an operand select a vector register, a latch? -/
def Sel.isV (o : Sel) (r : Nat) : Bool := match o with
  | .v q => q.val == r
  | _ => false
def Sel.isX (o : Sel) (k : Nat) : Bool := match o with
  | .x q => q.val == k
  | _ => false

/-- Does a syllable read lane l of the register or latch that p picks, which it names: in the lanes of its set, or in those from which a
cross-lane instruction takes its operand? -/
def Syl.readsLane (y : Syl) (w : Warp) (nm : Bool) (p : Sel → Bool) (l : Nat) : Bool :=
  match w.crossLanes y.i with
  | some (a, b, m) => (p a && m.getLsbD l) || (p b && (w.lanesS nm).getLsbD l)
  | none => (w.lanesS nm).getLsbD l

/-- Does a syllable read a word of the warp's storage: of a vector register or a latch in a lane, a scalar register or HSP, a word
of the frame? -/
def Syl.reads (y : Syl) (w : Warp) (r : RegSite) : Bool :=
  let p := portsOf w.zfBit y.i
  y.ill.isNone && match r with
    | .v r l => p.vr.contains r && y.readsLane w p.nm (fun o => Sel.isV o r) l
    | .x k l => p.xr.contains k && y.readsLane w p.nm (fun o => Sel.isX o k) l
    | .s r => p.sr.contains r || (r == 64 && match y.i with
      | .sget _ n => n.toNat == 0x26
      | _ => false)
    | .frame k => w.readsFrame y.i k

/-- The lanes of some words. -/
def siteLanes (l : List RegSite) : Mask :=
  maskOf (l.filterMap fun
    | .v _ i | .x _ i => some i
    | _ => none)

/-- Words with an uncorrectable error that the bundle reads are consumed (19 R368, R369): word 3 names the lanes of those of a vector
register or a latch. -/
def Bun.readBad (b : Bun) (s : State) : State :=
  if s.w.bad = [] then s
  else
    let hit := fun r => b.syls.any fun y => y.reads s.w r
    s.consumeIf s.w.id ((s.w.bad.filter hit) != []) (siteLanes (s.w.bad.filter hit))

/-! ## The commit signature (19 R373) -/

/-- The CRC-64 of some bytes, most significant bit first, from zero: log 63. -/
def crcByte (c : BitVec 64) (b : Byte) : BitVec 64 :=
  (List.range 8).foldl (fun c _ => if c.msb then (c <<< 1) ^^^ 0x42F0E1EBA9EA3693 else c <<< 1) (c ^^^ (b.setWidth 64 <<< 56))
def crc64 (l : List Byte) : BitVec 64 := l.foldl crcByte 0

/-- What a result writes: where, over which lanes, and what. -/
def Flight.items (f : Flight) : List Nat :=
  let k := match f.dst with
    | .v r => r
    | .s r => 64 + r
    | .x k => 128 + k
  [k, f.mask.toNat, f.word.toNat] ++ (lanesOf f.mask).map fun l => (laneAt f.lanes l).toNat

/-- The special registers of a warp: what a bundle has made of them. -/
def Warp.items (w : Warp) : List Nat :=
  [w.em, w.am, w.fpctl, w.fpstat, w.lps0, w.lpe0, w.lpc0, w.lps1, w.lpe1, w.lpc1, w.sepc, w.msatb, w.munfb, w.mcanb, w.mcank, w.rsteep2,
    w.rsteep3, w.rsteep4, w.rsteep6, w.rsteep8, w.mexh, w.tvec, w.quant, w.errw, w.wsw].map BitVec.toNat

/-- What the C slot writes at once: a special register, a word of the frame, s62 and the latches of an RFT. -/
def Bun.control (b : Bun) (s t : State) : List Nat :=
  match b.ctl.map Syl.i with
  | some (.sset _ a) => [(s.w.rdS a.val).toNat]
  | some (.tfwr v a imm) => [s.w.frameIx a imm, (s.w.rdS v.val).toNat]
  | some .rft => (t.w.rdS 62).toNat :: (List.range 8).flatMap fun k => (laneWords (t.w.rdX k)).map BitVec.toNat
  | _ => []

/-- The addresses and the data of a request: of an operation of the M slot, a copy, a matrix entry. -/
def OpKind.items : OpKind → List Nat
  | .hint lo len prio next => [lo, len, prio, next]
  | .launch _ q ws => q :: ws.map BitVec.toNat
  | .pgfetch _ _ va => [va]
  | .xinv lo len => [lo, len]
  | _ => []
def Op.items (o : Op) : List Nat := o.kind.items ++ o.lanes.flatMap fun l => [l.lane, l.va, l.a, l.b]
def Copy.items (c : Copy) : List Nat := [c.src, c.dst, c.geo.toNat, c.pit.toNat, c.bnd.toNat, c.imm.toNat]
def MxEntry.items (e : MxEntry) : List Nat :=
  [e.base, e.pitch.toNat, e.dd.toNat, e.da.toNat, e.db.toNat, e.msatb, e.munfb, e.mcanb, e.mcank]

/-- The items of a bundle's commit signature: its address, what it writes to registers and latches, and the address and data of what it
sends, to the core's own banks and slots too; s is the state it issued in and t what its slots have made of it. -/
def Bun.items (b : Bun) (s t : State) : List Nat :=
  s.w.pc.toNat :: t.iss.next.toNat :: (t.w.fly.filter fun f => !s.w.fly.contains f).flatMap Flight.items ++ t.w.items ++ b.control s t ++
  (t.core.ops.filter fun o => decide (s.nextId ≤ o.id)).flatMap Op.items ++ (t.core.copies.filter fun c => decide (s.nextId ≤ c.id)).flatMap Copy.items ++
  (t.core.mxq.filter fun e => decide (s.nextId ≤ e.id)).flatMap MxEntry.items ++
  ((t.co.stores.drop s.co.stores.length).flatMap LStore.bytes).flatMap (fun p => [p.1, p.2.toNat]) ++
  ((t.core.vtw.drop s.core.vtw.length).flatMap fun v => v.slot :: v.words.flatMap fun p => [p.1, p.2.toNat]) ++
  t.co.fifos.flatMap fun p => (p.2.q.drop (tget Fifo.empty s.co.fifos p.1).q.length).flatten.map BitVec.toNat
def Bun.signature (b : Bun) (s t : State) : BitVec 64 := crc64 ((b.items s t).flatMap (leBytes 8))

/-- A bundle whose signatures disagree: what it has written into registers stays, everything that it sends or asks for is discarded
(19 R372, R373); one that would end or halt its warp does not. -/
def State.unsent (s t : State) : State :=
  let w := if t.w.run = .retired || t.w.run = .halted then s.w else t.w
  { s with
    w := { w with flags := s.w.flags, h := s.w.h, hpend := s.w.hpend, mail := s.w.mail, run := s.w.run, pend := s.w.pend },
    core := { s.core with held := t.core.held }, iss := t.iss, freeCtr := t.freeCtr, nextId := t.nextId }

/-- The slots' effects in both cores of a pair whose copies differ: where the signatures agree each core keeps its own, else the restart
request is raised as the odd core commits, two cycles on. -/
def Bun.checked (b : Bun) (s : State) : State :=
  let t := b.effects (b.readBad s)
  let o := b.effects (b.readBad s.odds)
  if b.signature s t = b.signature s.odds o then t.merge o
  else ((s.unsent t).merge (s.odds.unsent o)).onW fun w => { w with sigBad := some (s.now + 2) }

/-- Would the cores of a pair part at a bundle: do its causes or holds, or the addresses that it needs before it commits, differ? -/
def Bun.parts (b : Bun) (s : State) : Bool :=
  !s.same && (b.causes s != b.causes s.odds || b.holds s != b.holds s.odds ||
    (b.syls.flatMap fun y => y.op.reach s ++ y.op.lines s) != b.syls.flatMap fun y => y.op.reach s.odds ++ y.op.lines s.odds)

/-- The odd core's commit of a bundle whose signatures disagree. -/
def State.toCheck (s : State) : State := (s.advance (s.w.sigBad.getD 0)).disagreed

/-- The commit of a bundle, without its boundary. One that ends or halts its warp waits for the check of the bundle before it. -/
def Bun.commit (b : Bun) (s : State) : State :=
  let t := if s.same then b.effects (b.readBad s) else b.checked s
  if s.w.sigBad.isSome && (t.w.run = .retired || t.w.run = .halted) then s.toCheck
  else t.close (b.issueOf s).2 (s.w.ss && !s.w.hm)

/-- The boundary after a commit: where an asynchronous cause is pending for the warp that still runs, it is gathered
with the next bundle's own causes and delivered (16 R328, 18 R353). -/
def State.afterCommit (s : State) (id : Nat) : State :=
  if s.w.id != id || !s.mayIssue s.w || s.asyncCauses = [] || s.w.restart != [] then s
  else
    match s.fetch with
    | .bits n s1 => ((readBun n).taken s1).getD s
    | .fault c => s.deliver [c] s.w.owed fun _ => true
    | _ => s.deliver [] s.w.owed fun _ => true

/-! ## Issue -/

/-- A comparator that halts the warp, or stops the core as well, where the count of the hold it interrupts is kept (17 R348). -/
def State.debugHalt (s : State) (act : Nat) : State :=
  ((s.onW fun w => { w with run := .halted }).notify s.w.id s.w.pc).onCore fun c =>
    { c with debugStop := c.debugStop || act == 2, paused := if act = 2 then c.hold.or c.paused else none, hold := none }

/-- The hold of the lowest code among those asked for, and its slots. -/
def holdOf (l : List (Nat × Nat)) : Option (Nat × Nat) :=
  match leastOf (l.map Prod.fst) with
  | none => none
  | some c => some (c, (l.filter fun h => h.1 == c).foldl (fun a h => a ||| h.2) 0)

/-- The cycles for which the warp's next bundle has been held: another bundle's hold does not count for it. -/
def State.heldLen (s : State) : Nat :=
  (s.core.hold.or s.core.paused).elim 0 fun h => if h.wid = s.w.id && h.pc == s.w.pc then h.len else 0

/-- The global addresses that a bundle translates at issue. -/
def Bun.reach (b : Bun) (s : State) : List Nat := (b.syls.filter fun y => y.ill.isNone).flatMap fun y => y.op.reach s

/-- The lines that a held bundle's GLDC or SLDC misses, asked for (06 R114); those that are retried wait their turn (05 R106). -/
def State.wanting (s : State) (l : List Nat) : State :=
  if l = [] then s.onCore fun c => { c with want := [] }
  else
    (l.filter fun k => s.retried s.core.no k (.cache s.core.no)).foldl (fun s k => s.waitRetry k (.cache s.core.no)) (s.onCore fun c => { c with want := l })

/-- The lines that a bundle misses in the L1. -/
def Bun.lines (b : Bun) (s : State) : List Nat := (b.syls.filter fun y => y.ill.isNone).flatMap fun y => y.op.lines s

/-- A cycle of a hold; past HOLDMAX it traps HOLDTMO (17 R348), a landing-pad check that is owed staying owed (16 R315). -/
def State.holdBundle (s : State) (h : Nat × Nat) (viaHsp : Cause → Bool) : State :=
  if Config.holdMax ≤ s.heldLen then s.deliver [{ syncCause s.w.pc 15 h.1 with slots := h.2 }] s.w.owed viaHsp
  else s.onCore fun c =>
    { c with hold := some { code := h.1, len := s.heldLen + 1, wid := s.w.id, pc := s.w.pc }, paused := none, held := c.held + 1 }

/-- Is the warp in focus the running one, and may it issue? -/
def State.atIssue (s : State) : Bool :=
  s.core.running == some s.w.id && !s.core.debugStop && s.w.run != .halted && s.w.run != .retired && s.w.id != 0 &&
    !s.w.stopReq && s.w.image.isNone

/-- A bundle that nothing at its boundary displaces. -/
def Bun.run (b : Bun) (s : State) : Host.Outcome State Fault Refusal :=
  match ((b.hits s).filter fun h => h.act != 3).map Hit.act with
  | a :: l => .next (s.debugHalt ((a :: l).foldl max 0))
  | [] =>
    match holdOf (b.holds s) with
    | some h => .next (((s.missed s.w.ctx (b.reach s)).wanting (b.lines s)).holdBundle h b.viaHsp)
    | none =>
      match b.syls.findSome? fun y => y.op.bad s with
      | some pa => .fault (.noSuchMemory pa)
      | none => .next ((b.commit s).afterCommit s.w.id)

/-- A bundle at its issue: restarts, then what the boundary takes in its place, then a comparator's halt, a hold, an
address that does not exist, and else the commit. -/
def Bun.issue (b : Bun) (s0 : State) : Host.Outcome State Fault Refusal :=
  if !s0.atIssue then .next s0
  else
    let s := s0.boundary
    if s.w.restart != [] && !s.w.hm then .next s.takeRestart
    else if b.parts s then .next (s.onW fun w => { w with sigBad := some (s.now + 2) }).toCheck
    else
      match b.taken s with
      | some t => .next t
      | none => if s.w.run != .ready then .next s else b.run (s.onW Warp.settled)

/-- A slot instruction issued as a bundle of its own. -/
def issueOne (i : Instr) (op : SlotOp) (s : State) : Host.Outcome State Fault Refusal := (oneBun i op).issue s

/-- The running warp's next bundle: fetched, then issued. -/
def State.issueNext (s0 : State) : Host.Outcome State Fault Refusal :=
  if !s0.atIssue then .next s0
  else
    let s := s0.boundary
    if s.w.restart != [] && !s.w.hm then .next s.takeRestart
    else
      match s.fetch with
      | .bits n s1 => (readBun n).issue s1
      | .fault c => .next (s.deliver [c] s.w.owed fun _ => true)
      | .hold => if s.asyncCauses = [] then .next ((s.missed s.w.ctx [s.w.pc.toNat]).holdBundle (1, 0) fun _ => true) else .next (s.deliver [] s.w.owed fun _ => true)
      | .wait => .next s
      | .nowhere pa => .fault (.noSuchMemory pa)

end Sys2Proof.Machine
end

