-- ==== Sys2Proof/Machine/EvCore.lean ====
section
/-! DEFINITION. The steps of a core that are no slot instruction: issue, results, traps, restarts, switches, wakes, drains,
releases (spec 02 R40, R47; 06 R117, R119; 10 R193, R208; 12 R242; 16 R312, R315, R319, R323; 17 R344 to R348; 18 R353 to
R358; 19 R370, R373). A step that is not due leaves the machine as it is. -/

namespace Sys2Proof.Machine

/-! ## Time -/

/-- The cycle at which the running warp of the core in focus issues; none where nothing issues. -/
def State.issuesAt (s : State) : Option Nat :=
  match s.core.running.bind s.warpAt with
  | some w => if w.run = .ready && !w.stopReq && w.image.isNone then some w.nextIssue else none
  | none => none

/-- May the core's clock stand at cycle c before anything issues there? A debug stop holds it (18 R365). -/
def State.reaches (s : State) (c : Nat) : Bool :=
  decide (c ≤ s.now) || (!s.core.debugStop && s.issuesAt.all fun n => decide (c ≤ n))

/-- The clock moved on to cycle c, where it may. -/
def State.moveTo (s : State) (c : Nat) : State := if s.reaches c then s.advance c else s

/-- The cohort numbered cid in focus, on its core. -/
def State.focusCo (s : State) (cid : Nat) : State :=
  match s.allCohorts.find? (·.cid == cid) with
  | some c =>
    let s1 := s.focusCore c.corE
    if s1.co.cid = cid then s1 else (s1.stashW.pickCo cid).settle
  | none => s

/-! ## Issue and results -/

/-- BUNDLE_ISSUE (02 R40). -/
def execBundleIssue (core : Nat) (s : State) : Host.Outcome State Fault Refusal := (s.focusCore core).issueNext

/-- The next synchronous result of the warp in focus written at its cycle (02 R47). -/
def State.writeNext (s : State) : State :=
  match s.w.fly with
  | f :: _ => s.moveTo f.due
  | [] => s

/-- RESULT_WRITEBACK (02 R47). -/
def execResultWriteback (core : Nat) (s : State) : Host.Outcome State Fault Refusal := .next (s.focusCore core).writeNext

/-- INFLIGHT_REPLAY (18 R358): a replayed record is such a result. -/
def execInflightReplay (wid : Nat) (s : State) : Host.Outcome State Fault Refusal := .next (s.focus wid).writeNext

/-! ## Boundaries -/

/-- The trap, or double fault, that the boundary takes (18 R353 to R360), if there is one. -/
def State.trapAt (s : State) : Option State :=
  match s.fetch with
  | .bits n s1 => (readBun n).taken s1
  | .fault c => some (s.deliver [c] s.w.owed fun _ => true)
  | _ => if s.asyncCauses = [] then none else some (s.deliver [] s.w.owed fun _ => true)

/-- TRAP_DELIVERY (18 R356). -/
def execTrapDelivery (wid : Nat) (s : State) : Host.Outcome State Fault Refusal :=
  let s1 := s.focus wid
  if s1.atIssue && (s1.boundary.w.restart = [] || s1.w.hm) then .next (s1.boundary.trapAt.getD s1) else .next s1

/-- LANDING_PAD_CHECK (16 R315): the target of a checked transfer; a fault of its fetch comes first. -/
def execLandingPadCheck (wid : Nat) (s : State) : Host.Outcome State Fault Refusal :=
  let s1 := s.focus wid
  if s1.atIssue && s1.w.owed.isSome && s1.boundary.w.restart = [] then
    match s1.boundary.fetch with
    | .bits n s2 =>
      match (readBun n).padCause s2 with
      | some _ => .next (((readBun n).taken s2).getD s2)
      | none => .next (s2.onW Warp.settled)
    | _ => .next s1
  else .next s1

/-- SENTENCE_RESTART (19 R370). -/
def execSentenceRestart (wid : Nat) (s : State) : Host.Outcome State Fault Refusal :=
  let s1 := s.focus wid
  .next (if s1.w.id = wid && s1.w.run != .retired && s1.w.run != .halted then s1.takeRestart else s1)

/-- The operations, copies and matrix entries that the last bundle of the warp numbered id asked for, discarded with what they counted,
where nothing of them has been done (19 R373). -/
def State.discardLast (s : State) (id t : Nat) : State :=
  let p := fun (o : Op) => o.wid == id && o.issue == t && !o.done && o.lanes.all fun l => !l.sent && !l.done
  let q := fun (c : Copy) => c.wid == id && c.issue == t && c.done == 0 && c.asked == 0
  let e := fun (e : MxEntry) => e.wid == id && e.issue == t && e.pass.isNone
  let s1 := (s.core.ops.filter p).foldl (fun s o => s.flagDown id o.flag) s
  let s2 := (s.core.copies.filter q).foldl (fun s c => s.flagDown id (some c.flag)) s1
  let s3 := (s.core.mxq.filter e).foldl (fun s e => s.flagDown id e.flag) s2
  s3.onCore fun c => { c with ops := drop' p c.ops, copies := drop' q c.copies, mxq := drop' e c.mxq }

/-- LOCKSTEP_DISAGREEMENT (19 R373): only in protected mode, of a bundle that has committed. One that a word of the odd core has brought
about is raised at its check; else the odd core's commit of the last bundle has gone wrong of itself. -/
def execLockstepDisagreement (wid : Nat) (s : State) : Host.Outcome State Fault Refusal :=
  let s1 := s.focus wid
  if s1.w.id = wid && s1.w.prot && s1.w.lastIssue != 0 && s1.w.run != .retired then
    if s1.w.sigBad.isSome then .next s1.toCheck
    else .next ((s1.discardLast wid (s1.w.lastIssue - 1)).onW fun w => { w with sigBad := some s1.now }).disagreed
  else .next s1

/-! ## The scheduler (17 R344 to R348) -/

/-- WARP_SWITCH (17 R345): where the core has no warp that can run on. -/
def execWarpSwitch (core : Nat) (s : State) : Host.Outcome State Fault Refusal :=
  let s1 := s.focusCore core
  match s1.core.running with
  | none => .next (if s1.eligible = [] then s1 else s1.choose s1.eligible)
  | some id =>
    match s1.warpAt id with
    | none => .next (s1.choose s1.eligible)
    | some w =>
      .next (if w.run = .halted || w.run = .retired || w.image.isSome then s1.choose (s1.eligible.filter fun v => v.id != id) else s1)

/-- QUANTUM_EXPIRY (17 R346). -/
def execQuantumExpiry (core : Nat) (s : State) : Host.Outcome State Fault Refusal :=
  let s1 := s.focusCore core
  .next (if s1.core.running == some s1.w.id && decide (s1.core.qstart + s1.w.quant.toNat ≤ s1.now) then
    s1.onCore fun c => { c with switchReq := true } else s1)

/-- HOLDTMO (17 R348): the hold in force lasts HOLDMAX cycles, no line that its bundle waits for having come, and the bundle traps if it
still holds. -/
def execHoldtmo (core : Nat) (s : State) : Host.Outcome State Fault Refusal :=
  let s1 := s.focusCore core
  match s1.core.hold with
  | some h =>
    if s1.core.debugStop then .next s1
    else (s1.onCore fun c =>
      { c with hold := some { h with len := max h.len Config.holdMax }, held := c.held + (Config.holdMax - h.len), want := [] }).issueNext
  | none => .next s1

/-- Time that passes while nothing issues on the core in focus: the manual does not say how long. -/
def State.pass (s : State) : State := { (s.advance (s.now + Config.freeNat s.freeCtr)) with freeCtr := s.freeCtr + 1 }

/-- The warp in focus can run on from now. -/
def State.ready (s : State) : State := s.onW fun w => { w with run := .ready, nextIssue := max w.nextIssue s.now }

/-- WAITF_WAKE (16 R319): where the core stands idle or stalled for it, time has passed. -/
def execWaitfWake (wid : Nat) (s : State) : Host.Outcome State Fault Refusal :=
  let s1 := s.focus wid
  let flag := match s1.w.run with
    | .waitF _ _ | .waitAll => true
    | _ => false
  if s1.w.id = wid && flag && !s1.core.debugStop && s1.waitOver s1.w then
    .next (if s1.core.running = none || s1.core.running = some wid then s1.pass.ready else s1.ready)
  else .next s1

/-- The waiters of a barrier's completed phase (16 R323). -/
def waitsOn (cid b : Nat) (x : Bar) (w : Warp) : Bool :=
  w.cid == cid && match w.run with
    | .waitB c p => c == b && decide (p < x.phase)
    | _ => false

/-- BARRIER_RELEASE (16 R323): four cycles after the phase completed. -/
def execBarrierRelease (cid b : Nat) (s : State) : Host.Outcome State Fault Refusal :=
  let s1 := s.focusCo cid
  let x := s1.barAt b
  if s1.co.cid = cid && s1.reaches x.relAt then
    .next ((s1.advance x.relAt).mapWarps (waitsOn cid b x) fun w => { s1.synced x w with run := .ready, nextIssue := max w.nextIssue x.relAt })
  else .next s1

/-- FIFO_OP_RESUME (06 R117): a held QENQ or QDEQ that is held no longer. -/
def execFifoOpResume (core : Nat) (s : State) : Host.Outcome State Fault Refusal :=
  let s1 := s.focusCore core
  if s1.core.hold.any fun h => h.code == 7 then
    match s1.fetch with
    | .bits n s2 => if ((readBun n).holds s2).any fun h => h.1 == 7 then .next s1 else (readBun n).issue s2
    | _ => .next s1
  else .next s1

/-- A drain that a PHASE of its core waits for ends within that hold (06 R122): the cycles that were left are hold cycles. -/
def State.drainHeld (s : State) (d : Drain) : State :=
  (s.onCo fun co => { co with drain := none }).onCore fun c => { c with held := c.held + (d.endAt - c.cycle) }

/-- Does a PHASE of a warp of the cohort in focus stand held by its drain (17 Table 17.3, code 9)? -/
def State.phaseHeld (s : State) : Bool :=
  s.core.hold.any fun h => h.code == 9 && !s.core.debugStop && (s.warpAt h.wid).any fun w => w.cid == s.co.cid

/-- PHASE_DRAIN_END (06 R119, R122). -/
def execPhaseDrainEnd (cid : Nat) (s : State) : Host.Outcome State Fault Refusal :=
  let s1 := s.focusCo cid
  match s1.co.drain with
  | some d => .next (if s1.co.cid != cid then s1 else if s1.phaseHeld then s1.drainHeld d else s1.moveTo d.endAt)
  | none => .next s1

/-! ## Releases -/

/-- The slots that a warp's handles and mailbox hold. -/
def Warp.heldSlots (w : Warp) : List Nat :=
  ((w.h ++ w.mail).map fun p => p.2 - 1) ++ w.hpend.filterMap fun p => match p.act with
    | .bind _ n => some n
    | _ => none

/-- Has the warp work of any kind outstanding? -/
def State.outstanding (s : State) (id : Nat) : Bool :=
  s.core.ops.any (·.wid == id) || s.core.copies.any (·.wid == id) || s.core.mxq.any (·.wid == id) || s.core.wcb.any (·.wid == id)

/-- A cohort whose last warp has gone leaves the machine: its pools return to the core, and the core's sign vector of its
context goes with the context's last cohort (10 R208, 13 R259). -/
def State.dropCohort (s : State) : State :=
  let co := s.co
  let s1 := s.onCore fun c => { c with slots := c.slots.filter fun p => p.2.owner != co.cid + 1 }
  let s2 := { s1 with co := Cohort.blank }
  let s3 := if s2.cohorts.any fun k => k.corE == co.corE && k.ctx == co.ctx then s2
    else s2.onCore fun c => { c with signs := tset 0 c.signs co.ctx 0 }
  s3.onSch fun c =>
    { c with gangs := if s3.cohorts.any fun k => k.gang == co.gang then c.gangs else c.gangs.filter (·.uid != co.gang) }

/-- Every slot of the cohort in focus is free and clear. -/
def State.slotsClear (s : State) : Bool := s.core.slots.all fun p => p.2.owner != s.co.cid + 1 || (!p.2.taken && !p.2.releasing)

/-- WARP_RESOURCE_RELEASE (16 R312, 10 R208): a retired warp whose flags are zero releases its slots, and leaves the
machine once nothing of it is outstanding; so does its cohort once its slots are clear. -/
def execWarpResourceRelease (wid : Nat) (s : State) : Host.Outcome State Fault Refusal :=
  let s1 := s.focus wid
  if s1.w.id = wid && s1.w.run == .retired && s1.w.flagsZero then
    let s2 := s1.onCore fun c => s1.w.heldSlots.foldl (fun c n => c.release s1.now n) c
    let s3 := s2.onW fun w => { w with h := [], mail := [], hpend := [] }
    if s3.outstanding wid then .next s3
    else if (s3.warps.any fun w => w.cid == s3.co.cid) then .next { s3 with w := Warp.blank }
    else if s3.slotsClear then .next { s3.dropCohort with w := Warp.blank }
    else .next s3
  else .next s1

/-- SLOT_CLEAR_DONE (10 R193). -/
def execSlotClearDone (core slot : Nat) (s : State) : Host.Outcome State Fault Refusal :=
  let s1 := s.focusCore core
  match (s1.slotAt slot).clearAt with
  | some t => .next (s1.moveTo t)
  | none => .next s1

/-- VTWR_COMMIT (12 R242). -/
def execVtwrCommit (core : Nat) (s : State) : Host.Outcome State Fault Refusal :=
  let s1 := s.focusCore core
  match leastOf (s1.core.vtw.map Vtw.due) with
  | some t => .next (s1.moveTo t)
  | none => .next s1

end Sys2Proof.Machine
end

