-- ==== Sys2Proof/Machine/EvMatrix.lean ====
section
/-! DEFINITION. The steps of the matrix engine (spec 13 R245 to R261; 10 R199, R200, R207; 14 R267 to R278): an entry starts, an
MBMM pass ends, an entry finishes. -/

namespace Sys2Proof.Machine
open Sys2Proof.Num

/-! ## A cohort's local space, as an engine sees it -/

/-- The cohort numbered cid as an engine sees it at its core's cycle (07 R133): with the lane stores that are due or behind a fence, and
the drain that is due. -/
def State.localOf (s : State) (cid : Nat) : Cohort :=
  let co := (s.allCohorts.find? (·.cid == cid)).getD Cohort.blank
  (co.seen (s.coreAt co.corE).cycle).endDrain (s.coreAt co.corE).cycle

/-- An engine read of some offsets: zero in a bank in transition (06 Table 6.3), and beyond the local space, where a PHASE has left the
offset after the issue's check. -/
def Cohort.engRead (co : Cohort) (offs : List Nat) : List Byte := offs.map fun o => if co.localBytes ≤ o then 0 else co.byte o

/-- Does an engine access meet a bank in transition? Has it left the local space? Where first? -/
def Cohort.crosses (co : Cohort) (offs : List Nat) : Bool := offs.any fun o => decide (o < co.localBytes) && co.moving (o / 16384)
def Cohort.outside (co : Cohort) (offs : List Nat) : Option Nat := offs.find? fun o => decide (co.localBytes ≤ o)

/-- The counters of the core numbered n changed. -/
def State.countAt (s : State) (n : Nat) (f : Counters → Counters) : State := s.mapCores fun c => if c.no = n then { c with ctr := f c.ctr } else c

/-- An access that met a bank in transition is counted once (06 R120). -/
def State.engCross (s : State) (cid : Nat) (offs : List Nat) : State :=
  let co := s.localOf cid
  if co.crosses offs then s.countAt co.corE fun k => { k with bankTrans := k.bankTrans + 1 } else s

/-- An engine's access beyond the local space faults PERM, detail 5, as it performs (06 R111, R120), while the warp has no such fault
pending: log 24. -/
def State.engFault (s : State) (cid wid : Nat) (offs : List Nat) : State :=
  match (s.localOf cid).outside offs with
  | some o => s.onWarp wid fun w =>
      if w.run = .retired || (w.pend.any fun p => p.code == 7 && p.detail == 5) then w else { w with pend := w.pend ++ [{ code := 7, detail := 5, w2 := BitVec.ofNat 64 o, w3 := 0, slots := 0 }] }
  | none => s

/-- Does one of some bytes lie in a word with an uncorrectable error? -/
def Cohort.badHit (co : Cohort) (offs : List Nat) : Bool := co.bad != [] && offs.any fun o => co.bad.contains (.scratch (o / 4))

/-- Words with an uncorrectable error that an engine reads are consumed by the warp that issued it (19 R368). -/
def State.engBad (s : State) (cid wid : Nat) (offs : List Nat) : State :=
  s.consumeIf wid ((s.localOf cid).badHit offs) 0

/-- Bytes written by an engine into the local space; dropped in a bank in transition and beyond the local space. Lane stores of the same
bytes that are not yet visible do not come after it. -/
def Cohort.engWrite (co : Cohort) (t : Nat) (ws : List (Nat × Byte)) : Cohort :=
  let c := (co.applyStores t).endDrain t
  let l := (c.kept ws).filter fun p => decide (p.1 < c.localBytes)
  { c.renew l with
    scratch := tsets 0 c.scratch l,
    stores := (c.stores.map fun x => { x with bytes := x.bytes.filter fun p => !(l.any fun q => q.1 == p.1) }).filter fun x => x.bytes != [] }

/-- Such a write. -/
def State.engStore (s : State) (cid : Nat) (ws : List (Nat × Byte)) : State :=
  let t := (s.coreAt (s.localOf cid).corE).cycle
  s.mapCohorts (·.cid == cid) fun k => k.engWrite t ws

/-! ## The scoreboard (13 R247) -/

/-- Does the entry compute on the array? -/
def MxEntry.array (e : MxEntry) : Bool :=
  match e.op with
  | .tld _ _ _ _ _ | .tst _ _ _ _ _ | .mzero _ _ | .msetd _ _ => false
  | _ => true

/-- The slots it names, and the one it writes. -/
def MxEntry.slots (e : MxEntry) : List Nat := [e.hd, e.ha, e.hb].filterMap fun x => x
def MxEntry.writes (e : MxEntry) : List Nat :=
  match e.op with
  | .tst _ _ _ _ _ | .msetd _ _ => []
  | _ => e.hd.toList

/-- Is it running? -/
def MxEntry.running (e : MxEntry) : Bool := e.pass.isSome

/-- May entry e start beside running entry r: r writes no slot that e names and reads none that e writes, and the
array is free. -/
def MxEntry.beside (e r : MxEntry) : Bool :=
  !(r.writes.any fun n => e.names n) && !(e.writes.any fun n => r.names n) && !(e.array && r.array)

/-- May it start: no running entry stands in its way, and no VTWR to a slot of its has still to commit (10 R200)? -/
def CoreSt.canStart (c : CoreSt) (e : MxEntry) : Bool :=
  ((c.mxq.filter MxEntry.running).all fun r => e.beside r) && !(c.vtw.any fun v => e.names v.slot)

/-- The entry that starts next. -/
def CoreSt.nextEntry (c : CoreSt) : Option MxEntry := c.mxq.find? fun e => e.pass.isNone

/-- An entry of the queue changed. -/
def State.onEntry (s : State) (id : Nat) (f : MxEntry → MxEntry) : State := s.onCore fun c => { c with mxq := upd (·.id == id) f c.mxq }

/-- The first rung of a MBMM (13 R254): the one that its field names, or the destination's. -/
def State.firstRung (s : State) (e : MxEntry) : Nat :=
  match e.op with
  | .mbmm _ (.at r) _ _ _ _ => rungCode r
  | .mbmm _ .auto _ _ _ _ => e.hd.elim 0 fun n => (s.slotAt n).rung
  | _ => 0

/-- An entry leaves the queue: its flag is counted down, and a released slot of its starts to clear (10 R193). -/
def State.leaveQueue (s : State) (e : MxEntry) : State :=
  (s.onCore fun c => e.slots.foldl (fun c n => c.startClear s.now n) { c with mxq := drop' (·.id == e.id) c.mxq }).flagDown e.wid e.flag

/-- What an entry does as it starts: MSETD replaces D, with which it has finished, and MHAD takes the D in force (13 R259, 14 R278). -/
def State.startEntry (s : State) (e : MxEntry) : State :=
  let s1 := s.onEntry e.id fun x => { x with pass := some (s.firstRung e) }
  match e.op with
  | .msetd _ _ => (s1.onCore fun c => { c with signs := tset 0 c.signs e.ctx (BitVec.ofNat 16 e.base) }).leaveQueue e
  | .mhad _ _ _ => s1.onEntry e.id fun x => { x with base := (tget 0 s.core.signs e.ctx).toNat }
  | _ => s1

/-- MATRIX_ENTRY_START (13 R247). -/
def execMatrixEntryStart (core : Nat) (s : State) : Host.Outcome State Fault Refusal :=
  let s1 := s.focusCore core
  match s1.core.nextEntry with
  | some e => .next (if s1.core.canStart e && !s1.core.frozen matrixHolds then s1.startEntry e else s1)
  | none => .next s1

/-! ## Passes (13 R252 to R257) -/

/-- A slot that an entry names. -/
def State.readSlot (s : State) (n : Option Nat) : TSlot := n.elim TSlot.free s.slotAt

/-- The slots whose bytes an entry reads, with their descriptors, and those whose metadata it reads. -/
def MxEntry.reads (e : MxEntry) : List (Nat × Word) :=
  let d := e.hd.toList.map fun n => (n, e.dd)
  let ab := (e.ha.toList.map fun n => (n, e.da)) ++ e.hb.toList.map fun n => (n, e.db)
  match e.op with
  | .tld _ _ _ _ _ | .mzero _ _ | .msetd _ _ => []
  | .mbmm _ _ _ _ _ _ | .mdrn _ _ _ _ | .mcvt _ _ _ _ => ab
  | _ => d ++ ab
def MxEntry.readsMeta (e : MxEntry) : List Nat :=
  match e.op with
  | .msca _ _ _ => e.ha.toList
  | .mbmm _ .auto _ _ _ _ => e.hd.toList
  | _ => []

/-- Words with an uncorrectable error that an entry reads are consumed by the warp that issued it (19 R368). -/
def State.entryBad (s : State) (e : MxEntry) : State :=
  s.consumeIf e.wid ((e.reads.any fun p => (s.slotAt p.1).badIn (descOf p.2)) || e.readsMeta.any fun n => (s.slotAt n).badMeta) 0

/-- A slot put back. -/
def State.putSlot (s : State) (n : Option Nat) (x : TSlot) : State :=
  match n with
  | some n => s.onCore fun c => { c with slots := tset TSlot.free c.slots n x }
  | none => s

/-- RSTEEP of a squashed rung, for a warp that has not retired (13 R257). -/
def Warp.squashed (w : Warp) (code : Nat) : Warp :=
  if w.run = .retired then w
  else
    match code with
    | 0 => { w with rsteep2 := w.rsteep2 + 1 }
    | 1 => { w with rsteep3 := w.rsteep3 + 1 }
    | 2 => { w with rsteep4 := w.rsteep4 + 1 }
    | _ => { w with rsteep6 := w.rsteep6 + 1 }

/-- MEXH. -/
def Warp.exhausted (w : Warp) : Warp := if w.run = .retired then w else { w with mexh := w.mexh + 1 }

/-- The window of a windowed product. -/
def winOf : Instr → Option Win
  | .mbmm _ _ _ _ _ w => w
  | .mhfa _ _ _ _ _ _ w => w
  | _ => none

/-- The end of a pass at the rung with a code: squashed, or committed, whereupon the entry leaves the queue (10 R199, 14 R271). -/
def State.passEnd (s : State) (e : MxEntry) (code : Nat) : State :=
  let dd := descOf e.dd
  let da := descOf e.da
  let db := descOf e.db
  let a := s.readSlot e.ha
  let b := s.readSlot e.hb
  let p := runPass (rungW (rungOf code)) e.mcank (winOf e.op) dd da db a b
  let ex := p.over e
  if ex && decide (code < 4) then
    (s.onWarp e.wid fun w => w.squashed code).onEntry e.id fun x => { x with pass := some (code + 1) }
  else
    let s1 := (s.entryBad e).putSlot e.hd (commitPass p code ex (winOf e.op) dd da db (s.slotAt (e.hd.getD 0)) a b)
    (if ex then s1.onWarp e.wid Warp.exhausted else s1).leaveQueue e

/-- Is the entry a MBMM? -/
def MxEntry.ladder (e : MxEntry) : Bool :=
  match e.op with
  | .mbmm _ _ _ _ _ _ => true
  | _ => false

/-- MBMM_PASS_END (13 R253, R255, R256). -/
def execMbmmPassEnd (core id : Nat) (s : State) : Host.Outcome State Fault Refusal :=
  let s1 := s.focusCore core
  match s1.core.mxq.find? (·.id == id) with
  | some e =>
    match e.pass with
    | some code => .next (if e.ladder && !s1.core.frozen matrixHolds then s1.both fun s => s.passEnd e code else s1)
    | none => .next s1
  | none => .next s1

/-! ## The other entries -/

/-- The local offsets of a tile, element by element, and of its exponents (10 R207). -/
def tileOffs (d : Desc) (base : Nat) (pit : Word) (tr : Bool) : List Nat :=
  (shape d.rows d.cols).flatMap (fun p => (List.range d.esz).map fun i => (tileElemAt d base (rowPitch pit) tr p.1 p.2 + i) % 2 ^ 64) ++
  (List.range d.sides).map fun k => tileSideAt base (planePitch pit) k

/-- Bytes 0 to size − 1 of a slot hold the elements row by row, then the exponents; an exponent of 255 is loaded as 254. -/
def loadBytes (d : Desc) (l : List Byte) : List Byte :=
  l.zipIdx.map fun p => if d.rows * d.cols * d.esz ≤ p.2 && p.1 == 255 then 254 else p.1

/-- TLD and TST (10 R207). -/
def State.runTld (s : State) (e : MxEntry) (tr : Bool) : State :=
  let d := descOf e.dd
  let offs := tileOffs d e.base e.pitch tr
  let bs := (s.localOf e.cid).engRead offs
  let t := ((s.slotAt (e.hd.getD 0)).put 0 (loadBytes d bs)).renew fun b => decide (b < d.size)
  ((((s.putSlot e.hd t).engCross e.cid offs).engFault e.cid e.wid offs).engBad e.cid e.wid offs)
def State.runTst (s : State) (e : MxEntry) (tr : Bool) : State :=
  let d := descOf e.dd
  let offs := tileOffs d e.base e.pitch tr
  let t := s.readSlot e.hd
  ((((s.engCross e.cid offs).engFault e.cid e.wid offs).entryBad e).engStore e.cid (offs.zipIdx.map fun p => (p.1, tget 0 t.bytes p.2)))

/-- What an entry but TLD, TST, MBMM and MSETD makes of its destination. -/
def MxEntry.result (e : MxEntry) (d a b : TSlot) : TSlot :=
  let dd := descOf e.dd
  let da := descOf e.da
  let db := descOf e.db
  match e.op with
  | .mzero _ _ => runMzero dd.acc d
  | .mhfa _ et _ _ _ x32 win => runMhfa et (mhfaDim x32) win dd da db d a b
  | .msca _ _ _ => runMsca dd da d a
  | .mhad _ et _ => runMhad et e.base dd d
  | .mdrn _ _ _ blk => runMdrn blk.val dd da d a
  | .mcvt _ _ _ _ => runMcvt dd da d a
  | .madd _ et _ _ => runMadd et dd da d a
  | .mscl _ _ _ row => runMscl row dd da d a
  | _ => d

/-- The writes of an entry. -/
def State.effectOf (s : State) (e : MxEntry) : State :=
  match e.op with
  | .tld _ _ _ _ tr => s.runTld e tr
  | .tst _ _ _ _ tr => s.runTst e tr
  | .mbmm _ _ _ _ _ _ | .msetd _ _ => s
  | .mzero _ _ => s.putSlot e.hd (e.result (s.slotAt (e.hd.getD 0)) TSlot.free TSlot.free)
  | _ => (s.entryBad e).putSlot e.hd (e.result (s.readSlot e.hd) (s.readSlot e.ha) (s.readSlot e.hb))

/-- MATRIX_ENTRY_FINISH (13 R247; 10 R199). -/
def execMatrixEntryFinish (core id : Nat) (s : State) : Host.Outcome State Fault Refusal :=
  let s1 := s.focusCore core
  match s1.core.mxq.find? (·.id == id) with
  | some e => .next (if e.pass.isSome && !e.ladder && !s1.core.frozen matrixHolds then (s1.both fun s => s.effectOf e).leaveQueue e else s1)
  | none => .next s1

end Sys2Proof.Machine
end

