-- ==== Sys2Proof/Machine/EvFab.lean ====
section
/-! DEFINITION. The source side of the fabric: windows, requests, write combining, failures (spec 05 R108, R109; 08 R149; 15
R286 to R296, R421). -/

namespace Sys2Proof.Machine
open Sys2Proof.Num

/-! ## Windows (15 R286 to R288) -/

def State.windowAt (s : State) (n : Nat) : Window := tget Window.zero s.fab.windows n

/-- SIZE, KIND, NODE, PEER, PCTX and BASE (15 Table 15.2). -/
def Window.size (w : Window) : Nat := w.w0.toNat / 2 ^ 40 % 65536
def Window.kind (w : Window) : Nat := w.w0.toNat / 2 ^ 38 % 4
def Window.node (w : Window) : Nat := w.w0.toNat / 2 ^ 24 % 4096
def Window.peer (w : Window) : Nat := w.w0.toNat / 2 ^ 12 % 4096
def Window.pctx (w : Window) : Nat := w.w0.toNat % 4096
def Window.base (w : Window) : Nat := w.w1.toNat / 2 ^ 16 % 2 ^ 36 * 2 ^ 16

/-- A place in a window: is it a peer's, the window, the offset. -/
def Place.remote : Place → Option (Bool × Nat × Nat)
  | .main _ => none
  | .pool w o => some (false, w, o)
  | .peer w o => some (true, w, o)

/-- Does the entry take a request of a leaf's target at an offset? -/
def Window.takes (w : Window) (peer : Bool) (off : Nat) : Bool :=
  w.w0.getLsbD 63 && w.size != 0 && w.kind == (if peer then 2 else 1) && decide (off < w.size * 2 ^ 30)

/-- Codes of a FABRIC detail (15 Table 15.3). -/
def codeAbort : Nat := 1
def codeStale : Nat := 2
def codeLost : Nat := 3
def codeUnsup : Nat := 4
def codeNowin : Nat := 5

/-- The status of a FABRIC entry (21 Table 21.3a). -/
def fabStatus (code : Nat) : Status :=
  match code with
  | 1 => .abort | 2 => .stale | 3 => .lost | 4 => .unsup | _ => .nowin

/-! ## Operations wherever they are held -/

/-- The operation numbered id changed, in a core or in a saved context (15 R290). -/
def State.onOp (s : State) (id : Nat) (f : Op → Op) : State :=
  (s.mapCores fun c => { c with ops := upd (·.id == id) f c.ops }).onSch fun c =>
    { c with saved := c.saved.map fun g => { g with ops := upd (·.id == id) f g.ops } }

/-- The operation numbered id. -/
def State.opAt (s : State) (id : Nat) : Option Op :=
  (s.allCores.flatMap CoreSt.ops ++ s.sch.saved.flatMap Saved.ops).find? (·.id == id)

/-- Lanes of an operation changed; it has performed once they all have. -/
def Op.onLanes (o : Op) (p : LaneAcc → Bool) (f : LaneAcc → LaneAcc) : Op :=
  let l := upd p f o.lanes
  { o with lanes := l, done := l.all LaneAcc.done }

/-- Lanes sent to a remote target. -/
def State.markSent (s : State) (id : Nat) (lanes : List Nat) : State :=
  s.onOp id fun o => o.onLanes (fun l => lanes.contains l.lane) fun l => { l with sent := true }

/-- Lanes performed, each with its value. -/
def State.finishLanes (s : State) (id : Nat) (lanes : List Nat) (v : LaneAcc → Nat) : State :=
  s.onOp id fun o => o.onLanes (fun l => lanes.contains l.lane) fun l => { l with sent := true, done := true, res := v l }

/-- A failure added to those of an operation; the stale lanes of one instruction are reported in one mask (08 R149). -/
def addFail (l : List (Nat × Nat × Nat)) (code va mask : Nat) : List (Nat × Nat × Nat) :=
  if code = codeStale && l.any fun p => p.1 == codeStale then upd (fun p => p.1 == codeStale) (fun p => (p.1, p.2.1, Nat.lor p.2.2 mask)) l
  else l ++ [(code, va, mask)]

/-- A failed request of an operation (15 R291): its lanes end with zero, and its code, address and lanes are kept for the
report; mask 0 for a warp instruction and a drain. -/
def State.failLanes (s : State) (id : Nat) (lanes : List Nat) (code va mask : Nat) : State :=
  (s.finishLanes id lanes fun _ => 0).onOp id fun o => { o with fail := addFail o.fail code va mask }

/-- The failure entered in the item's record. -/
def State.failEntry (s : State) (wid code va : Nat) : State := s.entryFor wid { kind := .fabric, status := fabStatus code, val := va }

/-- The copy numbered id changed, in a core or in a saved context. -/
def State.onCopy (s : State) (id : Nat) (f : Copy → Copy) : State :=
  (s.mapCores fun c => { c with copies := upd (·.id == id) f c.copies }).onSch fun c =>
    { c with saved := c.saved.map fun g => { g with copies := upd (·.id == id) f g.copies } }

/-- The copy numbered id. -/
def State.copyAt (s : State) (id : Nat) : Option Copy :=
  (s.allCores.flatMap CoreSt.copies ++ s.sch.saved.flatMap Saved.copies).find? (·.id == id)

/-- A copy's failed read: its elements are answered by nothing (15 R289, R291). -/
def Copy.failed (c : Copy) (els : List Nat) : Copy := { c with got := c.got ++ els.map fun j => (j, none) }

/-- A failed request at its asker: who it was for, the address it reports. -/
def State.failAsker (s : State) (who : Asker) (code va : Nat) : State :=
  match who with
  | .op _ id lanes =>
    match s.opAt id with
    | some o =>
      let scalar := match o.kind with
        | .load _ b => b
        | .signal _ => true
        | _ => false
      let s1 := s.failEntry o.wid code va
      s1.failLanes id lanes code va
        (match o.kind with
          | .store => 0
          | _ => if scalar then 0 else (maskOf lanes).toNat)
    | none => s
  | .wc _ wid refs =>
    let s1 := refs.foldl (fun s r => s.finishLanes r.1 [r.2] fun _ => 0) (s.failEntry wid code va)
    match refs.getLast? with
    | some r => s1.onOp r.1 fun o => { o with fail := o.fail ++ [(code, va, 0)] }
    | none => s1
  | .copy _ id els =>
    match s.copyAt id with
    | some c => (s.failEntry c.wid code va).onCopy id fun c => { c.failed els with fail := c.fail ++ [(code, va)] }
    | none => s

/-! ## Paths (15 R281, R287, R288; assumption log 30) -/

/-- Paths: ports are 0 to 31, trunk t is 32 + t. -/
def trunkPath (t : Nat) : Nat := 32 + t
def State.trunkAt (s : State) (t : Nat) : Trunk := tget Trunk.fresh s.fab.trunks t

/-- Is a path up: a port that has trained and that no trunk binds, or a trunk that has been formed, which has not gone down since? -/
def State.pathUp (s : State) (p : Nat) : Bool :=
  let t := s.trunkAt (if p < 32 then p / 4 else p - 32)
  !s.fab.down.contains p && (if p < 32 then !t.up && t.ports.getD (p % 4) false else t.up)

/-- The die whose interface serves a path. -/
def dieOfPath (p : Nat) : Nat := if p < 32 then p / 8 else (p - 32) / 2

/-! ## Sending (15 R286 to R296) -/

/-- A stream's place in the table of sequence numbers. -/
def streamKey (st : Stream) : Nat := ((st.co * 1024 + st.core) * 256 + st.warp) * 16 + st.cls

/-- The stream of the warp numbered wid in a class (07 R137). -/
def State.streamOf (s : State) (wid core cls : Nat) : Stream :=
  { dev := s.fab.devNo, core := core, co := ((s.warpAt wid).map Warp.cid).getD 0, warp := ((s.warpAt wid).map Warp.warpIdx).getD 0, cls := cls }

/-- The number of the next request of a stream. -/
def State.nextOf (s : State) (st : Stream) : Nat := (tget 0 s.fab.nextSn (streamKey st) + 1) % 2 ^ 32

/-- A request with its destination (15 R286), numbered rid, as it is kept until its answer. -/
def State.outReq (s : State) (rid : Nat) (who : Asker) (st : Stream) (win off va job : Nat) (op : RemOp) : OutReq :=
  let w := s.windowAt win
  { rid := rid, who := who, st := st, sn := s.nextOf st, win := win, off := off, path := w.path, va := va, job := job, marked := false,
    op := op, node := w.node, peer := if w.kind = 2 then some (w.peer, w.pctx) else none, addr := w.base + off, failed := false }

/-- A message sent: one number more in its stream, and counted as injected where it leaves its core (15 R292, R296). A window without a
path loses it at once (15 R288). -/
def State.inject (s : State) (rid : Nat) (who : Asker) (st : Stream) (win off va job : Nat) (op : RemOp) : State :=
  let w := s.windowAt win
  let s1 := s.countI (st.core / 256) job 1
  if !s.pathUp w.path then (s1.countA (dieOfPath w.path) job 1).failAsker who codeLost va
  else s1.onFab fun f => { f with nextSn := tset 0 f.nextSn (streamKey st) (s.nextOf st), out := f.out ++ [s.outReq rid who st win off va job op] }

/-- The warp for which a request is. -/
def State.askerWarp (s : State) (who : Asker) : Option Nat :=
  match who with
  | .op _ id _ => (s.opAt id).map Op.wid
  | .wc _ wid _ => some wid
  | .copy _ id _ => (s.copyAt id).map Copy.wid

/-- Is a stream of this device frozen at its target? -/
def State.isFrozen (s : State) (st : Stream) : Bool := s.fab.frozen.any fun p => p.1 = st

/-- Is a request one of a warp and class, from whichever core it was sent? -/
def State.fellow (s : State) (wid cls : Nat) (r : OutReq) : Bool := s.askerWarp r.who == some wid && r.st.cls == cls

/-- Does a request of a warp and class wait at the source interface: behind earlier ones that queue there or that a frozen stream has
stopped (15 R289, R290), or behind those to another window that are not answered, whose targets keep no order with its own (07 R126)? -/
def State.waitsFor (s : State) (earlier : List OutReq) (wid : Option Nat) (st : Stream) (win : Nat) : Bool :=
  let mine := fun (r : OutReq) => decide (r.st = st) || wid.any fun w => s.fellow w st.cls r
  s.isFrozen st || earlier.any mine || s.fab.out.any fun r => mine r && (s.isFrozen r.st || r.win != win)

/-- A message sent, or queued at the source interface, uncounted (15 R289, R296). -/
def State.sendTo (s : State) (who : Asker) (st : Stream) (win off va job : Nat) (op : RemOp) : State :=
  if s.pathUp (s.windowAt win).path && s.waitsFor s.fab.queued (s.askerWarp who) st win then
    (s.onFab fun f => { f with queued := f.queued ++ [s.outReq s.nextId who st win off va job op] }).bump
  else (s.inject s.nextId who st win off va job op).bump

/-- A request to a remote place, checked before it is sent: one that its window does not take is not sent, and fails
NOWIN without being counted (15 R286). -/
def State.request (s : State) (who : Asker) (st : Stream) (pl : Place) (va job : Nat) (op : RemOp) : State :=
  match pl.remote with
  | some (peer, win, off) =>
    if (s.windowAt win).takes peer off then s.sendTo who st win off va job op else s.failAsker who codeNowin va
  | none => s

/-- An asker that goes on from the core of its warp. -/
def Asker.moved (who : Asker) (core : Nat) : Asker :=
  match who with
  | .op _ id l => .op core id l
  | .wc _ wid refs => .wc core wid refs
  | .copy _ id els => .copy core id els

/-- A queued request, or one that waits for its answer, given up: its asker is told. -/
def State.dropOut (s : State) (r : OutReq) (code : Nat) : State :=
  (s.onFab fun f => { f with out := drop' (·.rid == r.rid) f.out, queued := drop' (·.rid == r.rid) f.queued }).failAsker r.who code r.va

/-- A queued request that waits for nothing any longer sent, from where its warp now is, unless its window takes it no longer (15 R286); one
of a warp that has been pre-empted stays (15 R289, R290). -/
def State.flushOne (s : State) (r : OutReq) : State :=
  match (s.askerWarp r.who).bind s.warpAt with
  | none => s
  | some w =>
    if s.isFrozen r.st || s.waitsFor (s.fab.queued.takeWhile fun q => q.rid != r.rid) (some w.id) (s.streamOf w.id w.corE r.st.cls) r.win then s
    else if !(s.windowAt r.win).takes r.peer.isSome r.off then s.dropOut r codeNowin
    else
      (s.onFab fun f => { f with queued := drop' (·.rid == r.rid) f.queued }).inject r.rid (r.who.moved w.corE) (s.streamOf w.id w.corE r.st.cls)
        r.win r.off r.va r.job r.op

/-- The requests queued at the interface sent, in order, as far as they may be. -/
def State.flushQueued (s : State) : State := s.fab.queued.foldl State.flushOne s

/-! ## The write-combining buffer (05 R108, R109) -/

/-- The entry drained: one write of its valid bytes. -/
def State.drainOne (s : State) (e : WcEntry) : State :=
  let bytes := e.bytes.filterMap fun p => p.2.map fun b => (p.1, b)
  (s.onCore fun c => { c with wcb := drop' (·.id == e.id) c.wcb }).request (.wc s.core.no e.wid e.refs)
    (s.streamOf e.wid s.core.no e.cls) e.pl e.va e.job (.write bytes [])

/-- The entries of the core in focus that p picks drained, each behind the older ones of its warp and class. -/
def State.drain (s : State) (p : WcEntry → Bool) : State :=
  let picked := s.core.wcb.filter p
  (s.core.wcb.filter fun e => picked.any fun q => q.wid == e.wid && q.cls == e.cls && decide (e.id ≤ q.id)).foldl State.drainOne s

/-- The line of a place. -/
def Place.line : Place → Place
  | .main a => .main (a / 128 * 128)
  | .pool w o => .pool w (o / 128 * 128)
  | .peer w o => .peer w (o / 128 * 128)

/-- The offset of a place within its line. -/
def Place.inLine : Place → Nat
  | .main a => a % 128
  | .pool _ o => o % 128
  | .peer _ o => o % 128

/-- Bytes of one store put into an entry. -/
def WcEntry.put (e : WcEntry) (ws : List (Nat × Byte)) (refs : List (Nat × Nat)) : WcEntry :=
  { e with bytes := tsets none e.bytes (ws.map fun p => (p.1, some p.2)), refs := e.refs ++ refs }

/-- Every byte of the line is valid. -/
def WcEntry.full (e : WcEntry) : Bool := decide (128 ≤ e.bytes.length)

/-- The entry that a store may merge into (05 R108): its own line, and the youngest of its warp and class. -/
def CoreSt.mergeInto (c : CoreSt) (o : Op) (pl : Place) : Option WcEntry :=
  match (c.wcb.filter fun e => e.wid == o.wid && e.cls == o.cls).getLast? with
  | some e => if e.pl = pl && e.job = o.job then some e else none
  | none => none

/-- An empty entry for the line of a lane. -/
def State.newWc (s : State) (o : Op) (a : LaneAcc) : WcEntry :=
  { id := s.nextId, wid := o.wid, ctx := o.ctx, cls := o.cls, job := o.job, pl := a.pl.line, va := a.va / 128 * 128,
    bytes := [], born := s.now, refs := [] }

/-- The lanes of a store to one remote line put into the buffer; a full buffer drains its oldest entry first, and a full
entry is drained. -/
def State.combine (s : State) (o : Op) (l : List LaneAcc) : State :=
  match l with
  | [] => s
  | a :: _ =>
    let ws := l.flatMap fun x => (leBytes (wBytes o.w) x.a).zipIdx.map fun q => (x.pl.inLine + q.2, q.1)
    let refs := l.map fun x => (o.id, x.lane)
    let s1 := s.markSent o.id (l.map LaneAcc.lane)
    match s1.core.mergeInto o a.pl.line with
    | some e =>
      let s2 := s1.onCore fun c => { c with wcb := upd (·.id == e.id) (fun e => e.put ws refs) c.wcb }
      s2.drain fun x => x.id == e.id && x.full
    | none =>
      let s2 := if 64 ≤ s1.core.wcb.length then s1.drain fun x => s1.core.wcb.head?.any fun h => h.id == x.id else s1
      let e := s2.newWc o a
      let s3 := (s2.onCore fun c => { c with wcb := c.wcb ++ [e.put ws refs] }).bump
      s3.drain fun x => x.id == e.id && x.full

/-- WC_AGE_DRAIN (05 R109): 512 unheld cycles after the entry's allocation. -/
def execWcAgeDrain (core id : Nat) (s : State) : Host.Outcome State Fault Refusal :=
  let s1 := s.focusCore core
  match s1.core.wcb.find? (·.id == id) with
  | some e =>
    let s2 := s1.moveTo (e.born + 512)
    .next (if s1.core.frozen accessHolds then s1 else if e.born + 512 ≤ s2.now then s2.drain fun x => x.id == id else s2)
  | none => .next s1

end Sys2Proof.Machine
end

