-- ==== Sys2Proof/Machine/EvMem.lean ====
section
/-! DEFINITION. The steps of main memory and the L2: line requests, atomics, pins and retries, write-backs, scrubs, errors, stacks
(spec 03 R71 to R80; 05 R100 to R107; 08 R149, R155, R158, R160; 19 R368). -/

namespace Sys2Proof.Machine
open Sys2Proof.Num

/-! ## Order (07 R126, R127) -/

/-- Does an earlier access of the warp hold back an access of operation o at a place: one of its class that has not
performed (for a remote place: that has not been sent, since the stream keeps the order), or a fence? -/
def CoreSt.heldBack (c : CoreSt) (o : Op) (pl : Place) : Bool :=
  o.kind.ordered &&
  (c.fenced o.wid o.cls o.id o.kind.writes ||
    match pl with
    | .main _ => c.classBusy o.wid o.cls o.id
    | _ =>
      (c.ops.any fun p => p.wid == o.wid && p.cls == o.cls && p.kind.ordered && !p.done && decide (p.id < o.id) &&
        p.lanes.any fun l => !l.sent && !l.done) ||
      c.copies.any fun k => k.wid == o.wid && k.cls == o.cls && k.kind.global && decide (k.id < o.id))

/-! ## Line requests (05 R100, R101) -/

/-- Lanes of an operation not yet sent nor performed. -/
def Op.left (o : Op) : List LaneAcc := o.lanes.filter fun l => !l.sent && !l.done

/-- A place's line as a number: lines rise with their translated address within main memory, and within each window. -/
def Place.lineNo : Place → Nat
  | .main a => a / 128
  | .pool w o => 2 ^ 64 + w * 2 ^ 56 + o / 128
  | .peer w o => 2 ^ 65 + w * 2 ^ 56 + o / 128

/-- The lanes of its next line request: of the lowest line of the translated ranges. -/
def Op.nextLine (o : Op) : List LaneAcc :=
  match leastOf (o.left.map fun l => l.pl.lineNo) with
  | some n => o.left.filter fun l => l.pl.lineNo == n
  | none => []

/-- Reads of main memory by some lanes: the sectors filled, poison kept for its report (03 R77). -/
def State.loadLanes (s : State) (o : Op) (l : List (LaneAcc × Nat)) : State :=
  let gs := (l.map fun p => p.2 / 32).dedup
  let s1 := gs.foldl (fun s g => (s.loadFor o.wid (32 * g) 32).1) s
  let bad := fun (p : LaneAcc × Nat) => s1.mem.poisoned (p.2 / 32)
  let s2 := l.foldl (fun s p =>
    s.finishLanes o.id [p.1.lane] fun _ => if bad p then 0 else leNat (s1.mem.read p.2 (wBytes o.w))) s1
  s2.onOp o.id fun x => { x with psn := x.psn ++ (l.filter bad).map fun p => (p.1.va / 32 * 32, p.1.lane) }

/-- Stores to main memory by some lanes, ascending, so that the highest lane's bytes stay (05 R101). -/
def State.storeLanes (s : State) (o : Op) (l : List (LaneAcc × Nat)) : State :=
  let ws := l.flatMap fun p => (leBytes (wBytes o.w) p.1.a).zipIdx.map fun q => (p.2 + q.2, q.1)
  (s.onMem fun m => m.write (some (s.writerOf o.ctx o.wid)) ws).finishLanes o.id (l.map fun p => p.1.lane) fun _ => 0

/-- The lanes of a line in main memory, with their addresses. -/
def mainLanes (l : List LaneAcc) : List (LaneAcc × Nat) := l.filterMap fun x => match x.pl with
  | .main pa => some (x, pa)
  | _ => none

/-- A remote load's line request: from its lowest byte to its highest. -/
def State.sendLoad (s : State) (o : Op) (l : List LaneAcc) : State :=
  match l with
  | [] => s
  | a :: _ =>
    let lo := (l.map fun x => x.pl.inLine).foldl min a.pl.inLine
    let hi := (l.map fun x => x.pl.inLine + wBytes o.w).foldl max 0
    let pl := match a.pl.line with
      | .main x => .main x
      | .pool w x => .pool w (x + lo)
      | .peer w x => .peer w (x + lo)
    let ls := l.map LaneAcc.lane
    (s.markSent o.id ls).request (.op s.core.no o.id ls) (s.streamOf o.wid s.core.no o.cls) pl a.va o.job (.read (hi - lo))

/-- A remote atomic of one lane. -/
def State.sendAtomic (s : State) (o : Op) (x : LaneAcc) : State :=
  let op : RemOp := match o.kind with
    | .atom a _ => .atomic a o.w (BitVec.ofNat 64 x.a)
    | .cas _ => .cas o.w (BitVec.ofNat 64 x.a) (BitVec.ofNat 64 x.b)
    | .signal a => .signal a (BitVec.ofNat 64 x.a)
    | _ => .read 0
  (s.markSent o.id [x.lane]).request (.op s.core.no o.id [x.lane]) (s.streamOf o.wid s.core.no o.cls) x.pl x.va o.job op

/-- The write-combining entries of the operation's warp and class drained (05 Table 5.2). -/
def State.drainFor (s : State) (o : Op) : State := s.drain fun e => e.wid == o.wid && e.cls == o.cls

/-- The line request performed, or sent. -/
def State.doLine (s : State) (o : Op) (l : List LaneAcc) : State :=
  match o.kind with
  | .load _ _ => if (mainLanes l).isEmpty then (s.drainFor o).sendLoad o l else s.loadLanes o (mainLanes l)
  | .store => if (mainLanes l).isEmpty then s.combine o l else s.storeLanes o (mainLanes l)
  | .pref =>
    (s.onMem fun m => (mainLanes l).foldl (fun m p => m.fill (p.2 / 32)) m).finishLanes o.id (l.map LaneAcc.lane) fun _ => 0
  | _ => s

/-- Is the operation an atomic, whose lanes perform one by one? -/
def OpKind.atomic : OpKind → Bool
  | .atom _ _ | .cas _ | .signal _ => true
  | _ => false

/-- May the line request be performed: nothing holds it back, and no granule of its lies in a stack that retrains? -/
def State.lineReady (s : State) (o : Op) (l : List LaneAcc) : Bool :=
  match l with
  | [] => false
  | a :: _ => !s.core.heldBack o a.pl && !((mainLanes l).any fun p => o.kind != .store && s.mem.away (p.2 / 32))

/-- Do two places lie in one node window, to which a stream keeps its order (15 R287)? -/
def Place.sameWindow : Place → Place → Bool
  | .pool w _, .pool v _ => w == v
  | .peer w _, .peer v _ => w == v
  | _, _ => false

/-- The first lane of an atomic still to perform: lanes perform in ascending order (05 R101), so those before it have performed, or have
been sent to the window that it goes to. -/
def Op.nextLane (o : Op) : List LaneAcc :=
  match o.left with
  | x :: _ => if o.lanes.all fun l => l.done || decide (x.lane ≤ l.lane) || l.pl.sameWindow x.pl then [x] else []
  | [] => []

/-- LINE_REQUEST (05 R100): the operation's next line; of an atomic, its next lane where that lies at a remote target. -/
def State.lineStep (s : State) (o : Op) : State :=
  let l := if o.kind.atomic then o.nextLane else o.nextLine
  if !s.lineReady o l then s
  else if o.kind.atomic then
    match l with
    | a :: _ => if a.pl.remote.isSome then (s.drainFor o).sendAtomic o a else s
    | [] => s
  else
    match mainLanes l with
    | (_, pa) :: _ =>
      let me : Waiter := .op s.core.no o.id
      if s.retried s.core.no (pa / 128) me then s.waitRetry (pa / 128) me
      else ((s.leaveRetry (pa / 128) me).makeRoom (pa / 128)).doLine o l
    | [] => s.doLine o l

/-- In a lockstep pair a request leaves after its bundle's signatures have been compared, two cycles on, and have agreed (19 R371 to
R373): the clock moved on to that check, where it may. -/
def State.pastCheck (s : State) (wid issue : Nat) : State := if (s.warpAt wid).any Warp.prot then s.moveTo (issue + 2) else s
def State.unchecked (s : State) (wid issue : Nat) : Bool := (s.warpAt wid).any fun w => w.prot && decide (s.now < issue + 2)

/-- A step of an operation at its core, which no hold and no check of its bundle stops; one that waits at the L2 has left the core. -/
def State.opStep (s : State) (core id : Nat) (f : State → Op → State) : State :=
  let s1 := s.focusCore core
  match s1.core.ops.find? (·.id == id) with
  | some o =>
    if s1.core.frozen accessHolds && !(s1.mem.retryq.any fun r => r.who == .op core id) then s1
    else
      let s2 := s1.pastCheck o.wid o.issue
      if s2.unchecked o.wid o.issue then s2 else f s2 o
  | none => s1

def execLineRequest (core id : Nat) (s : State) : Host.Outcome State Fault Refusal := .next (s.opStep core id State.lineStep)

/-! ## Signal records (08 R158 to R161) -/

/-- A signal record's 64 bytes (08 Table 8.2). -/
def sigBytes (va operand after : Nat) (st : Stream) (aop job : Nat) : List Byte :=
  leBytes 8 va ++ leBytes 8 operand ++ leBytes 8 after ++ leBytes 2 st.dev ++ leBytes 2 st.core ++ leBytes 1 st.warp ++
  leBytes 1 (aop + 16 * st.cls) ++ leBytes 1 job ++ leBytes 33 0

/-- The armed slots that p picks changed, in a core or in a saved context. -/
def State.onSigs (s : State) (p : SigSlot → Bool) (f : SigSlot → SigSlot) : State :=
  (s.mapCores fun c => { c with sigs := upd p f c.sigs }).onSch fun c =>
    { c with saved := c.saved.map fun g => { g with sigs := upd p f g.sigs } }

/-- The slot armed for the word at a physical address changed. -/
def State.onSig (s : State) (pa : Nat) (f : SigSlot → SigSlot) : State := s.onSigs (·.pa == some pa) f

/-- The record of a signal that performed on the word at pa, pending from now; `counted` is the Decant job in which it will
be counted, none for a signal of this package. -/
def State.signalled (s : State) (pa operand after : Nat) (st : Stream) (aop job : Nat) (counted : Option Nat) : State :=
  s.onSig pa fun g =>
    { g with wait := g.wait ++ [{ bytes := sigBytes g.va operand after st aop job, job := job }], pend := g.pend ++ [counted] }

/-- SIGNAL_RECORD_APPEND (08 R161): the oldest record waiting for slot number n of a core enters the FIFO as its cohort's
banks stand, in a hold of the core too: log 54. -/
def execSignalRecordAppend (core slot : Nat) (s : State) : Host.Outcome State Fault Refusal :=
  let s1 := s.focusCore core
  match s1.core.sigs[slot]? with
  | some g =>
    let co := s1.localOf g.cid
    match g.wait with
    | r :: l =>
      if g.q < co.nf && !co.moving (co.fifoBank g.q) && decide ((co.fifo g.q).q.length < 256) then
        .next ((s1.mapCohorts (·.cid == g.cid) fun k =>
          let k1 := (k.applyStores s1.now).endDrain s1.now
          k1.setFifo g.q { k1.fifo g.q with q := (k1.fifo g.q).q ++ [r.bytes] }).onSigs (fun x => x.cid == g.cid && x.va == g.va) fun x =>
            { x with wait := l })
      else .next s1
    | [] => .next s1
  | none => .next s1

/-! ## Atomics (05 R105 to R107) -/

/-- An indivisible read-modify-write of n bytes: f gives the new value, or none to leave the old one. The answer is the
value found and whether it was poisoned, in which case nothing is performed and the value is zero (03 R77). -/
def State.rmw (s : State) (wid : Nat) (who : Option Writer) (pa n : Nat) (f : Nat → Option Nat) : State × Nat × Bool :=
  let r := s.loadFor wid pa n
  if r.2.2 = [] then
    let old := leNat r.2.1
    match f old with
    | some x => (r.1.onMem fun m => m.write who ((leBytes n x).zipIdx.map fun q => (pa + q.2, q.1)), old, false)
    | none => (r.1, old, false)
  else (r.1, 0, true)

/-- What a lane of an atomic does to the value it finds. -/
def Op.aval (o : Op) (x : LaneAcc) (old : Nat) : Option Nat :=
  match o.kind with
  | .atom a _ => some (aopVal a (8 * wBytes o.w) old x.a)
  | .signal a => some (aopVal a 64 old x.a)
  | .cas _ => if old = x.a then some x.b else none
  | _ => none

/-- A forced unpin counted for the die of a core. -/
def State.countForced (s : State) (core : Nat) : State :=
  s.onMem fun m => { m with forced := tset 0 m.forced (core / 256) (tget 0 m.forced (core / 256) + 1) }

/-- A line pinned by the core in focus for a context, which stays that of the first atomic where another context's meets the pin: log 52; a
65th pin releases the oldest (05 Table 5.1). -/
def State.pin (s : State) (ctx line : Nat) : State :=
  let p : Pin := { line := line, at_ := s.core.cycle, ctx := ctx }
  if s.core.pins.any fun p => p.line == line then s
  else if 64 ≤ s.core.pins.length then (s.onCore fun c => { c with pins := c.pins.drop 1 ++ [p] }).countForced s.core.no
  else s.onCore fun c => { c with pins := c.pins ++ [p] }

/-- Is the scope die or wider? -/
def wide : Scope → Bool
  | .warp | .core => false
  | _ => true

/-- GATOM and GCAS pin at scope warp or core, and unpin at scope die or wider (05 R106, R107); GRED and SIGNAL do neither.
One that is not performed because its granule is poisoned does the same: log 55. -/
def State.pinFor (s : State) (o : Op) (line : Nat) : State :=
  match o.kind with
  | .atom _ (some _) | .cas _ =>
    if wide o.sc then s.onCore fun c => { c with pins := drop' (fun p => p.line == line) c.pins } else s.pin o.ctx line
  | _ => s

/-- One lane's atomic performed at its slice. -/
def State.doAtomic (s : State) (o : Op) (x : LaneAcc) (pa : Nat) : State :=
  let n := wBytes o.w
  let r := s.rmw o.wid (some (s.writerOf o.ctx o.wid)) pa n (o.aval x)
  let s1 := (r.1.finishLanes o.id [x.lane] fun _ => r.2.1).pinFor o (pa / 128)
  if r.2.2 then s1.onOp o.id fun y => { y with psn := y.psn ++ [(x.va / 32 * 32, x.lane)] }
  else
    match o.kind with
    | .signal a =>
      s1.signalled pa x.a ((o.aval x r.2.1).getD 0) (s1.streamOf o.wid s.core.no o.cls) (Aop.code a) o.job none
    | _ => s1

/-- L2_ATOMIC (05 R105): the operation's next lane, in ascending order (05 R101). -/
def State.atomicStep (s : State) (o : Op) : State :=
  match o.nextLane with
  | x :: _ =>
    match x.pl with
    | .main pa =>
      if !o.kind.atomic || s.core.heldBack o x.pl || s.mem.away (pa / 32) then s
      else if s.retried s.core.no (pa / 128) (.op s.core.no o.id) then s.waitRetry (pa / 128) (.op s.core.no o.id)
      else ((s.leaveRetry (pa / 128) (.op s.core.no o.id)).makeRoom (pa / 128)).doAtomic o x pa
    | _ => s
  | [] => s

def execL2Atomic (core id : Nat) (s : State) : Host.Outcome State Fault Refusal := .next (s.opStep core id State.atomicStep)

/-- PIN_TIMEOUT (05 R107): PINMAX cycles of the holder's clock after the pin. -/
def execPinTimeout (line : Nat) (s : State) : Host.Outcome State Fault Refusal :=
  match s.allCores.find? fun c => c.pins.any fun p => p.line == line with
  | some c =>
    let s1 := s.focusCore c.no
    match s1.core.pins.find? fun p => p.line == line with
    | some p =>
      let s2 := s1.moveTo (p.at_ + Config.pinMax)
      .next (if p.at_ + Config.pinMax ≤ s2.now then
        (s2.onCore fun c => { c with pins := drop' (fun p => p.line == line) c.pins }).countForced s2.core.no
        else s2)
    | none => .next s1
  | none => .next s

/-! ## The base dies (03 R71 to R80) -/

/-- L2_WRITEBACK (05 R103, R104): a dirty sector is written back, a clean one is dropped. The accesses of a stack that retrains wait. -/
def execL2Writeback (g : Nat) (s : State) : Host.Outcome State Fault Refusal :=
  .next (if (s.mem.stack (s.mem.stackNo g)).retraining.isSome then s
    else if (s.mem.sector g).dirty = 0 then s.onMem fun m => { m with l2 := tset Sector.absent m.l2 g Sector.absent }
    else s.writeback g)

/-- ECC_WRITEBACK (03 R73): after a corrected read; a write that arrived first has taken its place. -/
def execEccWriteback (g : Nat) (s : State) : Host.Outcome State Fault Refusal :=
  .next (s.onMem fun m => if tget 0 m.latent g = 3 then { m with latent := tset 0 m.latent g 0 } else m)

/-- SCRUB (03 R74). -/
def execScrub (g : Nat) (s : State) : Host.Outcome State Fault Refusal :=
  if tget 0 s.mem.latent g = 2 then
    .next ((s.onMem fun m =>
      { m.onStack (m.stackNo g) (fun k => { k with uncorrected := k.uncorrected + 1, log := k.log ++ [.poisoned g] }) with
        poison := tset false m.poison g true, latent := tset 0 m.latent g 0 }).onHost fun h => { h with log := h.log ++ [.scrubbed g] })
  else if s.mem.correctable g then
    .next (s.onMem fun m =>
      { m.onStack (m.stackNo g) (fun k => { k with corrected := k.corrected + 1, log := k.log ++ [.corrected g] }) with
        latent := tset 0 m.latent g 0 })
  else .next s

/-- A notice to Caddy, and one entered in the device error log as well. -/
def State.tell (s : State) (e : LogEv) : State := s.onHost fun h => { h with notes := h.notes ++ [e] }
def State.logged (s : State) (e : LogEv) : State := s.onHost fun h => { h with notes := h.notes ++ [e], log := h.log ++ [e] }

def State.onStackNo (s : State) (n : Nat) (f : Stack → Stack) : State := s.onMem fun m => m.onStack (n % 12) f

/-- HEARTBEAT_RECEIVED (03 R79): refresh is not handed back by it (03 R80). -/
def execHeartbeatReceived (stack : Nat) (s : State) : Host.Outcome State Fault Refusal :=
  .next (s.onStackNo stack fun k => { k with missed := 0 })

/-- HEARTBEAT_MISS (03 R79): after the third in a row the controller takes refresh over. -/
def execHeartbeatMiss (stack : Nat) (s : State) : Host.Outcome State Fault Refusal :=
  let k := s.mem.stack (stack % 12)
  let s1 := s.onStackNo stack fun k => { k with missed := k.missed + 1 }
  .next (if k.missed = 2 && !k.owned then
      (s1.onStackNo stack fun k => { k with owned := true, log := k.log ++ [.takeover] }).tell (.takeover (stack % 12))
    else s1)

/-- STACK_FAILED (03 R80): the controller that owns refresh cannot issue it. -/
def execStackFailed (stack : Nat) (s : State) : Host.Outcome State Fault Refusal :=
  let k := s.mem.stack (stack % 12)
  .next (if k.owned && !k.failed then
      (s.onStackNo stack fun k => { k with failed := true, log := k.log ++ [.failed] }).logged (.stackFailed (stack % 12))
    else s)

/-- REFRESH_HAND_BACK (03 R80). -/
def execRefreshHandBack (stack : Nat) (s : State) : Host.Outcome State Fault Refusal :=
  .next (s.onStackNo stack fun k => { k with owned := false, missed := 0 })

/-- STACK_RETRAIN_DONE (03 R71). -/
def execStackRetrainDone (stack : Nat) (s : State) : Host.Outcome State Fault Refusal :=
  .next (s.onStackNo stack fun k => match k.retraining with
    | some r => { k with ratio := r, retraining := none }
    | none => k)

/-! ## Soft errors (19 R368) -/

/-- A cohort that a core holds. -/
def State.cohortNo (s : State) (cid : Nat) : Option Cohort := s.allCohorts.find? fun c => c.cid == cid && c.cid != 0

/-- The core of a number changed, one as at reset too. -/
def State.onCoreNo (s : State) (core : Nat) (f : CoreSt → CoreSt) : State :=
  if 1024 ≤ core then s else
  let s1 := if s.allCores.any fun c => c.no == core then s else { s with cores := insBy CoreSt.no (CoreSt.fresh core) s.cores }
  s1.mapCores fun c => if c.no = core then f c else c

/-- A corrected on-chip error counted in its core. -/
def State.correctedAt (s : State) (core : Nat) : State :=
  s.onCoreNo core fun c => { c with ctr := { c.ctr with corrected := c.ctr.corrected + 1 } }

/-- A place noted as holding an error. -/
def noted {α : Type} [DecidableEq α] (l : List α) (a : α) : List α := if a ∈ l then l else l ++ [a]

/-- A word noted as differing in the odd core of a pair, with its value there. -/
def oddNoted {α : Type} [DecidableEq α] (l : List (α × Word)) (a : α) (x : Word) : List (α × Word) := (l.filter fun p => p.1 ≠ a) ++ [(a, x)]

/-- Is it a word that a warp's storage has (02 R43, R45; 18 R357)? -/
def RegSite.real : RegSite → Bool
  | .v r l => decide (r < 64 ∧ l < 64)
  | .x k l => decide (k < 8 ∧ l < 64)
  | .s r => decide (0 < r ∧ r < 64)
  | .frame i => decide (i < Config.frameWords)

/-- A word of a warp's storage with an uncorrectable error: it reads as zero from now on. -/
def Warp.spoil (w : Warp) (r : RegSite) : Warp :=
  let w1 := match r with
    | .v n l => w.wrV n (BitVec.ofNat 64 (2 ^ l)) zeroLanes
    | .x k l => w.wrX k (BitVec.ofNat 64 (2 ^ l)) zeroLanes
    | .s n => w.wrS n 0
    | .frame i => { w with frame := tset 0 w.frame i 0 }
  { w1 with bad := noted w.bad r, odd := w.odd }

/-- A word set to zero in some bytes. -/
def zeroWord (l : List Byte) (k : Nat) : List Byte := l.zipIdx.map fun p => if p.2 / 4 = k then 0 else p.1

/-- The same in a cohort's banks. -/
def Cohort.spoil (co : Cohort) (b : CoSite) : Cohort :=
  let c1 := match b with
    | .scratch n => { co with scratch := tsets 0 co.scratch ((List.range 4).map fun i => (4 * n + i, 0)) }
    | .fifo q i =>
      let f := tget Fifo.empty co.fifos (co.ns + q)
      { co with fifos := tset Fifo.empty co.fifos (co.ns + q) { f with q := f.q.zipIdx.map fun (p : List Byte × Nat) => if p.2 = i / 16 then zeroWord p.1 (i % 16) else p.1 } }
    | .l1 line k => { co with l1 := upd (fun x => x.line == line) (fun x => { x with bytes := zeroWord x.bytes k }) co.l1 }
  { c1 with bad := noted co.bad b }

/-- Does the cohort hold anything at the place? -/
def Cohort.holds (co : Cohort) : CoSite → Bool
  | .scratch n => decide (4 * n < 16384 * co.ns)
  | .fifo q i => decide (i / 16 < (tget Fifo.empty co.fifos (co.ns + q)).q.length)
  | .l1 line k => decide (k < 32) && co.l1.any fun x => x.line == line

/-- The same in a slot: a word of its bytes, or its metadata. -/
def TSlot.spoil (t : TSlot) (k : Option Nat) : TSlot :=
  match k with
  | some k => { t with bytes := tsets 0 t.bytes ((List.range 4).map fun i => (4 * k + i, 0)), bad := noted t.bad k }
  | none => { t with ea := [], eb := [], exh := false, rung := 0, badMeta := true }

/-- A parity error of a warp's state is consumed at once; so is one of a cohort's by each of its warps (19 R368). -/
def State.parity (s : State) (p : Warp → Bool) : State :=
  ((s.allWarps.filter fun w => p w && w.run != .retired).map Warp.id).foldl (fun s id => s.consume id true 0 0) s

/-- The corrected error of a warp, of a cohort: counted in the core, and entered in the launch's record (19 R374). -/
def corrEntry : Entry := { kind := .corr, status := .ok, val := 1 }

/-- A word that a soft error has changed in the odd core of a pair alone (19 R371): none where the core is in no pair. -/
def State.oddError (s : State) (o : OddSite) (x : Word) : State :=
  match o with
  | .reg wid r => s.onWarp wid fun w => if w.prot && RegSite.real r then { w with odd := oddNoted w.odd r x } else w
  | .bank cid b => s.mapCohorts (·.cid == cid) fun k =>
      if k.holds b && s.allWarps.any fun w => w.cid == cid && w.prot then { k with odd := oddNoted k.odd b x } else k
  | .slot core n k => s.mapCores fun c =>
      if c.no = core && s.allWarps.any fun w => w.corE == core && w.prot then
        { c with oddSlots := (c.oddSlots.filter fun p => !(p.1 == n && p.2.1 == k)) ++ [(n, k, x)] }
      else c

/-- SOFT_ERROR (03 R73, 19 R368, R371). -/
def execSoftError (e : ErrSite) (s : State) : Host.Outcome State Fault Refusal :=
  .next (match e with
  | .dram g c => s.onMem fun m => { m with latent := tset 0 m.latent g (if c && tget 0 m.latent g != 2 then 1 else 2) }
  | .l2 g c =>
    if (s.mem.sector g).bytes = [] then s
    else if c then s.correctedAt (s.mem.sliceOf (g / 4))
    else s.onMem fun m => { m with l2 := tset Sector.absent m.l2 g { m.sector g with poison := true, mark := BitVec.allOnes 32 } }
  | .reg wid r c =>
    match s.warpAt wid with
    | some w =>
      if c then (s.correctedAt w.corE).entryFor wid corrEntry
      else s.onWarp wid fun w => if RegSite.real r then w.spoil r else w
    | none => s
  | .odd o x => s.oddError o x
  | .warpState wid => s.parity fun w => w.id == wid
  | .bank cid b c =>
    match s.cohortNo cid with
    | some k =>
      if !k.holds b then s
      else if c then (s.correctedAt k.corE).addEntry k.gang corrEntry
      else s.mapCohorts (·.cid == cid) fun k => k.spoil b
    | none => s
  | .cohortState cid => s.parity fun w => w.cid == cid
  | .slot core n k c =>
    match s.cohortNo ((tget TSlot.free (s.coreAt core).slots n).owner - 1) with
    | some co =>
      if c then (s.correctedAt core).addEntry co.gang corrEntry
      else s.mapCores fun x => if x.no = core then { x with slots := tset TSlot.free x.slots n ((tget TSlot.free x.slots n).spoil k) } else x
    | none =>
      if 96 ≤ n then s
      else if c then s.correctedAt core
      else s.onCoreNo core fun x => { x with slots := tset TSlot.free x.slots n ((tget TSlot.free x.slots n).spoil k) }
  | .icache core => s.correctedAt core
  | .tlb core => (s.correctedAt core).mapCores fun c => if c.no = core then { c with tlb := [] } else c
  | .dieTlb die => (s.correctedAt (256 * die)).onXl fun x => { x with dtlb := tset [] x.dtlb die [] })

end Sys2Proof.Machine
end

