-- ==== Sys2Proof/Machine/EvCopy.lean ====
section
/-! DEFINITION. The steps of the copy engine and the scheduled plane (spec 09 R168 to R190; 06 R118; 03 R75, R77, R86). -/

namespace Sys2Proof.Machine
open Sys2Proof.Num

/-! ## Elements (09 R176, R185) -/

/-- Where an element is read: zero fill, a fill pattern, a global address, a local offset. -/
inductive ESrc where
  | zero
  | pat (n : Nat)
  | glob (va : Nat)
  | loc (off : Nat)
  deriving DecidableEq, Repr

/-- Where it is written. -/
inductive EDst where
  | glob (va : Nat)
  | loc (off : Nat)
  deriving DecidableEq, Repr

/-- Elements of a row, rows of a plane, elements in all; a row of no element has none (09 R174). -/
def Copy.rowLen (c : Copy) : Nat := (geoOf c.geo).nx + 2 * (c.kind.halo (geoOf c.geo)).1
def Copy.rowsOf (c : Copy) : Nat := (geoOf c.geo).ny + 2 * (c.kind.halo (geoOf c.geo)).2
def Copy.count (c : Copy) : Nat := if (geoOf c.geo).nx = 0 then 0 else (geoOf c.geo).nz * c.rowsOf * c.rowLen
def Copy.sz (c : Copy) : Nat := (geoOf c.geo).sz

/-- Element k's coordinates i, j, p. -/
def Copy.ijp (c : Copy) (k : Nat) : Int × Int × Int :=
  let h := c.kind.halo (geoOf c.geo)
  ((k % c.rowLen : Nat) - (h.1 : Int), (k / c.rowLen % c.rowsOf : Nat) - (h.2 : Int), (k / (c.rowLen * c.rowsOf) : Nat))

/-- An address modulo 2^64. -/
def addr64 (x : Int) : Nat := (x % 2 ^ 64).toNat

/-- The pitched address of element k from a base, and the packed one. -/
def Copy.pitched (c : Copy) (base k : Nat) : Nat :=
  let e := c.ijp k
  addr64 (base + e.2.2 * planePitch c.pit + e.2.1 * rowPitch c.pit + e.1 * c.sz)
def Copy.packed (c : Copy) (base k : Nat) : Nat := addr64 (base + k * c.sz)

/-- Does element k lie outside the image, for a copy that fills with zeros (09 R175, R176)? -/
def Copy.outside (c : Copy) (k : Nat) : Bool :=
  let e := c.ijp k
  let x := sval 16 (c.bnd.toNat % 65536) + e.1
  let y := sval 16 (c.bnd.toNat / 2 ^ 16 % 65536) + e.2.1
  (geoOf c.geo).zf &&
  (decide (x < 0) || decide (((c.bnd.toNat / 2 ^ 32 % 65536 : Nat) : Int) ≤ x) || decide (y < 0) ||
    decide (((c.bnd.toNat / 2 ^ 48 : Nat) : Int) ≤ y))

/-- CPYFIL's pattern (09 Table 9.5). -/
def fillPattern (sz : Nat) (hi : Bool) (imm : BitVec 16) : Nat :=
  match sz with
  | 1 => imm.toNat % 256
  | 2 => imm.toNat
  | 4 => if hi then imm.toNat * 2 ^ 16 else (imm.signExtend 32).toNat
  | _ => if hi then imm.toNat * 2 ^ 48 else (imm.signExtend 64).toNat

/-- Element k's source and destination (09 Table 9.4). -/
def Copy.from_ (c : Copy) (k : Nat) : ESrc :=
  match c.kind with
  | .gl => if c.outside k then .zero else .glob (c.pitched c.src k)
  | .gg _ => .glob (c.pitched c.src k)
  | .lg | .p _ => .loc (c.packed c.src k)
  | .ll => .loc (c.pitched c.src k)
  | .fil _ hi => .pat (fillPattern c.sz hi c.imm)
def Copy.to_ (c : Copy) (k : Nat) : EDst :=
  match c.kind with
  | .gl | .ll | .p _ | .fil false _ => .loc (c.packed c.dst k)
  | .lg | .gg false | .fil true _ => .glob (c.pitched c.dst k)
  | .gg true => .glob (c.packed c.dst k)

/-- The addresses of element k's sides: global, or of the local space; a source without memory has none. -/
def Copy.srcAddr (c : Copy) (k : Nat) : Option Nat :=
  if c.count ≤ k then none
  else match c.from_ k with
    | .glob a | .loc a => some a
    | _ => none
def Copy.dstAddr (c : Copy) (k : Nat) : Option Nat :=
  if c.count ≤ k then none
  else match c.to_ k with
    | .glob a | .loc a => some a

/-- The aligned block whose elements go together: a 4-byte word is read, and written, at once (07 R131), a line of 128 bytes at a remote
target with one message (09 R179); zero where no two elements share one. -/
def Copy.block (c : Copy) (far : Bool) : Nat := if far then 128 else if c.sz < 4 then 4 else 0

/-- The elements that go with element k, whose addresses f gives: those of its block of b bytes. Where an earlier one lies there, k has
gone with that one. -/
def Copy.group (c : Copy) (f : Nat → Option Nat) (b k : Nat) : List Nat :=
  match f k with
  | some x =>
    let same := fun j => (f j).any fun y => y / b == x / b
    if b = 0 then [k] else if (List.range k).any same then []
    else k :: ((List.range (c.count - k - 1)).map fun i => k + 1 + i).filter same
  | none => [k]

/-! ## Translation inside the engine (04 R95 to R97; 09 R169) -/

/-- A miss in a die's TLB joins the entry of its page, or takes a free one of the 1,024; with none free it waits (04 R96). -/
def Merge.at_ (m : Merge) (die ctx va : Nat) : Bool := m.die == die && m.ctx == ctx && m.va == pageOf .k64 va
def Merge.join (m : Merge) (cores : List Nat) (copies : List (Nat × Nat)) : Merge :=
  { m with cores := m.cores ++ cores.filter (fun c => !m.cores.contains c), copies := m.copies ++ copies.filter fun c => !m.copies.contains c }
def State.mergeMiss (s : State) (die ctx va : Nat) (cores : List Nat) (copies : List (Nat × Nat)) : State :=
  if s.xl.merge.any fun m => m.at_ die ctx va then
    s.onXl fun x => { x with merge := upd (fun m => m.at_ die ctx va) (fun m => m.join cores copies) x.merge }
  else if 1024 ≤ (s.xl.merge.filter fun m => m.die == die).length then s
  else s.onXl fun x => { x with merge := x.merge ++ [{ die := die, ctx := ctx, va := pageOf .k64 va, cores := cores, copies := copies }] }

/-- How a side of an element stands: ready, with its place if it is global; to wait, for a walk, for a pinned line, or for a migration
or a stack; to suspend the copy, with KIND, SIDE, SUBD and address; or at an address that does not exist. -/
inductive Ready where
  | ok (p : Option Place)
  | wait
  | miss (va : Nat)
  | retry (line : Nat)
  | fault (kind : Nat) (dstSide : Bool) (sub addr : Nat)
  | nowhere (pa : Nat)
  deriving DecidableEq, Repr

/-- A global side translated. -/
def State.sideOf (s : State) (c : Copy) (va : Nat) (dst : Bool) : Ready :=
  match s.xlateBy (s.lookupCopy s.core.no c.ctx va c.walked) c.ctx va [if dst then 2 else 1] with
  | .fault 6 d => .fault 1 dst d va
  | .fault _ d => .fault 2 dst d va
  | .migrating => .wait
  | .miss => .miss va
  | .nowhere pa => .nowhere pa
  | .ok (.main pa) _ =>
    if s.retried s.core.no (pa / 128) (.copy s.core.no c.id) then .retry (pa / 128)
    else if !dst && s.mem.away (pa / 32) then .wait else .ok (some (.main pa))
  | .ok p _ => .ok (some p)

/-- Element k's source, and its destination. -/
def State.readSide (s : State) (c : Copy) (k : Nat) : Ready :=
  match c.from_ k with
  | .glob va => s.sideOf c va false
  | _ => .ok none
def State.writeSide (s : State) (c : Copy) (k : Nat) : Ready :=
  match c.to_ k with
  | .glob va => s.sideOf c va true
  | .loc _ => .ok none

/-! ## Reading (03 R75, R77; 09 R178, R179) -/

/-- The stream of a copy, and its job (09 R179). -/
def State.copyStream (s : State) (c : Copy) : Stream := s.streamOf c.wid s.core.no c.cls
def State.copyJob (s : State) (c : Copy) : Nat := ((s.warpAt c.wid).map Warp.job).getD 0

/-- A line of main memory reached: its request waits no longer, and the L2 holds it. -/
def State.reach (s : State) (c : Copy) (pa : Nat) : State := (s.leaveRetry (pa / 128) (.copy s.core.no c.id)).makeRoom (pa / 128)

/-- An access of the copy to its cohort's local space: a bank in transition is counted once for the copy (06 R120), and an offset beyond
the space faults (06 R111): log 24. -/
def State.copyLocal (s : State) (c : Copy) (offs : List Nat) : State :=
  let s1 := s.engFault c.cid c.wid offs
  if (s1.localOf c.cid).crosses offs && !((s1.copyAt c.id).any Copy.met) then (s1.engCross c.cid offs).onCopy c.id fun x => { x with met := true } else s1

/-- Words with an uncorrectable error that the copy reads in its cohort's local space: its warp consumes them when it completes (03 R77, 19
R369). -/
def State.copyBad (s : State) (c : Copy) (offs : List Nat) : State :=
  if (s.localOf c.cid).badHit offs then s.onCopy c.id fun x => { x with bad := true } else s

/-- The bytes of element k, whose source is not remote, and whether they carry poison: as zero into the local space, which consumes it, as
they are into global memory (03 R75, R77). -/
def State.readElem (s : State) (c : Copy) (k : Nat) (src : Option Place) : State × List Byte × Bool :=
  match c.from_ k, src with
  | .loc off, _ =>
    let offs := (List.range c.sz).map fun i => off + i
    ((s.copyLocal c offs).copyBad c offs, (s.localOf c.cid).engRead offs, false)
  | .glob _, some (.main pa) =>
    let s1 := s.reach c pa
    let m := s1.mem.fill (pa / 32)
    if c.kind.writes && m.poisoned (pa / 32) then (s1.onMem fun _ => m, m.read pa c.sz, true)
    else
      let r := s1.loadFor c.wid pa c.sz
      (r.1, r.2.1, r.2.2 != [])
  | _, _ => (s, leBytes c.sz 0, false)

/-- Element k read, and kept until it is written. -/
def State.takeElem (s : State) (c : Copy) (src : Option Place) (k : Nat) : State :=
  let r := s.readElem c k src
  r.1.onCopy c.id fun x => { x with got := x.got ++ [(k, some r.2)] }

/-- Place p, i bytes on. -/
def Place.plus : Place → Nat → Place
  | .main a, i => .main (a + i)
  | .pool w o, i => .pool w (o + i)
  | .peer w o, i => .peer w (o + i)

/-- The address of an element, and the lowest of some. -/
def atOf (f : Nat → Option Nat) (k : Nat) : Nat := (f k).getD 0
def lowAt (f : Nat → Option Nat) (l : List Nat) : Nat := (l.map (atOf f)).foldl min (atOf f (l.headD 0))

/-- Where an address of the line of a place lies. -/
def Place.inItsLine (p : Place) (a : Nat) : Place := p.line.plus (a % 128)

/-- Some elements of one line, which lies at p, asked for with one read message. -/
def State.askGroup (s : State) (c : Copy) (l : List Nat) (p : Place) : State :=
  let lo := lowAt c.srcAddr l
  let hi := (l.map fun j => atOf c.srcAddr j + c.sz).foldl max 0
  s.request (.copy s.core.no c.id l) (s.copyStream c) (p.inItsLine lo) lo (s.copyJob c) (.read (hi - lo))

/-- The copy's reads carried on from element k, as far as they go; the answer is the first element still to read. -/
def State.readOn (c : Copy) : Nat → State → Nat → State × Nat
  | 0, s, k => (s, k)
  | fuel + 1, s, k =>
    if c.count ≤ k then (s, k)
    else
      match s.readSide c k, c.srcAddr k with
      | .ok _, none => State.readOn c fuel s (k + 1)
      | .ok p, some _ =>
        let far := p.any fun q => q.remote.isSome
        let l := c.group c.srcAddr (c.block far) k
        State.readOn c fuel
          (if l = [] then s else if far then p.elim s (s.askGroup c l)
          else l.foldl (fun s j => s.takeElem c (if c.sz < 4 then p.map fun q => q.inItsLine (atOf c.srcAddr j) else p) j) s) (k + 1)
      | _, _ => (s, k)

/-! ## Writing -/

/-- What element k writes: nothing yet, while its source is on its way; nothing at all, where its read has failed; or its bytes, and
whether they carry poison. -/
def State.dataOf (s : State) (c : Copy) (k : Nat) : Option (Option (List Byte × Bool)) :=
  match c.from_ k with
  | .zero => some (some (leBytes c.sz 0, false))
  | .pat n => some (some (leBytes c.sz n, false))
  | _ => (s.copyAt c.id).bind fun d => (d.got.find? fun p => p.1 == k).map Prod.snd

/-- An element and its data, where it has some, and whether they carry poison. -/
abbrev ElemData := Nat × Option (List Byte × Bool)

/-- The bytes of some elements, in their order, from the lowest destination on; and where they carry poison. -/
def Copy.bytesOf (c : Copy) (lo : Nat) (l : List ElemData) : List (Nat × Byte) × List Nat :=
  let ws := l.flatMap fun p => p.2.elim [] fun d => d.1.zipIdx.map fun q => ((atOf c.dstAddr p.1 + q.2 - lo, q.1), d.2)
  (ws.map Prod.fst, (ws.filter Prod.snd).map fun p => p.1.1)

/-- The granules whose poison a copy into the local space consumes, at their virtual addresses, kept for its completion (09 R178). -/
def State.notePoison (s : State) (c : Copy) (l : List ElemData) : State :=
  if c.kind.writes then s
  else
    let vas := l.filterMap fun p => if p.2.any Prod.snd then (c.srcAddr p.1).map fun a => a / 32 * 32 else none
    if vas = [] then s else s.onCopy c.id fun x => { x with psn := x.psn ++ vas }

/-- The data of some elements, which lie together, the first of them at dst, written. -/
def State.writeGroup (s : State) (c : Copy) (dst : Option Place) (l : List ElemData) : State :=
  let lo := lowAt c.dstAddr (l.map Prod.fst)
  let ws := c.bytesOf lo l
  let s1 := s.notePoison c l
  match if c.sz < 4 then dst.map fun p => p.inItsLine lo else dst with
  | none =>
    let at_ := ws.1.map fun p => (lo + p.1, p.2)
    (s1.copyLocal c (at_.map Prod.fst)).engStore c.cid at_
  | some (.main pa) =>
    let w := s.writerOf c.ctx c.wid
    let put := fun (marked : Bool) => (ws.1.filter fun p => ws.2.contains p.1 == marked).map fun p => (pa + p.1, p.2)
    (s1.reach c pa).onMem fun m => (m.writeAs (some w) .copied (put false)).writeAs (some w) .marked (put true)
  | some p =>
    if ws.1 = [] then s1
    else s1.request (.copy s.core.no c.id []) (s.copyStream c) (p.inItsLine lo) lo (s.copyJob c) (.write ws.1 ws.2)

/-- The copy's writes carried on from element k, as far as they go: a word, or a remote line, once all its elements have their data. -/
def State.writeOn (c : Copy) : Nat → State → Nat → State × Nat
  | 0, s, k => (s, k)
  | fuel + 1, s, k =>
    if c.count ≤ k then (s, k)
    else
      match s.writeSide c k with
      | .ok p =>
        let l := (c.group c.dstAddr (c.block (p.any fun q => q.remote.isSome)) k).map fun j => (j, s.dataOf c j)
        if l.all fun d => d.2.isSome then
          State.writeOn c fuel (if l = [] then s else s.writeGroup c p (l.map fun d => (d.1, d.2.getD none))) (k + 1)
        else (s, k)
      | _ => (s, k)

/-- The copy carried on from its progress record. -/
def State.progress (s : State) (c : Copy) : State :=
  let r := State.readOn c c.count s (max c.asked c.done)
  let w := State.writeOn c c.count (r.1.onCopy c.id fun x => { x with asked := r.2 }) c.done
  w.1.onCopy c.id fun x => { x with done := w.2, got := x.got.filter fun p => decide (w.2 ≤ p.1) }

/-- How its next elements stand, the first one first: of one element, the source before the destination (09 R169). -/
def State.fronts (s : State) (c : Copy) : List Ready :=
  let rd := if c.asked < c.count then [s.readSide c c.asked] else []
  let wr := if c.done < c.count then [s.writeSide c c.done] else []
  if c.asked ≤ c.done then rd ++ wr else wr ++ rd

/-- Does it stop the copy? -/
def Ready.stops : Ready → Bool
  | .fault _ _ _ _ | .nowhere _ => true
  | _ => false

/-- What a copy waits for asked for: a walk of a page, its turn at a pinned line. -/
def State.copyWait (s : State) (c : Copy) : State :=
  (s.fronts c).foldl (fun s r => match r with
    | .miss va => s.mergeMiss (s.core.no / 256) c.ctx va [] [(s.core.no, c.id)]
    | .retry line => s.waitRetry line (.copy s.core.no c.id)
    | _ => s) s

/-! ## Completion and suspension -/

/-- An earlier access of its class, or a fence, that holds the copy back (07 R126, 08 R152); the local copies have none. -/
def CoreSt.copyHeld (c : CoreSt) (k : Copy) : Bool :=
  k.kind.global &&
  (c.classBusy k.wid k.cls k.id || c.fenced k.wid k.cls k.id k.kind.writes)

/-- A failed request, told to its warp (15 R291): counted on an unreported one, else a new cause. -/
def addFabric (l : List Pend) (code : Nat) (w2 w3 : Word) : List Pend :=
  if l.any fun p => p.code == 10 then
    upd (fun p => p.code == 10) (fun p => if p.detail / 256 < 255 then { p with detail := p.detail + 256 } else p) l
  else l ++ [{ code := 10, detail := code, w2 := w2, w3 := w3, slots := 0 }]

def State.reportFabric (s : State) (wid : Nat) (l : List (Nat × Nat × Nat)) : State :=
  l.foldl (fun s p => s.onWarp wid fun w =>
    if w.run = .retired then w else { w with pend := addFabric w.pend p.1 (BitVec.ofNat 64 p.2.1) (BitVec.ofNat 64 p.2.2) }) s

/-- A copy ends: its flag is counted down, and poison and failures reach its warp. -/
def State.endCopy (s : State) (c : Copy) : State :=
  let s1 := (s.onCore fun k => { k with copies := drop' (·.id == c.id) k.copies }).flagDown c.wid (some c.flag)
  let s2 := match c.psn.dedup with
    | a :: l => (l.foldl (fun (s : State) va => s.entryFor c.wid (poisonEntry va)) s1).consume c.wid false (BitVec.ofNat 64 a) 0
    | [] => s1
  (s2.consumeIf c.wid c.bad 0).reportFabric c.wid (c.fail.map fun p => (p.1, p.2, 0))

/-- Has a copy requests without an answer? -/
def State.awaits (s : State) (id : Nat) : Bool :=
  (s.fab.out ++ s.fab.queued).any fun r => match r.who with
    | .copy _ i _ => i == id
    | _ => false

/-- Is the copy a CPYP? -/
def CopyKind.plane : CopyKind → Bool
  | .p _ => true
  | _ => false

/-- An active copy carried on at its core, which no hold, no order and no check of its bundle stops: what it leaves, and the copy as it
then stands. -/
def State.copyStep (s : State) (core id : Nat) : State × Option Copy :=
  let s1 := s.focusCore core
  match s1.core.copies.find? (·.id == id) with
  | some c =>
    if c.susp.isSome || c.kind.plane || s1.core.copyHeld c || s1.core.frozen copyHolds then (s1, none)
    else
      let s2 := s1.pastCheck c.wid c.issue
      if s2.unchecked c.wid c.issue then (s2, none)
      else
        let s3 := s2.both fun s => s.progress c
        (s3, s3.core.copies.find? (·.id == id))
  | none => (s1, none)

/-- COPY_COMPLETE (09 R168): it moves what it can; once every element is moved and answered it ends. A copy that would fault
is left to COPY_SUSPEND. -/
def execCopyComplete (core id : Nat) (s : State) : Host.Outcome State Fault Refusal :=
  match s.copyStep core id with
  | (s1, none) => .next s1
  | (s1, some d) =>
    if d.count ≤ d.done then .next (if s1.awaits id then s1 else s1.endCopy d)
    else
      match (s1.fronts d).find? Ready.stops with
      | some (.nowhere pa) => .fault (.noSuchMemory pa)
      | some _ => .next (s.focusCore core)
      | none => .next (s1.copyWait d)

/-- A suspended slot of the warp that is free; which one of several, the manual does not say. -/
def State.suspSlot (s : State) (wid : Nat) : Nat :=
  let free := (List.range 4).filter fun n => !(s.core.copies.any fun c => c.wid == wid && c.susp.any fun u => u.slot == n)
  free.getD (Config.freeNat s.freeCtr % free.length) 0

/-- COPY_SUSPEND (09 R169). It will translate anew. -/
def execCopySuspend (core id : Nat) (s : State) : Host.Outcome State Fault Refusal :=
  match s.copyStep core id with
  | (_, none) => .next (s.focusCore core)
  | (s1, some d) =>
    match if d.count ≤ d.done then none else (s1.fronts d).find? Ready.stops with
    | some (.fault kind side sub a) =>
      let u : Susp := { slot := s1.suspSlot d.wid, kind := kind, dstSide := side, sub := sub, addr := a, reported := false }
      .next { (s1.onCopy id fun x => { x with susp := some u, walked := [] }) with freeCtr := s1.freeCtr + 1 }
    | _ => .next (s.focusCore core)

/-! ## The scheduled plane (09 R186 to R190; 06 R118) -/

/-- The receiving cohort of a channel and the FIFO index it arrives at: the channel's place among those declared into that
cohort (09 R188). -/
def Gang.arrival (g : Gang) (n : Nat) : Option (Nat × Nat) :=
  match g.chan n with
  | some c => (g.cids[c.dst]?).map fun cid => (cid, ((g.chans.take n).filter fun d => d.dst == c.dst).length)
  | none => none

/-- A granule that arrives at a FIFO, at its core's cycle (06 R118): dropped where the FIFO is full or in
transition, and counted; dropped, and counted nowhere, where its index is no FIFO's any longer (log 24). -/
def State.arrive (s : State) (cid q : Nat) (bs : List Byte) : State :=
  let co := s.localOf cid
  let t := (s.coreAt co.corE).cycle
  if co.nf ≤ q then s
  else if co.moving (co.fifoBank q) then s.countAt co.corE fun k => { k with bankTrans := k.bankTrans + 1 }
  else
    let full := decide (256 ≤ (co.fifo q).q.length)
    let s1 := if full then s.countAt co.corE fun k => { k with fifoOvf := k.fifoOvf + 1 } else s
    s1.mapCohorts (·.cid == cid) fun k =>
      let k1 := (k.applyStores t).endDrain t
      k1.setFifo q (if full then { k1.fifo q with ovf := true } else { k1.fifo q with q := (k1.fifo q).q ++ [bs] })

/-- Does an earlier CPYP of the cohort on the same channel still have flits to send (09 R189)? -/
def CoreSt.planeBusy (c : CoreSt) (k : Copy) : Bool :=
  c.copies.any fun d => d.cid == k.cid && d.kind = k.kind && decide (d.id < k.id)

/-- A CPYP's next flit sent on channel n; with its last the copy ends. -/
def State.sendFlit (s : State) (c : Copy) (n : Nat) : State :=
  let co := s.localOf c.cid
  let offs := (List.range 64).map fun i => addr64 (c.src + 64 * c.done + i)
  let s1 := (s.copyLocal c offs).copyBad c offs
  let s2 := match (s1.gangOf co).bind fun g => g.arrival n with
    | some a => s1.arrive a.1 a.2 (co.engRead offs)
    | none => s1
  let s3 := s2.onCopy c.id fun x => { x with done := x.done + 1 }
  if 64 * (c.done + 1) < c.kind.packedBytes (geoOf c.geo) then s3 else s3.endCopy ((s3.copyAt c.id).getD c)

/-- CPYP_FLIT_ARRIVAL (06 R118, 09 R189, R190): the slots of a sender that holds pass unused. -/
def execCpypFlitArrival (core id : Nat) (s : State) : Host.Outcome State Fault Refusal :=
  let s1 := s.focusCore core
  match s1.core.copies.find? (·.id == id) with
  | none => .next s1
  | some c =>
    match c.kind with
    | .p chan =>
      if s1.core.planeBusy c || s1.core.frozen [] then .next s1
      else
        let s2 := s1.pastCheck c.wid c.issue
        .next (if s2.unchecked c.wid c.issue then s2 else s2.sendFlit c chan)
    | _ => .next s1

end Sys2Proof.Machine
end

