-- ==== Sys2Proof/Machine/EvTier.lean ====
section
/-! DEFINITION. Page tables as Fjody and the tier engine write them, the fault service, and the steps of the walkers and the tier
engine (spec 03 R81 to R87; 04 R91 to R96; 08 R165; 24 R403). -/

namespace Sys2Proof.Machine
open Sys2Proof.Num

/-! ## Page-table entries (04 Tables 4.1, 4.2) -/

/-- The level of a page's leaf. -/
def leafLevel : PageSize → Nat
  | .g1 => 2 | .m2 => 1 | .k64 => 0

/-- The address of the entry of a level that an address uses, if valid pointers lead there from a table of level n − 1. -/
def entryAddr (m : MemSt) (va goal : Nat) : Nat → Nat → Option Nat
  | 0, _ => none
  | level + 1, base =>
    let a := base + 8 * levelIndex level va
    if level = goal then some a
    else
      let e := m.entry a
      if e % 2 = 1 && e / 2 % 2 = 0 && !malformed level e then entryAddr m va goal level (e / 2 ^ 8 % 2 ^ 44 * 2 ^ 8) else none

/-- The address of the leaf entry of a page of a context. -/
def State.leafAddr (s : State) (ctx va : Nat) (sz : PageSize) : Option Nat :=
  match s.ctxAt ctx with
  | some { root := some r, .. } => entryAddr s.mem va (leafLevel sz) 4 r
  | _ => none

/-- A leaf (04 Table 4.2). -/
def mkLeaf (pa tgt win : Nat) (p : Perm) (tier : Bool) : Nat :=
  1 + 2 + p.r.toNat * 2 ^ 3 + p.w.toNat * 2 ^ 4 + p.a.toNat * 2 ^ 5 + p.x.toNat * 2 ^ 6 + tier.toNat * 2 ^ 7 + tgt % 4 * 2 ^ 8 +
    pa / 2 ^ 16 % 2 ^ 36 * 2 ^ 16 + win % 256 * 2 ^ 52

/-- The permissions of a leaf. -/
def leafPerm (e : Nat) : Perm := { r := isOne (fld e 3 1), w := isOne (fld e 4 1), a := isOne (fld e 5 1), x := isOne (fld e 6 1) }

/-- n bytes written by Fjody, Caddy or the tier engine. -/
def State.poke (s : State) (pa n x : Nat) : State := s.put ((leBytes n x).zipIdx.map fun q => (pa + q.2, q.1))

/-- A leaf written, and the entries of every TLB of the package that the page has dropped (03 R86, 04 R94). -/
def State.setLeaf (s : State) (ctx va : Nat) (sz : PageSize) (e : Nat) : State :=
  match s.leafAddr ctx va sz with
  | some a => (s.poke a 8 e).invalidate (fun _ => true) ctx (pageOf sz va) (pageOf sz va + 2 ^ pageBits sz)
  | none => s

/-! ## Contexts -/

def State.onCtx (s : State) (ctx : Nat) (f : Ctx → Ctx) : State := s.onXl fun x => { x with ctxs := upd (·.id == ctx) f x.ctxs }

/-- A tier page of a context changed. -/
def State.onTier (s : State) (ctx va : Nat) (f : TierPage → TierPage) : State :=
  s.onCtx ctx fun c => { c with tier := upd (·.va == va) f c.tier }

/-- The tier page that holds an address. -/
def Ctx.tierAt (c : Ctx) (va : Nat) : Option TierPage := c.tier.find? fun p => p.va == pageOf .m2 va

/-- Does an allocation's range hold an address? -/
def reqHolds (r : MapReq) (va : Nat) : Bool := decide (r.va ≤ va) && decide (va < r.va + r.pages * 2 ^ pageBits r.sz)

/-- The item entry of a failure that concerns every launch in flight that p picks. -/
def State.entryAll (s : State) (p : Launch → Bool) (e : Entry) : State :=
  s.onSch fun c => { c with running := upd p (fun l => { l with entries := addEntryTo e l.entries }) c.running }

/-- Does a number lie in a range of n from lo on? -/
def within (lo n x : Nat) : Bool := decide (lo ≤ x) && decide (x < lo + n)

/-! ## What this package has put at a pool node (03 R75, R86) -/

/-- A write of this package into what it keeps at a pool node, with the offsets of the bytes that carry a poison mark: a granule stays
poisoned unless all of it is written. -/
def Kept.put (k : Kept) (off : Nat) (ws : List (Nat × Byte)) (psn : List Nat) : Kept :=
  let o := off - k.off
  let whole := fun (g : Nat) => (List.range 32).all fun i => ws.any fun p => o + p.1 == 32 * g + i
  let gs := (ws.map fun p => (o + p.1) / 32).dedup
  { k with
    bytes := tsets Config.freshByte k.bytes (ws.map fun p => (o + p.1, p.2)),
    poison := gs.foldl (fun t g => tset false t g ((psn.any fun i => (o + i) / 32 == g) || (tget false t g && !whole g))) k.poison }

/-- Where a tier page lies in the capacity tier, by its leaf. -/
def State.poolAt (s : State) (ctx va : Nat) : Nat × Nat :=
  match s.walkOf ctx va with
  | .leaf e sz =>
    match leafPlace e sz va with
    | .pool w o => (w, o)
    | _ => (0, 0)
  | _ => (0, 0)

/-- What a page holds at its pool node before this package has put anything there: its data, and which granules carry a poison mark, are free
values. -/
def Kept.free (win off fr : Nat) : Kept :=
  let gs := List.range 65536
  { win := win, off := off,
    bytes := gs.foldl (fun t g => (List.range 32).foldl (fun t i =>
      tset Config.freshByte t (32 * g + i) ((Config.freeWord (fr + 5 * g + i / 8) >>> (8 * (i % 8))).setWidth 8)) t) [],
    poison := gs.foldl (fun t g => tset false t g (Config.freeNat (fr + 5 * g + 4) % 2 == 1)) [] }

/-- Does a place of a pool node lie in a tier page of which nothing is kept yet? -/
def State.unkept (s : State) (win off : Nat) (c : Ctx) (p : TierPage) : Bool :=
  p.res.isNone && p.kept.isNone && (s.poolAt c.id p.va).1 == win && within (s.poolAt c.id p.va).2 (2 ^ 21) off

/-- The tier page that such a place lies in is kept from now on. -/
def State.adopt (s : State) (win off : Nat) : State :=
  let keep := fun (c : Ctx) (p : TierPage) =>
    if s.unkept win off c p then { p with kept := some (Kept.free win (s.poolAt c.id p.va).2 s.freeCtr) } else p
  { (s.onXl fun x => { x with ctxs := x.ctxs.map fun c => { c with tier := c.tier.map (keep c) } }) with freeCtr := s.freeCtr + 5 * 65536 }

/-- A write at an offset of a window: what lies there is kept. -/
def State.keepWrite (s0 : State) (win off : Nat) (ws : List (Nat × Byte)) (psn : List Nat) : State :=
  let s := if s0.xl.ctxs.any fun c => c.tier.any (s0.unkept win off c) then s0.adopt win off else s0
  let f := fun (k : Kept) => if k.win = win && within k.off (2 ^ 21) off then k.put off ws psn else k
  s.onXl fun x => { x with ctxs := x.ctxs.map fun c => { c with tier := c.tier.map fun p => { p with kept := p.kept.map f } } }

/-- What the package keeps at a place of a pool node. -/
def State.keptAt (s : State) (win off : Nat) : Option Kept :=
  (s.xl.ctxs.flatMap fun c => c.tier.filterMap TierPage.kept).find? fun k => k.win == win && within k.off (2 ^ 21) off

/-- Is an offset of it in a poisoned granule? -/
def Kept.psn (k : Kept) (off : Nat) : Bool := tget false k.poison ((off - k.off) / 32)

/-! ## The fault service (08 R165; 15 R289; 24 R403) -/

/-- The permissions that a kind of access needs (04 Table 4.3). -/
def kindNeed : PgKind → Need
  | .read => [1] | .write => [2] | .atomic => [1, 2, 3] | .exec => [4]

/-- Are they granted? -/
def grants (p : Perm) (k : PgKind) : Bool :=
  (kindNeed k).all fun d => match d with
    | 1 => p.r
    | 2 => p.w
    | 3 => p.a
    | _ => p.x

/-- What the fault service answers. -/
inductive Served where
  | present | refused | failed | waits
  deriving DecidableEq, Repr

/-- The partition, by its place in the list, that owns the 64 KiB page of an address (05 R102); and that which runs a context's launches: of
one in flight or queued, else the one whose range its main memory lies in, if it has some (log 12). -/
def MemSt.owner (m : MemSt) (pa : Nat) : Nat := Config.addrOwner (pa / 65536) % m.parts.length
def State.runsIn (s : State) (c : Ctx) : Option Nat :=
  match (s.sch.running ++ s.sch.queues.flatMap Queue.recs).find? fun l => l.ctx == c.id with
  | some l => s.sch.parts.findIdx? fun p => p.id == l.part
  | none => (c.allocs.find? fun r => r.tgt == 0 && !r.defer).map fun r => s.mem.owner r.pa

/-- Does main memory from pa on lie in one partition's range, and in that of the partition that runs the context's launches (05 R102)? -/
def State.inRange (s : State) (c : Ctx) (pa n : Nat) : Bool :=
  decide (s.mem.parts.length < 2) ||
  (List.range ((n + 65535) / 65536)).all fun i => s.mem.owner (pa + 65536 * i) == (s.runsIn c).getD (s.mem.owner pa)

/-- Where the page of a deferred range that holds an address lies, and whether there is such a page to be had (24 R403): a page of main
memory is where Fjody has named one that exists, in the range of the context's partition. -/
def Defer.pageAt (d : Defer) (va : Nat) : Nat := d.req.pa + (pageOf d.req.sz va - d.req.va)
def Defer.had (d : Defer) (s : State) (c : Ctx) (va : Nat) : Bool :=
  d.req.tgt != 0 ||
    (decide (d.pageAt va + 2 ^ pageBits d.req.sz ≤ Config.memBytes) && s.inRange c (d.pageAt va) (2 ^ pageBits d.req.sz))

/-- Data put by Fjody at an address of a target of the request: main memory, or a pool node. -/
def State.putAt (s : State) (r : MapReq) (pa : Nat) (bs : List Byte) : State :=
  match r.tgt with
  | 0 => s.put (bs.zipIdx.map fun q => (pa + q.2, q.1))
  | 1 => s.keepWrite r.win pa (bs.zipIdx.map fun q => (q.2, q.1)) []
  | _ => s

/-- A deferred page made present: its leaf is written, and the data that Fjody holds for it appears (24 R403). -/
def State.bringIn (s : State) (ctx : Nat) (d : Defer) (va : Nat) : State :=
  let base := pageOf d.req.sz va
  let pa := d.pageAt va
  let size := 2 ^ pageBits d.req.sz
  let mine := fun (p : Nat × List Byte) => decide (base ≤ p.1) && decide (p.1 < base + size)
  let s1 := s.setLeaf ctx base d.req.sz (mkLeaf pa d.req.tgt d.req.win d.req.perm d.req.tier)
  let s2 := (d.held.filter mine).foldl (fun s p => s.putAt d.req (pa + (p.1 - base)) p.2) s1
  s2.onCtx ctx fun c => { c with defers := upd (fun x => x.req.va == d.req.va) (fun x => { x with held := drop' mine x.held }) c.defers }

/-- A bad leaf entered in the device error log and told to Fjody. -/
def State.badLeaf (s : State) (ctx va : Nat) : State × Served := (s.logged (.badLeaf ctx (pageOf .k64 va)), .failed)

/-- A page with no leaf: deferred, or one that cannot be brought in. -/
def State.serveInvalid (s : State) (c : Ctx) (va : Nat) (k : PgKind) : State × Served :=
  match c.defers.find? fun d => reqHolds d.req va with
  | some d =>
    if !grants d.req.perm k then (s, .refused)
    else if !d.had s c va then (s, .failed)
    else if s.blocked (s.bringIn c.id d va) then (s, .waits)
    else (s.bringIn c.id d va, .present)
  | none => s.badLeaf c.id va

/-- A page with a valid leaf: a tier page in the capacity tier waits for its promotion. -/
def State.serveLeaf (s : State) (c : Ctx) (va e : Nat) (k : PgKind) : State × Served :=
  if !grants (leafPerm e) k then (s, .refused)
  else if e / 2 ^ 8 % 4 = 0 then (s, .present)
  else if (c.tierAt va).any fun p => p.res.isNone then (s.onTier c.id (pageOf .m2 va) fun p => { p with want := true }, .waits)
  else (s, .present)

/-- The fault service asked for the page of an address with the permission of a kind. -/
def State.serve (s : State) (ctx va : Nat) (k : PgKind) : State × Served :=
  match s.ctxAt ctx with
  | none => (s, .refused)
  | some c =>
    if !(c.allocs.any fun r => reqHolds r va) then (s, .refused)
    else if s.isMigrating ctx va then (s, .waits)
    else
      match s.walkOf ctx va with
      | .leaf e _ => s.serveLeaf c va e k
      | .fault 2 => s.serveInvalid c va k
      | _ => s.badLeaf ctx va

/-! ## Walks (04 R95, R96) -/

/-- TLB_WALK_START: a core's miss that the die TLB does not hold either. -/
def execTlbWalkStart (core ctx va : Nat) (s : State) : Host.Outcome State Fault Refusal :=
  .next (if (hitTlb (tget [] s.xl.dtlb (core / 256)) ctx va).isSome then s else s.mergeMiss (core / 256) ctx va [core] [])

/-- Does one of the die's 64 walkers work on the entry: is it among the die's first 64? A walker that is free
takes the entry that has waited longest: log 48. -/
def State.walking (s : State) (m : Merge) : Bool := ((s.xl.merge.filter fun k => k.die == m.die).take 64).contains m

/-- What a core learns from the walk of a page that it misses: a leaf fills its TLB, a fault is kept for the bundle that it holds. -/
def CoreSt.walkDone (c : CoreSt) (m : Merge) (t : Option TlbEnt) : CoreSt :=
  if m.cores.contains c.no then
    match t with
    | some t => { c.putTlb t with miss := c.miss.filter (· != (m.ctx, m.va)) }
    | none => { c with miss := c.miss.filter (· != (m.ctx, m.va)), walked := if c.miss.contains (m.ctx, m.va) then c.walked ++ [(m.ctx, m.va)] else c.walked }
  else c

/-- What the waiting copies of a core learn from a walk that faulted. -/
def CoreSt.copyWalked (c : CoreSt) (m : Merge) : CoreSt :=
  { c with copies := upd (fun k => m.copies.contains (c.no, k.id)) (fun k => { k with walked := k.walked ++ [m.va] }) c.copies }

/-- WALK_COMPLETE: the result fills the die TLB and every waiting core TLB together; a walk that faults caches nothing. -/
def execWalkComplete (die ctx va : Nat) (s : State) : Host.Outcome State Fault Refusal :=
  match s.xl.merge.find? fun m => m.at_ die ctx va with
  | none => .next s
  | some m =>
    if !s.walking m || s.walkWaits ctx va then .next s
    else
      let s1 := (s.walkRead ctx va).onXl fun x => { x with merge := drop' (fun m => m.at_ die ctx va) x.merge }
      match s.walkOf ctx va with
      | .leaf e sz =>
        let t : TlbEnt := { ctx := ctx, va := pageOf sz va, sz := sz, leaf := BitVec.ofNat 64 e }
        .next ((s1.onXl fun x => x.putDtlb die t).mapCores fun c => c.walkDone m (some t))
      | _ => .next (s1.mapCores fun c => (c.walkDone m none).copyWalked m)

/-! ## Promotion and eviction (03 R84, R85) -/

/-- A hint is stale below the context's step. -/
def TierPage.stale (p : TierPage) (step : Nat) : Bool := p.hint.all fun h => decide (h.2 < step)

/-- Is the page to be promoted: wanted by the fault service, or within the promotion window? -/
def TierPage.due (p : TierPage) (c : Ctx) : Bool :=
  p.res.isNone && (p.want || p.hint.any fun h => decide (c.stepc.toNat ≤ h.2) && decide (h.2 ≤ c.stepc.toNat + c.window))

/-- Lexicographic order of keys. -/
def keyLt : List Nat → List Nat → Bool
  | a :: l, b :: m => decide (a < b) || (a == b && keyLt l m)
  | _, _ => false

/-- The first of some pages by a key. -/
def firstBy (key : TierPage → List Nat) : List TierPage → Option TierPage
  | [] => none
  | p :: l =>
    match firstBy key l with
    | some q => if keyLt (key q) (key p) then some q else some p
    | none => some p

/-- The order of promotions: next-use step, higher priority, lower address; a page that the fault service wants first. -/
def TierPage.upKey (p : TierPage) : List Nat :=
  match p.want, p.hint with
  | true, _ => [0, 0, 0, p.va]
  | false, some h => [1, h.2, 7 - h.1, p.va]
  | false, none => [2, 0, 0, p.va]

/-- The order of victims: the furthest next use, a stale hint or none first of all; the lower priority; the earlier promotion;
the lower address. -/
def TierPage.outKey (p : TierPage) (step : Nat) : List Nat :=
  (if p.stale step then [0, 0] else [1, 2 ^ 61 - (p.hint.getD (0, 0)).2]) ++ [(p.hint.getD (0, 0)).1, p.res.getD 0, p.va]

/-- The context's victim: no page of priority 7 whose hint is not stale. -/
def Ctx.victim (c : Ctx) (busy : Nat → Bool) : Option TierPage :=
  firstBy (fun p => p.outKey c.stepc.toNat)
    (c.tier.filter fun p => p.res.isSome && !busy p.va && (p.stale c.stepc.toNat || (p.hint.getD (0, 0)).1 != 7))

/-- The pages that lie in main memory, or are on their way there or away. -/
def State.resident (s : State) (c : Ctx) : Nat :=
  (c.tier.filter fun p => p.res.isSome && !(s.xl.migr.any fun g => g.ctx == c.id && g.va == p.va && !g.toMain)).length +
  (s.xl.migr.filter fun g => g.ctx == c.id && g.toMain).length

/-- A migration started; a promotion waits no longer. -/
def State.migrate (s : State) (g : Migr) : State :=
  (s.onXl fun x => { x with migr := x.migr ++ [g] }).onTier g.ctx g.va fun p => { p with waited := false }

/-- Fjody's promotion window of a context, 0 to 255 steps (03 R84). -/
def State.setWindow (s : State) (ctx : Nat) (w : Option Nat) : State :=
  match w with
  | some n => s.onCtx ctx fun c => { c with window := min n 255 }
  | none => s

/-- A promotion that waits because no resident page can be a victim is counted once (03 R85); one that waits only for the migrations
under way is not. -/
def State.countWait (s : State) (c : Ctx) (t : TierPage) : State :=
  if t.waited || (c.victim fun _ => false).isSome then s
  else (s.onCtx c.id fun c => { c with waits := c.waits + 1 }).onTier c.id t.va fun p => { p with waited := true }

/-- TIER_PROMOTE (03 R84, R85): the context's next page; at the quota a victim is evicted first, or the promotion waits,
which is counted. -/
def execTierPromote (ctx : Nat) (p : TierMove) (s0 : State) : Host.Outcome State Fault Refusal :=
  let s := s0.setWindow ctx p.window
  match s.ctxAt ctx with
  | none => .next s
  | some c =>
    match firstBy TierPage.upKey (c.tier.filter fun t => t.due c && !s.isMigrating ctx t.va) with
    | none => .next s
    | some t =>
      let at_ := s.poolAt ctx t.va
      let up : Migr := { ctx := ctx, va := t.va, frame := p.frame, win := at_.1, off := at_.2, toMain := true }
      if p.frame % 2 ^ 21 != 0 || decide (Config.memBytes < p.frame + 2 ^ 21) || !s.inRange c p.frame (2 ^ 21) then .next s
      else if s.resident c < c.quota then .next (s.migrate up)
      else
        match c.victim (s.isMigrating ctx) with
        | none => .next (s.countWait c t)
        | some v =>
          match s.xlateMem ctx v.va [] with
          | .ok (.main pa) _ =>
            .next ((s.migrate { ctx := ctx, va := v.va, frame := pa, win := p.outWin, off := p.outOff, toMain := false }).migrate up)
          | _ => .next s

/-! ## The end of a migration (03 R86, R87) -/

/-- The migration of a page. -/
def State.migrOf (s : State) (ctx va : Nat) : Option Migr := s.xl.migr.find? fun g => g.ctx == ctx && g.va == pageOf .m2 va
def State.endMigr (s : State) (g : Migr) : State := s.onXl fun x => { x with migr := x.migr.erase g }

/-- A leaf with its target replaced. -/
def retarget (e pa tgt win : Nat) : Nat := mkLeaf pa tgt win (leafPerm e) (isOne (fld e 7 1))

/-- The page's leaf, as it stands. -/
def State.leafOf (s : State) (g : Migr) : Nat :=
  match s.walkOf g.ctx g.va with
  | .leaf e _ => e
  | _ => 0

/-- The granules of a 2 MiB frame. -/
def frameGranules (pa : Nat) : List Nat := (List.range 65536).map fun i => pa / 32 + i

/-- A frame without contents. -/
def MemSt.clearFrame (m : MemSt) (pa : Nat) : MemSt :=
  let out := fun (g : Nat) => !within (pa / 32) 65536 g
  { m with
    bytes := m.bytes.filter fun p => !within pa (2 ^ 21) p.1, l2 := m.l2.filter fun p => out p.1,
    latent := m.latent.filter fun p => out p.1, poison := m.poison.filter fun p => out p.1 }

/-- The bytes of a frame by offset, the L2's where it has them. -/
def MemSt.frameBytes (m : MemSt) (pa : Nat) : Tbl Byte :=
  (m.l2.filter fun p => within (pa / 32) 65536 p.1).foldl
    (fun t p => tsets Config.freshByte t (p.2.bytes.filterMap fun q => q.2.map fun b => (32 * p.1 + q.1 - pa, b)))
    ((m.bytes.filter fun p => within pa (2 ^ 21) p.1).map fun p => (p.1 - pa, p.2))

/-- The poisoned granules of a frame. -/
def MemSt.framePoison (m : MemSt) (pa : Nat) : Tbl Bool :=
  let gs := if m.stk.any fun p => p.2.failed then frameGranules pa
    else (m.poison.map Prod.fst ++ m.latent.map Prod.fst ++ m.l2.map Prod.fst).filter (within (pa / 32) 65536)
  (gs.filter m.poisoned).foldl (fun t g => tset false t (g - pa / 32) true) []

/-- What an evicted page takes to its pool node: its data and its poison marks. -/
def State.keepFrame (s : State) (g : Migr) : State :=
  s.onTier g.ctx g.va fun p =>
    { p with kept := some { win := g.win, off := g.off, bytes := s.mem.frameBytes g.frame, poison := s.mem.framePoison g.frame } }

/-- Granules that the tier engine could not read from a pool node: poisoned at their new place and counted (03 R87). -/
def MemSt.unread (m : MemSt) (l : List Nat) : MemSt :=
  l.foldl (fun m g =>
    { m.onStack (m.stackNo g) (fun k => { k with uncorrected := k.uncorrected + 1, log := k.log ++ [.poisoned g] }) with
      poison := tset false m.poison g true }) m

/-- A frame filled with what a page held at its pool node. Which granules the node has meanwhile lost to an uncorrectable error is a free
value (03 R87). -/
def State.fillKept (s : State) (pa : Nat) (k : Kept) : State :=
  let m1 := s.mem.clearFrame pa
  let m2 : MemSt :=
    { m1 with
      bytes := tsets Config.freshByte m1.bytes (k.bytes.map fun p => (pa + p.1, p.2)),
      poison := tsets false m1.poison (k.poison.map fun p => (pa / 32 + p.1, p.2)) }
  { s with mem := m2.unread (((Config.lostGranules s.freeCtr).filter fun i => decide (i < 65536)).map fun i => pa / 32 + i), freeCtr := s.freeCtr + 1 }

/-- A frame filled from the pool node of a promoted page. -/
def State.fillFrame (s : State) (g : Migr) : State :=
  match ((s.ctxAt g.ctx).bind fun c => c.tierAt g.va).bind TierPage.kept with
  | some k => s.fillKept g.frame k
  | none => { s with freeCtr := s.freeCtr + 5 * 65536 }.fillKept g.frame (Kept.free g.win g.off s.freeCtr)

/-- Every granule of a frame poisoned. -/
def State.poisonFrame (s : State) (pa : Nat) : State := s.onMem fun m => (frameGranules pa).foldl MemSt.mark m

/-- An evicted frame read: its uncorrectable errors are counted, and no warp consumes them. -/
def State.readFrame (s : State) (pa : Nat) : State :=
  s.onMem fun m => (m.latent.filter fun p => within (pa / 32) 65536 p.1).foldl (fun m p => m.fill p.1) m

/-- Does a place lie where a migrating page lies until its remap? -/
def Migr.holds (g : Migr) (p : Place) : Bool :=
  match p with
  | .main a => !g.toMain && within g.frame (2 ^ 21) a
  | .pool w o => g.toMain && w == g.win && within g.off (2 ^ 21) o
  | .peer _ _ => false

/-- Is an access under way that has gone to the old place: a lane sent there, a write-combining entry, a request that has been sent or
queues? The mapping is not replaced before it has performed, so that no access sees the old and the new location mixed (03 R86). -/
def State.reaching (s : State) (g : Migr) : Bool :=
  ((s.allCores.flatMap CoreSt.ops ++ s.sch.saved.flatMap Saved.ops).any fun o => o.lanes.any fun l => l.sent && !l.done && g.holds l.pl) ||
  (s.allCores.any fun c => c.wcb.any fun e => g.holds e.pl) ||
  (s.fab.out ++ s.fab.queued).any fun r => g.toMain && r.win == g.win && within g.off (2 ^ 21) r.off

/-- The frame lies in a stack that retrains: the migration's accesses wait (03 R71). -/
def State.frameAway (s : State) (pa : Nat) : Bool :=
  (s.mem.stk.any fun p => p.2.retraining.isSome) &&
  (List.range 16384).any fun i => (s.mem.stack (s.mem.stackNo (pa / 32 + 4 * i))).retraining.isSome

/-- Where a place of the old location lies in the new one (03 R86). -/
def Migr.to_ (g : Migr) (p : Place) : Place :=
  if g.holds p then
    match p with
    | .main a => .pool g.win (g.off + (a - g.frame))
    | .pool _ o => .main (g.frame + (o - g.off))
    | .peer _ _ => p
  else p

/-- The lanes that have not gone anywhere yet go to the new location. -/
def Op.migrated (g : Migr) (o : Op) : Op := { o with lanes := o.lanes.map fun l => if l.sent || l.done then l else { l with pl := g.to_ l.pl } }

/-- An armed word moves with its page: it lies in main memory, or no longer. -/
def SigSlot.migrated (g : Migr) (x : SigSlot) : SigSlot :=
  if g.toMain then (if x.ctx = g.ctx && pageOf .m2 x.va = g.va then { x with pa := some (g.frame + x.va % 2 ^ 21) } else x)
  else if x.pa.any (within g.frame (2 ^ 21)) then { x with pa := none } else x

/-- What waits for the page follows it. -/
def State.follow (s : State) (g : Migr) : State :=
  (s.mapCores fun c => { c with ops := c.ops.map (Op.migrated g), sigs := c.sigs.map (SigSlot.migrated g) }).onSch fun c =>
    { c with saved := c.saved.map fun v => { v with ops := v.ops.map (Op.migrated g), sigs := v.sigs.map (SigSlot.migrated g) } }

/-- The page remapped: a promoted one is resident from now. -/
def State.remap (s : State) (g : Migr) : State :=
  let e := if g.toMain then retarget (s.leafOf g) g.frame 0 0 else retarget (s.leafOf g) g.off 1 g.win
  ((((s.endMigr g).setLeaf g.ctx g.va .m2 e).follow g).onTier g.ctx g.va fun p =>
    { p with res := if g.toMain then some s.nextId else none, want := false, kept := if g.toMain then none else p.kept }).bump

/-- Was the page's data in the capacity tier lost? -/
def State.wasLost (s : State) (ctx va : Nat) : Bool := s.xl.lost.contains (ctx, va)

/-- The data moved, and the page remapped. -/
def State.migrated (s : State) (g : Migr) : State :=
  if !g.toMain then ((s.readFrame g.frame).keepFrame g).remap g
  else if s.wasLost g.ctx g.va then
    ((s.poisonFrame g.frame).onXl fun x => { x with lost := x.lost.erase (g.ctx, g.va) }).remap g
  else (s.fillFrame g).remap g

/-- MIGRATION_COMPLETE: an eviction of the context that began before a promotion ends before it, the accesses that have gone to the old
place have performed, and nothing keeps the frame or the page table from being accessed. -/
def execMigrationComplete (ctx va : Nat) (s : State) : Host.Outcome State Fault Refusal :=
  match s.migrOf ctx va with
  | none => .next s
  | some g =>
    let t := s.migrated g
    .next (if s.reaching g || s.frameAway g.frame || (g.toMain && (s.xl.migr.takeWhile (· != g)).any fun h => h.ctx == ctx && !h.toMain) ||
      s.blocked t then s else t)

/-- MIGRATION_NODE_FAILURE (03 R87): the page's data at the pool node is lost. A promoted page is poisoned in main memory, an
evicted one entered in the table of pages lost; Caddy is notified, and the context's launches in flight report it. -/
def execMigrationNodeFailure (ctx va : Nat) (s : State) : Host.Outcome State Fault Refusal :=
  match s.migrOf ctx va with
  | none => .next s
  | some g =>
    let s1 := if g.toMain then (s.poisonFrame g.frame).remap g
      else (s.onXl fun x => { x with lost := if x.lost.contains (ctx, g.va) then x.lost else x.lost ++ [(ctx, g.va)] }).remap g
    .next ((s1.entryAll (fun l => l.ctx == ctx) { kind := .fabric, status := .lost, val := g.va }).tell (.pageLost ctx g.va))

end Sys2Proof.Machine
end

