-- ==== Sys2Proof/Machine/Maps.lean ====
section
/-! DEFINITION. Page tables written: new tables, leaves, ranges mapped and cut (spec 04 R88 to R94; 24 R403). -/

namespace Sys2Proof.Machine
open Sys2Proof.Num

/-- A range of main memory as it reads before anything has written it: new page tables, which hold no valid entry. -/
def State.clearRange (s : State) (pa n : Nat) : State :=
  let gs := fun (g : Nat) => decide (pa / 32 ≤ g) && decide (g < (pa + n) / 32)
  s.onMem fun m =>
    { m with
      bytes := m.bytes.filter fun p => !(decide (pa ≤ p.1) && decide (p.1 < pa + n)), l2 := m.l2.filter fun p => !gs p.1,
      poison := m.poison.filter fun p => !gs p.1, latent := m.latent.filter fun p => !gs p.1 }

/-- Bytes of a table of a level (04 Table 4.1). -/
def tableBytes : Nat → Nat
  | 3 => 65536 | 2 => 65536 | 1 => 4096 | _ => 256

/-- The entry of a level for an address, new tables put in where there are none. -/
def State.ensure (va goal : Nat) : Nat → Nat → List Nat → State → Option (State × Nat × List Nat)
  | 0, _, _, _ => none
  | level + 1, base, ts, s =>
    let a := base + 8 * levelIndex level va
    let e := s.mem.entry a
    if level = goal then some (s, a, ts)
    else if e % 2 = 1 then
      (if e / 2 % 2 = 0 && !malformed level e then State.ensure va goal level (e / 2 ^ 8 % 2 ^ 44 * 2 ^ 8) ts s else none)
    else
      match ts with
      | [] => none
      | t :: l =>
        let n := tableBytes (level - 1)
        if t % n != 0 || decide (Config.memBytes < t + n) then none
        else State.ensure va goal level t l ((s.clearRange t n).poke a 8 (1 + t))

/-- One page's entry written. -/
def State.putPage (s : State) (root va : Nat) (sz : PageSize) (e : Nat) (ts : List Nat) : Option (State × List Nat) :=
  (s.ensure va (leafLevel sz) 4 root ts).map fun r => (r.1.poke r.2.1 8 e, r.2.2)

/-- The first n pages of a mapping. -/
def State.putPages (root : Nat) (r : MapReq) : Nat → State × List Nat → Option (State × List Nat)
  | 0, x => some x
  | n + 1, x =>
    match State.putPages root r n x with
    | some y =>
      let size := 2 ^ pageBits r.sz
      y.1.putPage root (r.va + n * size) r.sz (if r.defer then 0 else mkLeaf (r.pa + n * size) r.tgt r.win r.perm r.tier) y.2
    | none => none

/-- The parts of a range that lie outside [lo, hi). -/
def cutReq (lo hi : Nat) (r : MapReq) : List MapReq :=
  let size := 2 ^ pageBits r.sz
  if hi ≤ r.va ∨ r.va + r.pages * size ≤ lo then [r]
  else
    let before := (lo - r.va) / size
    let after := (hi - r.va + size - 1) / size
    (if 0 < before then [{ r with pages := before }] else []) ++
    (if after < r.pages then [{ r with va := r.va + after * size, pa := r.pa + after * size, pages := r.pages - after }] else [])

/-- A deferred range cut. -/
def cutDefer (lo hi : Nat) (d : Defer) : List Defer :=
  (cutReq lo hi d.req).map fun r => { req := r, held := d.held.filter fun p => reqHolds r p.1 }

/-- A context without what it had in a range. -/
def Ctx.cut (c : Ctx) (lo hi : Nat) : Ctx :=
  { c with
    allocs := c.allocs.flatMap (cutReq lo hi), defers := c.defers.flatMap (cutDefer lo hi),
    given := c.given.filter fun p => decide (p.1 + p.2 ≤ lo) || decide (hi ≤ p.1),
    tier := c.tier.filter fun p => p.va + 2 ^ 21 ≤ lo || hi ≤ p.va }

/-- The end of a mapping's range. -/
def reqEnd (r : MapReq) : Nat := r.va + r.pages * 2 ^ pageBits r.sz

/-- Is a MAP well formed? -/
def goodReq (r : MapReq) : Bool :=
  let size := 2 ^ pageBits r.sz
  r.pages != 0 && r.va % size == 0 && r.pa % size == 0 && decide (reqEnd r ≤ 2 ^ 56) && decide (r.pa + r.pages * size ≤ 2 ^ 52) && decide (r.tgt ≤ 2) &&
  decide (r.win < 256) && (r.tgt != 0 || (r.win == 0 && (r.defer || decide (r.pa + r.pages * size ≤ Config.memBytes)))) && (!r.tier || (r.sz = .m2 && r.tgt != 2))

/-- Is it one for the context: does its main memory lie in the context's range (05 R102)? -/
def State.mapsFor (s : State) (c : Ctx) (r : MapReq) : Bool :=
  goodReq r && (r.tgt != 0 || r.defer || s.inRange c r.pa (r.pages * 2 ^ pageBits r.sz))

/-- A range cut at multiples of 32. -/
def pieces : Nat → Nat → List Byte → List (Nat × List Byte)
  | 0, _, _ => []
  | n + 1, va, bs => if bs = [] then [] else (va, bs.take (32 - va % 32)) :: pieces n (va + (32 - va % 32)) (bs.drop (32 - va % 32))

/-- n zeros in pieces. -/
def zeroPieces (va n : Nat) : List (Nat × List Byte) := pieces (n + 1) va (List.replicate n 0)

/-- The tier pages that a mapping adds. -/
def tierPages (r : MapReq) (t : Nat) : List TierPage :=
  if r.tier then (List.range r.pages).map fun i => { va := r.va + i * 2 ^ 21, hint := none, res := if r.tgt = 0 then some t else none, want := false, waited := false, kept := none }
  else []

/-- The data held for deferred pages that a mapping makes present. -/
def State.releaseHeld (s : State) (ctx : Nat) (held : List (Nat × List Byte)) : State :=
  held.foldl (fun s p => match s.xlateMem ctx p.1 [] with
    | .ok (.main pa) _ => s.put (p.2.zipIdx.map fun q => (pa + q.2, q.1))
    | .ok (.pool w o) _ => s.keepWrite w o (p.2.zipIdx.map fun q => (q.2, q.1)) []
    | _ => s) s

/-- A MAP's effect, which the loader's mappings have too (20 R386). -/
def State.doMap (s : State) (c : Ctx) (root : Nat) (r : MapReq) : Option State :=
  (State.putPages root r r.pages (s, r.tables)).map fun x =>
    let held := c.defers.flatMap fun d => d.held.filter fun p => reqHolds r p.1
    let s1 := (x.1.onCtx c.id fun c =>
      let k := c.cut r.va (reqEnd r)
      { k with
        allocs := k.allocs ++ [r], tier := k.tier ++ tierPages r s.nextId,
        defers := if r.defer then k.defers ++ [{ req := r, held := held }] else k.defers }).bump
    (if r.defer then s1 else s1.releaseHeld c.id held).invalidate (fun _ => true) c.id r.va (reqEnd r)

end Sys2Proof.Machine
end

