-- ==== Sys2Proof/Machine/Shake.lean ====
section
/-! DEFINITION. SHAKE256, by whose digests Fjody records a launch's inputs (spec 19 R375) and signs its reports (21 R394): the spec names the
function and does not define it; this is FIPS 202's, with 32 bytes of output (assumption log 60). A word is a natural below 2^64; the
1,600 bits of the permutation are five sheets x of five words y. -/

namespace Sys2Proof.Machine

/-- The word of sheet x at y, both modulo 5. -/
def kWord (k : List (List Nat)) (x y : Nat) : Nat := (k.getD (x % 5) []).getD (y % 5) 0

/-- Sheets built word by word. -/
def kBuild (f : Nat → Nat → Nat) : List (List Nat) := (List.range 5).map fun x => (List.range 5).map (f x)

/-- A word turned left by n bits. -/
def kTurn (n w : Nat) : Nat := w % 2 ^ (64 - n % 64) * 2 ^ (n % 64) + w / 2 ^ (64 - n % 64)

/-- The parity of a sheet. -/
def kParity (k : List (List Nat)) (x : Nat) : Nat := (k.getD (x % 5) []).foldl Nat.xor 0

/-- Theta: to each word the parities of the two neighbouring sheets. -/
def kTheta (k : List (List Nat)) : List (List Nat) :=
  kBuild fun x y => Nat.xor (kWord k x y) (Nat.xor (kParity k (x + 4)) (kTurn 1 (kParity k (x + 1))))

/-- The places that rho and pi visit in turn after t steps from sheet 1, y 0. -/
def kWalk : Nat → Nat × Nat
  | 0 => (1, 0)
  | t + 1 => let p := kWalk t; (p.2, (2 * p.1 + 3 * p.2) % 5)

/-- Rho's turn of the word at a place: of the one visited at step t, the triangular number t (t + 1) / 2 of the next; the first word stays. -/
def kOffset (x y : Nat) : Nat := (((List.range 24).find? fun t => kWalk t == (x, y)).map fun t => (t + 1) * (t + 2) / 2).getD 0

/-- Rho and pi: the turned word of sheet x + 3y at x goes to sheet x, y. -/
def kScatter (k : List (List Nat)) : List (List Nat) :=
  kBuild fun x y => kTurn (kOffset ((x + 3 * y) % 5) x) (kWord k (x + 3 * y) x)

/-- Chi: each word with the next two of its row. -/
def kChi (k : List (List Nat)) : List (List Nat) :=
  kBuild fun x y => Nat.xor (kWord k x y) (Nat.land (Nat.xor (kWord k (x + 1) y) (2 ^ 64 - 1)) (kWord k (x + 2) y))

/-- The shift register of the round constants after t steps. -/
def kShift : Nat → Nat
  | 0 => 1
  | t + 1 => let v := 2 * kShift t; if 256 ≤ v then Nat.xor v 0x171 else v

/-- Iota's constant of round r: bit 2^j - 1 is the register's low bit at step 7r + j. -/
def kIota (r : Nat) : Nat := (List.range 7).foldl (fun c j => c + kShift (7 * r + j) % 2 * 2 ^ (2 ^ j - 1)) 0

/-- A round, and the 24 of them. -/
def kRound (k : List (List Nat)) (r : Nat) : List (List Nat) :=
  let c := kChi (kScatter (kTheta k))
  kBuild fun x y => if x + y = 0 then Nat.xor (kWord c 0 0) (kIota r) else kWord c x y
def kPermute (k : List (List Nat)) : List (List Nat) := (List.range 24).foldl kRound k

/-- A message's next 136 bytes taken in: word i goes to sheet i mod 5, at i div 5. -/
def kTake (k : List (List Nat)) (l : List Byte) : List (List Nat) :=
  kPermute (kBuild fun x y => Nat.xor (kWord k x y) (if x + 5 * y < 17 then leNat ((l.drop (8 * (x + 5 * y))).take 8) else 0))

/-- The message taken in by pieces of 136 bytes; the last, shorter one with the suffix 1111 and the padding. -/
def kSponge : Nat → List (List Nat) → List Byte → List (List Nat)
  | 0, k, l => kTake k ((l ++ 0x1F :: List.replicate (135 - l.length) 0).set 135 (if l.length = 135 then 0x9F else 0x80))
  | n + 1, k, l => kSponge n (kTake k (l.take 136)) (l.drop 136)

/-- The first 32 bytes of the SHAKE256 digest. -/
def shake256 (l : List Byte) : List Byte :=
  let k := kSponge (l.length / 136) (kBuild fun _ _ => 0) l
  (List.range 4).flatMap fun x => leBytes 8 (kWord k x 0)

end Sys2Proof.Machine
end

