-- ==== Sys2Proof/Machine/HostMem.lean ====
section
/-! DEFINITION. Transfers between the host and a context's memory, and recordings (spec 03 R76, R420; 19 R374, R375; 24 R403). -/

namespace Sys2Proof.Machine
open Sys2Proof.Num

/-! ## Where a piece lies -/

/-- Where a piece of a transfer lies: main memory, beyond the fabric, a deferred page, a page that migrates or a line that is pinned
(05 R106) or away; or it is denied. -/
inductive Spot where
  | main (pa : Nat)
  | far (p : Place)
  | later (d : Defer)
  | moving
  | denied
  deriving DecidableEq, Repr

def State.spot (s : State) (ctx va : Nat) (k : PgKind) : Spot :=
  match s.xlateMem ctx va (kindNeed k) with
  | .ok (.main pa) _ =>
    if (s.allCores.any fun c => c.pins.any fun p => p.line == pa / 128) || s.mem.away (pa / 32) ||
      (k = .write && (s.mem.stack (s.mem.stackNo (pa / 32))).retraining.isSome) then .moving else .main pa
  | .ok p _ => .far p
  | .migrating => .moving
  | .fault 6 2 =>
    match (s.ctxAt ctx).bind fun c => c.defers.find? fun d => reqHolds d.req va && grants d.req.perm k && d.had s c va with
    | some d => .later d
    | none => .denied
  | _ => .denied

/-- Does one of the pieces lie so? -/
def State.anySpot (s : State) (ctx : Nat) (k : PgKind) (l : List (Nat × List Byte)) (x : Spot) : Bool := l.any fun p => s.spot ctx p.1 k = x

/-- What this package keeps at a place of a pool node, with the offset; what lies at any other place beyond the fabric is not its own. -/
def State.keptFar (s : State) (p : Place) : Option (Kept × Nat) :=
  match p with
  | .pool w o => (s.keptAt w o).map fun k => (k, o)
  | _ => none

/-! ## WRITE -/

/-- The entry of a drop in the granule at an address (21 Table 21.3a). -/
def dropEntry (pa : Nat) : Entry := { kind := .pwdrop, status := .pwdrop, val := pa / 32 * 32 }

/-- A piece written to main memory: a partial one into a poisoned granule is dropped, and reported. -/
def State.putPiece (s : State) (pa : Nat) (bs : List Byte) : State × List Entry :=
  let g := pa / 32
  let s1 := (s.makeRoom (pa / 128)).writeback g
  let r := (s1.mem.write none (bs.zipIdx.map fun q => (pa + q.2, q.1))).writeback g
  ({ s1 with mem := r.1 }, if r.2 then [dropEntry pa] else [])

/-- A piece written to a pool node, in the same way where what lies there is kept. -/
def State.putFar (s : State) (p : Place) (bs : List Byte) : State × List Entry :=
  match p with
  | .pool w o =>
    if (s.keptAt w o).any (fun k => k.psn o) && decide (bs.length < 32) then (s, [dropEntry o])
    else (s.keepWrite w o (bs.zipIdx.map fun q => (q.2, q.1)) [], [])
  | _ => (s, [])

/-- WRITE; into a deferred page the data is held. -/
def State.doWrite (s : State) (ctx : Nat) (l : List (Nat × List Byte)) : State × List Entry :=
  l.foldl (fun a p => match a.1.spot ctx p.1 .write with
    | .main pa => let r := a.1.putPiece pa p.2; (r.1, a.2 ++ r.2)
    | .far q => let r := a.1.putFar q p.2; (r.1, a.2 ++ r.2)
    | .later d => (a.1.onCtx ctx fun c =>
        { c with defers := upd (fun x => x.req.va == d.req.va) (fun x => { x with held := x.held ++ [p] }) c.defers }, a.2)
    | _ => a) (s, [])

/-! ## READ -/

/-- A deferred page that a READ touches is made present first. -/
def State.present (s : State) (ctx : Nat) (l : List (Nat × List Byte)) : State :=
  l.foldl (fun s p => match s.spot ctx p.1 .read with
    | .later d => s.bringIn ctx d p.1
    | _ => s) s

/-- The entry of a poisoned granule that a READ meets. -/
def readPoison (va : Nat) : Entry := { kind := .poison, status := .poisoned, val := va / 32 * 32 }

/-- A piece of n bytes read (03 R420): what it returns, and its entries, of errors corrected and of a poisoned granule, which reads as zero and
which no one consumes; beyond the fabric the bytes are free values, but for what this package keeps there. -/
def State.readPiece (s : State) (ctx va n : Nat) : State × List Entry × List Byte :=
  let free := ({ s with freeCtr := s.freeCtr + n }, [], (List.range n).map fun i => (Config.freeWord (s.freeCtr + i)).setWidth 8)
  match s.spot ctx va .read with
  | .main pa =>
    let s1 := s.makeRoom (pa / 128)
    let r := s1.mem.load pa n
    ({ s1 with mem := r.1 }, corrEntries (s1.mem.corrections pa n) ++ (if r.2.2 = [] then [] else [readPoison va]), r.2.1)
  | .far p =>
    match s.keptFar p with
    | some (k, o) =>
      if k.psn o then (s, [readPoison va], List.replicate n 0) else (s, [], tgets Config.freshByte k.bytes (o - k.off) n)
    | none => free
  | _ => free

/-- READ: what it returns. -/
def State.doRead (s : State) (ctx : Nat) (l : List (Nat × List Byte)) : State × List Entry × List Byte :=
  l.foldl (fun a p =>
    let r := a.1.readPiece ctx p.1 p.2.length
    (r.1, r.2.1.foldl (fun l e => addEntryTo e l) a.2.1, a.2.2 ++ r.2.2)) (s, [], [])

/-! ## Recordings (19 R375) -/

/-- The digest of an input range of a context, as the host would read it. -/
def State.digest (s : State) (ctx : Nat) (p : Nat × Nat) : State × Nat × Nat × List Byte :=
  let l := zeroPieces p.1 p.2
  let r := (s.present ctx l).doRead ctx l
  (r.1, p.1, p.2, shake256 r.2.2)

/-- Would the digest of one of the ranges have to wait, as a READ of it would? -/
def State.digestWaits (s : State) (ctx : Nat) (inputs : List (Nat × Nat)) : Bool :=
  inputs.any fun p => s.anySpot ctx .read (zeroPieces p.1 p.2) .moving || s.blocked (s.present ctx (zeroPieces p.1 p.2))

/-- A launch record recorded with the digests of the input ranges that the host names. -/
def State.recordLaunch (s : State) (uid ctx : Nat) (words : List Word) (inputs : List (Nat × Nat)) : State :=
  let r := inputs.foldl (fun (a : State × List (Nat × Nat × List Byte)) p => let d := a.1.digest ctx p; (d.1, a.2 ++ [d.2])) (s, [])
  r.1.onHost fun h => { h with recs := h.recs ++ [{ uid := uid, ctx := ctx, words := words, digests := r.2 }] }

/-- The input ranges that the host has named for a launch, where it is recorded. -/
def State.inputsOf (s : State) (uid : Option Nat) : Option (List (Nat × Nat)) :=
  (s.host.recs.find? fun r => uid == some r.uid).map fun r => r.digests.map fun d => (d.1, d.2.1)

end Sys2Proof.Machine
end

