-- ==== Sys2Proof/Machine/EvDone.lean ====
section
/-! DEFINITION. The end of asynchronous operations: results written, fences, drains, hints, signals, launches, paging (spec 02
R50; 08 R145, R152 to R166; 17 R338 to R341). -/

namespace Sys2Proof.Machine
open Sys2Proof.Num

/-! ## Results (02 R50, 08 R145) -/

/-- Has the operation a register result? -/
def OpKind.returns : OpKind → Bool
  | .load _ _ | .atom _ (some _) | .cas _ | .quiet _ | .launch _ _ _ | .pgfetch _ _ _ => true
  | _ => false

/-- A lane result written over the operation's lanes, from v[d] on. -/
def Op.writeLanes (o : Op) (d : Nat) (w : Warp) : Warp :=
  let m := maskOf (o.lanes.map LaneAcc.lane)
  let v := fun l => ((o.lanes.find? fun x => x.lane == l).map LaneAcc.res).getD 0
  (List.range (regCount o.w)).foldl (fun w k => w.wrV (d + k) m (mkLanes fun l => BitVec.ofNat 32 (v l / 2 ^ (32 * k)))) w

/-- The operation's result in its warp. -/
def Op.write (o : Op) (w : Warp) : Warp :=
  match o.kind with
  | .load d true => w.wrS d (BitVec.ofNat 64 ((o.lanes.head?.map LaneAcc.res).getD 0))
  | .load d false | .atom _ (some d) | .cas d => o.writeLanes d w
  | .quiet d | .launch d _ _ | .pgfetch d _ _ => w.wrS d (BitVec.ofNat 64 o.res)
  | _ => w

/-- Vector registers that it writes. -/
def Op.ports (o : Op) : Nat :=
  match o.kind with
  | .load _ false | .atom _ (some _) | .cas _ => regCount o.w
  | _ => 0

/-- The third write port takes n registers: of those that reach it in one cycle it writes one, and the core holds a cycle for each other. -/
def State.port (s : State) (n : Nat) : State :=
  if n = 0 then s
  else (s.heldFor (if s.core.portAt = some s.now then n else n - 1)).onCore fun c => { c with portAt := some c.cycle }

/-- ASYNC_RESULT_WRITE: at the start of the next cycle, so that a synchronous result due then is written after it and stays: log 22. -/
def execAsyncResultWrite (core id : Nat) (s : State) : Host.Outcome State Fault Refusal :=
  let s1 := s.focusCore core
  match s1.core.ops.find? (·.id == id) with
  | some o =>
    if o.done && !o.wrote && o.kind.returns && !s1.core.frozen accessHolds then
      .next (((s1.onWarp o.wid o.write).port o.ports).onOp id fun x => { x with wrote := true })
    else .next s1
  | none => .next s1

/-! ## Fences and drains (05 R107, R109; 07 R127; 08 R152, R154) -/

/-- Has a fence's before-set performed? -/
def CoreSt.beforeDone (c : CoreSt) (o : Op) (k : FenceKind) (mask : BitVec 16) : Bool :=
  !(c.ops.any fun p => p.wid == o.wid && decide (p.id < o.id) && p.kind.ordered && !p.done && inBefore k mask p.cls p.kind.reads) &&
  !(c.copies.any fun p => p.wid == o.wid && decide (p.id < o.id) && p.kind.global && inBefore k mask p.cls p.kind.reads)

/-- Has a fence's before-set performed, and are the releases done that a barrier phase puts before it (16 R324)? -/
def State.fenceDone (s : State) (o : Op) (k : FenceKind) (mask : BitVec 16) : Bool :=
  s.core.beforeDone o k mask && !(o.waits.any s.pendingOp)

/-- Is the kind a release? -/
def releases : FenceKind → Bool
  | .acq => false
  | _ => true

/-- Is the scope fabric or system? -/
def beyondDev : Scope → Bool
  | .fab | .sys => true
  | _ => false

/-- An operation's effect is performed, with the value it returns. -/
def State.finish (s : State) (o : Op) (res : Nat) : State := s.onOp o.id fun x => { x with done := true, res := res }

/-- A fence: the drains it causes, and its end with the unpins. -/
def State.runFence (s : State) (o : Op) (k : FenceKind) (mask : BitVec 16) : State :=
  let s1 := if releases k && beyondDev o.sc then s.drain fun e => e.wid == o.wid && mask.toNat.testBit e.cls else s
  if s1.fenceDone o k mask then (if releases k && wide o.sc then s1.unpinAll else s1).finish o 0 else s1

/-- Has the warp an earlier store on its way to the write-combining buffer? -/
def CoreSt.storing (c : CoreSt) (o : Op) : Bool :=
  c.ops.any fun p => p.wid == o.wid && decide (p.id < o.id) && p.kind = .store && p.left != []

/-- The drains of a core started before a number and not yet acknowledged. -/
def State.drainsOut (s : State) (core before : Nat) : Bool :=
  (s.fab.out ++ s.fab.queued).any fun r => decide (r.rid < before) && match r.who with
    | .wc c _ _ => c == core
    | _ => false

/-- WCFL: every entry of the core drained; the mark that parts these drains from later ones is kept in `res`. -/
def State.runWcfl (s : State) (o : Op) : State :=
  if o.res = 0 then
    if s.core.storing o then s
    else
      let s1 := s.drain fun _ => true
      s1.onOp o.id fun x => { x with res := s1.nextId }
  else if s.drainsOut s.core.no o.res then s
  else s.finish o o.res

/-! ## Hints, signals, quiet (08 R156, R162, R163) -/

/-- HINT: recorded for every tier page that the range touches; the last stands (03 R82). -/
def State.runHint (s : State) (o : Op) (lo len prio next : Nat) : State :=
  (s.onCtx o.ctx fun c =>
    { c with tier := upd (fun p => len != 0 && decide (p.va < lo + len) && decide (lo < p.va + 2 ^ 21)) (fun p => { p with hint := some (prio, next) }) c.tier }).finish o 0

/-- Has a copy a message still to send: does an element whose side is remote, or cannot yet be told, remain to be asked for or to be
written? -/
def State.copyRemote (s : State) (c : Copy) : Bool :=
  let far := fun (r : Ready) => match r with
    | .ok p => p.any fun q => q.remote.isSome
    | _ => true
  (List.range c.count).any fun j => (decide (c.asked ≤ j) && far (s.readSide c j)) || (decide (c.done ≤ j) && far (s.writeSide c j))

/-- Has the warp an earlier access to a remote page that is still in its core's request path? -/
def CoreSt.sending (c : CoreSt) (o : Op) : Bool :=
  c.ops.any fun p => p.wid == o.wid && decide (p.id < o.id) && p.left.any fun l => l.pl.remote.isSome

/-- Has the warp an earlier remote message that its core has still to send? -/
def State.messages (s : State) (o : Op) : Bool :=
  s.core.sending o || s.core.copies.any fun c => c.wid == o.wid && decide (c.id < o.id) && c.kind.global && s.copyRemote c

/-- Are there messages of a warp, from before a number, that queue behind a frozen stream and have not left the core (15 R289, R296)? -/
def State.queuedOf (s : State) (wid before : Nat) : Bool :=
  s.fab.queued.any fun r => decide (r.rid < before) && s.askerWarp r.who == some wid

/-- SACK: the warp's entries drained once its earlier accesses are in the buffer; the mark that parts those drains from later ones is
kept in `res`; the consumption is counted once they have left. -/
def State.runSack (s : State) (o : Op) (job : Option Nat) : State :=
  if o.res = 0 then
    if s.messages o then s
    else
      let s1 := s.drain fun e => e.wid == o.wid
      s1.onOp o.id fun x => { x with res := s1.nextId }
  else if s.queuedOf o.wid o.res then s
  else (job.elim s fun j => s.countC (s.core.no / 256) j 1).finish o 0

/-- A QUIET ends INDETERMINATE, with its entry. -/
def State.quietLost (s : State) (o : Op) : State := (s.finish o 2).entryFor o.wid { kind := .quiet, status := .quietst, val := o.job }

/-- QUIET: its drain, once the warp's earlier accesses have left the request path; NOJOB and a job's indeterminacy; else it waits on the
waves, with a mark in `res` that its drain is made. -/
def State.runQuiet (s : State) (o : Op) : State :=
  if s.core.sending o then s
  else
    let s1 := s.drain fun e => e.job == o.job
    let j := s1.jobAt o.job
    if j.set.isNone then s1.finish o 3 else if j.indet then s1.quietLost o else s1.onOp o.id fun x => { x with res := 1 }

/-! ## Launch records (17 R337 to R341; 20 R382) -/

/-- Word i of a record. -/
def wordAt (l : List Word) (i : Nat) : Nat := (l.getD i 0).toNat

/-- Are the zero fields of a record zero (17 Table 17.1)? -/
def zerosOk (l : List Word) : Bool :=
  fld (wordAt l 0) 56 8 == 0 && fld (wordAt l 1) 54 10 == 0 && fld (wordAt l 1) 51 1 == 0 && fld (wordAt l 1) 45 3 == 0 &&
  fld (wordAt l 1) 37 3 == 0 && fld (wordAt l 2) 56 8 == 0 && fld (wordAt l 3) 52 12 == 0 && fld (wordAt l 4) 39 25 == 0 &&
  wordAt l 5 == 0 && wordAt l 6 == 0 && wordAt l 7 == 0

/-- A record decoded, for a queue, its partition and what queued it. -/
def launchOf (l : List Word) (uid q part session seq : Nat) (parent : Option Nat) : Launch :=
  { uid := uid, q := q, part := part, entry := fld (wordAt l 0) 0 56, ord := fld (wordAt l 1) 52 2, prio := fld (wordAt l 1) 48 3,
    glo := fld (wordAt l 1) 32 5, ghi := fld (wordAt l 1) 40 5, ngang := fld (wordAt l 1) 0 32,
    param := BitVec.ofNat 64 (fld (wordAt l 2) 0 56), ctx := fld (wordAt l 3) 40 12, job := fld (wordAt l 3) 32 8,
    lid := fld (wordAt l 3) 0 32, depq := fld (wordAt l 4) 32 7, deplid := fld (wordAt l 4) 0 32, session := session, seq := seq,
    parent := parent, prev := none, placed := 0, gsz := 0, retrans := false, status := .ok, entries := [] }

def State.queueAt (s : State) (q : Nat) : Option Queue := s.sch.queues.find? (·.no == q)

/-- The kernel whose entry a launch names. -/
def State.kernelAt (s : State) (ctx entry : Nat) : Option Loaded :=
  (s.ctxAt ctx).bind fun c => c.kernels.find? fun k => k.k.entry == entry

/-- Is a record malformed (17 R339)? -/
def State.badRecord (s : State) (l : List Word) (x : Launch) : Bool :=
  !zerosOk l || x.ngang == 0 || x.glo == 0 || decide (16 < x.ghi) || decide (x.ghi < x.glo) || x.entry % 32 != 0 || x.ord == 3 ||
  (x.ord == 2 && !((s.queueAt x.depq).any fun q => q.part == some x.part)) || x.ctx == 0 ||
  match s.kernelAt x.ctx x.entry with
  | some k => decide (k.k.ghi < x.glo) || decide (x.ghi < k.k.glo)
  | none => true

/-- Does a kernel declare more than one core has of what a re-translation never reduces: warps, banks, barriers (20 R382)? -/
def overHard (k : Kernel) : Bool := decide (16 < k.cohort) || decide (16 < k.scratch + k.fifo + k.l1) || decide (1024 < k.barriers)

/-- Does it declare more of what a re-translation brings within the limits: registers, slots? -/
def overSoft (k : Kernel) : Bool :=
  decide (64 < k.vregs) || decide (512 < k.cohort * k.vregs) || decide (64 < k.tiles) || decide (32 < k.accs)

/-- Is a launch of the kernel refused with RESOURCE: nothing brings it within the limits, or its re-translation would need more parked handles
than the mailbox holds (20 R379, R382)? -/
def noResource (k : Loaded) : Bool := overHard k.k || (overSoft k.k && (!k.eloaden || decide (16 < k.parked)))

/-- Room in a queue. -/
def Queue.room (q : Queue) (n : Nat) : Bool := decide (q.recs.length + n ≤ q.cap)

/-- A launch put at the end of its queue, after the one queued before it (17 R340). -/
def State.push (s : State) (x : Launch) : State :=
  s.onSch fun c =>
    { c with queues := upd (·.no == x.q) (fun q => { q with recs := q.recs ++ [{ x with prev := q.last }], last := some x.uid }) c.queues }

/-- The cohort of a warp. -/
def State.cohortAt (s : State) (cid : Nat) : Option Cohort := s.allCohorts.find? (·.cid == cid)

/-- LAUNCH (08 R164): the first status of NOQUEUE, MALFORMED, RESOURCE and FULL that applies, else ACCEPTED. A child of a recorded launch is
recorded as that is (19 R375: log 60). -/
def State.runLaunch (s : State) (o : Op) (q : Nat) (l : List Word) : State :=
  let part := ((s.cohortAt o.cid).map Cohort.part).getD 0
  match s.queueAt q with
  | none => s.finish o 3
  | some qu =>
    if q < 64 || qu.part != some part then s.finish o 3
    else
      let x := launchOf l s.nextId q part 0 0 ((s.gangOfWarp o.wid).map Gang.launch)
      if s.badRecord l x || x.ctx != o.ctx then s.finish o 4
      else
        match s.kernelAt x.ctx x.entry with
        | none => s.finish o 4
        | some k =>
          if noResource k then s.finish o 5
          else if !qu.room 1 then s.finish o 2
          else
            let go := fun (s : State) => ((s.push { x with retrans := overSoft k.k }).bump).finish o 1
            match s.inputsOf x.parent with
            | some ins => if s.digestWaits x.ctx ins then s else go (s.recordLaunch x.uid x.ctx l ins)
            | none => go s

/-! ## Paging (08 R165, R166) -/

/-- PGFETCH: 1 PRESENT, 2 REFUSED, 3 FAILED; a page on its way is waited for. -/
def State.runPgfetch (s : State) (o : Op) (k : PgKind) (va : Nat) : State :=
  let r := s.serve o.ctx va k
  match r.2 with
  | .present => r.1.finish o 1
  | .refused => r.1.finish o 2
  | .failed => r.1.finish o 3
  | .waits => r.1

/-- XINV: the die's entries of the context over the range; a length of zero takes them all. -/
def State.runXinv (s : State) (o : Op) (lo len : Nat) : State :=
  let die := s.core.no / 256
  (s.invalidate (fun d => d == die) o.ctx (if len = 0 then 0 else lo) (if len = 0 then 2 ^ 64 else lo + len)).finish o 0

/-! ## Completion (08 R144, R145) -/

/-- What ends the operations that make no lane access. -/
def State.perform (s : State) (o : Op) : State :=
  match o.kind with
  | .empty => if s.core.classBusy o.wid o.cls o.id then s else s.finish o 0
  | .fence k m => s.runFence o k m
  | .wcfl => s.runWcfl o
  | .hint lo len p n => s.runHint o lo len p n
  | .sack j => s.runSack o j
  | .quiet _ => s.runQuiet o
  | .launch _ q l => s.runLaunch o q l
  | .pgfetch _ k va => s.runPgfetch o k va
  | .xinv lo len => s.runXinv o lo len
  | .load _ _ | .store | .atom _ _ | .cas _ | .pref | .signal _ => s

/-- Is the operation a warp instruction, whose frame word 3 is zero (08 R145)? -/
def OpKind.warpWide : OpKind → Bool
  | .load _ b => b
  | .signal _ => true
  | _ => false

/-- Poison that the operation read reaches its warp (03 R77): one restart request, and an entry for each granule. -/
def State.opPoison (s : State) (o : Op) : State :=
  match o.psn with
  | [] => s
  | p :: _ =>
    let m : Word := if o.kind.warpWide then 0 else maskOf ((o.psn.filter fun q => q.1 == p.1).map Prod.snd)
    (((o.psn.map Prod.fst).dedup.filter (· != p.1)).foldl (fun s va => s.entryFor o.wid (poisonEntry va)) s).consume
      o.wid false (BitVec.ofNat 64 p.1) m

/-- The operation leaves: its flag is counted down, and poison and failures reach its warp. -/
def State.endOp (s : State) (o : Op) : State :=
  ((((s.onCore fun c => { c with ops := drop' (·.id == o.id) c.ops }).flagDown o.wid o.flag).opPoison o).reportFabric o.wid o.fail)

/-- ACCESS_COMPLETE. -/
def execAccessComplete (core id : Nat) (s : State) : Host.Outcome State Fault Refusal :=
  let s1 := s.focusCore core
  match if s1.core.frozen accessHolds then none else s1.core.ops.find? (·.id == id) with
  | none => .next s1
  | some o =>
    let s2 := if o.done then s1 else s1.opStep core id State.perform
    match s2.core.ops.find? (·.id == id) with
    | some p => .next (if p.done && (p.wrote || !p.kind.returns) then s2.endOp p else s2)
    | none => .next s2

end Sys2Proof.Machine
end

