-- ==== Sys2Proof/Machine/EvLink.lean ====
section
/-! DEFINITION. The fabric's links and its far end: training, lanes, paths, retransmission, requests that arrive, their streams, the
replies to this device's requests (spec 15 R281 to R296, R421). -/

namespace Sys2Proof.Machine
open Sys2Proof.Num

/-! ## Paths that fail (15 R288, R292) -/

/-- A path down, and its windows moved to their alternative paths that are up. -/
def State.moveWindows (s : State) (path : Nat) : State :=
  let s0 := s.onFab fun f => { f with down := if f.down.contains path then f.down else f.down ++ [path] }
  let alt := fun (w : Window) => if w.path = path then w.alt.bind fun a => if s0.pathUp a then some a else none else none
  s0.onFab fun f => { f with windows := f.windows.map fun p => (p.1, (alt p.2).elim p.2 fun a => { p.2 with path := a, alt := none }) }

/-- A path down: the requests that were sent on it go to the path that their window now has, to be retransmitted there; a
window whose path is down fails its pending requests with LOST: those sent are counted as abandoned, those queued are not (15 R296). -/
def State.pathFails (s : State) (path : Nat) : State :=
  let s0 := s.moveWindows path
  let now := fun (r : OutReq) => (s0.windowAt r.win).path
  let lost := fun (r : OutReq) => r.path == path && !s0.pathUp (now r)
  let s1 := s0.onFab fun f => { f with out := upd (fun r => r.path == path && s0.pathUp (now r)) (fun r => { r with path := now r, failed := true }) f.out }
  ((s.fab.queued.filter fun r => !s0.pathUp (now r)).foldl (fun s r => s.dropOut r codeLost)
    ((s.fab.out.filter lost).foldl (fun s r => (s.countA (dieOfPath path) r.job 1).dropOut r codeLost) s1)).flushQueued

/-- PATH_DOWN. -/
def execPathDown (path : Nat) (s : State) : Host.Outcome State Fault Refusal := .next (s.pathFails path)

/-- RETRANSMIT: every request without an answer that the path has taken from one that failed, in order, with the mark. -/
def execRetransmit (path : Nat) (s : State) : Host.Outcome State Fault Refusal :=
  .next (s.onFab fun f => { f with out := upd (fun r => r.path == path && r.failed) (fun r => { r with marked := true, failed := false }) f.out })

/-! ## Links (15 R281 to R285) -/

def State.laneRec (s : State) (l : Nat) : LaneRec := tget LaneRec.fresh s.fab.lanes l
def State.setLane (s : State) (l : Nat) (r : LaneRec) : State := s.onFab fun f => { f with lanes := tset LaneRec.fresh f.lanes l r }

/-- A lane's STATE changed: logged, and reported to the host (15 R285). -/
def State.laneTo (s : State) (l st : Nat) : State :=
  if (s.laneRec l).state = st then s
  else ((s.setLane l { s.laneRec l with state := st }).logged (.lane l st)).onHost fun h => { h with told := h.told ++ [.lane l st] }

/-- The working lane that carries byte k of a flit (15 R283): W[k mod n]. -/
def Trunk.laneOf (t : Trunk) (k : Nat) : Nat := t.lanes.getD (k % t.lanes.length) 0

/-- The paths of a trunk and of its four ports. -/
def pathsOf (trunk : Nat) : List Nat := trunkPath trunk :: (List.range 4).map fun i => 4 * trunk + i

/-- LINK_TRAIN: four ports that all reach one node which accepts form a trunk over 16 lanes; else each trains alone. A path that was up and
is so no longer has failed. -/
def execLinkTrain (trunk : Nat) (r : TrainResult) (s : State) : Host.Outcome State Fault Refusal :=
  let ports := (List.range 4).map fun i => r.portsUp.getD i false
  let bond := ports.all id && r.sameNode && r.accepts
  let t : Trunk := { up := bond, ports := ports, lanes := if bond then List.range 16 else [] }
  let s1 := s.onFab fun f =>
    { f with trunks := tset Trunk.fresh f.trunks trunk t, down := f.down.filter fun p => !(pathsOf trunk).contains p }
  let s2 := ((pathsOf trunk).filter fun p => s.pathUp p && !s1.pathUp p).foldl State.pathFails s1
  .next ((List.range 16).foldl (fun s i => s.laneTo (16 * trunk + i) (if t.ports.getD (i / 4) false then 0 else 3)) s2)

/-- STATE by the thresholds of 15 R285; a lane retires only within a trunk, as one that fails there does too, and stays retired. -/
def State.laneState (s : State) (l : Nat) (m : LaneMargin) : Nat :=
  let th := s.fab.thresh
  let inTrunk := (s.trunkAt (l / 16)).up
  if (s.laneRec l).state = 2 then 2
  else if inTrunk && (m.down || decide (th.getD 2 0 < m.errs) || decide (m.eyeh < th.getD 3 0)) then 2
  else if m.down then 3
  else if decide (th.getD 0 0 < m.errs) || decide (m.eyeh < th.getD 1 0) then 1
  else 0

/-- LANE_STATE_CHANGE: the margin record takes the measurement, against the thresholds as Fjody has set them. A lane that fails takes
its plain port down (15 R284). -/
def execLaneStateChange (lane : Nat) (m : LaneMargin) (s : State) : Host.Outcome State Fault Refusal :=
  let s0 := m.thresh.elim s fun l => s.onFab fun f => { f with thresh := l }
  let r := s0.laneRec lane
  let s1 := (s0.setLane lane { r with eyeh := m.eyeh % 65536, eyew := m.eyew % 256, syms := min (r.syms + m.errs) (2 ^ 32 - 1) }).laneTo
    lane (s0.laneState lane m)
  .next (if (s1.laneRec lane).state = 3 && s1.pathUp (lane / 4) then s1.pathFails (lane / 4) else s1)

/-- LANE_RETIRE (15 R284): the stripe goes on over the other working lanes; with none left the trunk is down (15 R283). -/
def execLaneRetire (lane : Nat) (s : State) : Host.Outcome State Fault Refusal :=
  let t := s.trunkAt (lane / 16)
  if t.up && (s.laneRec lane).state == 2 then
    let left := t.lanes.filter (· != lane % 16)
    let s1 := s.onFab fun f => { f with trunks := tset Trunk.fresh f.trunks (lane / 16) { t with lanes := left } }
    .next (if left = [] then s1.pathFails (trunkPath (lane / 16)) else s1)
  else .next s

/-! ## Requests that arrive (15 R286, R289, R293, R294, R421) -/

/-- The kind of access that a request is, and the permissions it needs here (04 Table 4.3). A SIGNAL, whose A its source's leaf has
granted, needs R and W, as the page of 26 Table 26.1 that takes one has them: log 30. -/
def remNeed : RemOp → PgKind
  | .read _ => .read
  | .write _ _ | .signal _ _ => .write
  | _ => .atomic
def remPerm : RemOp → Need
  | .signal _ _ => [1, 2]
  | op => kindNeed (remNeed op)

/-- Is the answer kept for duplicates: of an atomic, a CAS or a SIGNAL? -/
def performsOnce : RemOp → Bool
  | .read _ | .write _ _ => false
  | _ => true

def TStream.fresh (st : Stream) : TStream := { st := st, hi := 0, since := 0, frozen := none, fault := false, behind := [] }
def State.streamAt (s : State) (st : Stream) : TStream := (s.fab.tstreams.find? fun t => t.st = st).getD (TStream.fresh st)
def State.onStream (s : State) (st : Stream) (f : TStream → TStream) : State :=
  s.onFab fun b =>
    { b with tstreams := if b.tstreams.any fun t => t.st = st then upd (fun t => t.st = st) f b.tstreams else b.tstreams ++ [f (s.streamAt st)] }

/-- An answer sent. -/
def State.answer (s : State) (q : RemReq) (a : Answer) : State := s.onFab fun f => { f with replies := f.replies ++ [{ st := q.st, sn := q.sn, ans := a }] }

/-- The duplicate-reply cache of a port: 256 entries, the oldest leaves. -/
def State.keep (s : State) (q : RemReq) (a : Answer) : State :=
  s.onFab fun f =>
    let l := if 256 ≤ (f.drc.filter fun d => d.port == q.port).length then f.drc.eraseP fun d => d.port == q.port else f.drc
    { f with drc := l ++ [{ port := q.port, st := q.st, sn := q.sn, ans := a }] }

/-- A request consumed, counted at the interface whose port it has reached (15 R296). -/
def State.consumed (s : State) (q : RemReq) : State := s.countC (q.port / 8) q.job 1

/-- Has the stream performed the request already, so that it is a duplicate (15 R293)? -/
def State.duplicate (s : State) (q : RemReq) : Bool := q.marked && decide (q.sn ≤ (s.streamAt q.st).hi)

/-- A request performed: its answer sent, and kept if it may not be performed twice; a duplicate is not counted again. -/
def State.performed (s : State) (q : RemReq) (a : Answer) (count : Bool) : State :=
  let s1 := (s.onStream q.st fun t => { t with hi := max t.hi q.sn }).answer q a
  let s2 := if performsOnce q.op then s1.keep q a else s1
  if count && !s.duplicate q then s2.consumed q else s2

/-- Is a word armed in the package? -/
def State.isArmed (s : State) (pa : Nat) : Bool := s.allSigs.any fun g => g.pa == some pa

/-- The warp of another device as the writer of what its request writes (05 R104). -/
def reqWriter (q : RemReq) : Option Writer := some { dev := some q.st.dev, ctx := q.ctx, core := q.st.core, wid := q.st.warp, launch := 0 }

/-- A SIGNAL performed on a word (08 R158, R160). A request that arrives is counted in its job when its record is consumed,
or at once where the word is not armed. -/
def State.remSignal (s : State) (q : RemReq) (pa : Nat) (op : Aop) (val : Word) : State :=
  let r := s.rmw 0 (reqWriter q) pa 8 fun old => some (aopVal op 64 old val.toNat)
  let after := aopVal op 64 r.2.1 val.toNat
  if r.2.2 || !s.isArmed pa then r.1.performed q .done true
  else (r.1.signalled pa val.toNat after q.st (Aop.code op) q.job (some q.job)).performed q .done false

/-- A read for a request: the bytes, and the offsets of those that lie in poisoned granules (03 R75, R77). -/
def State.remRead (s : State) (pa n : Nat) : State × List Byte × List Nat :=
  let r := s.mem.load pa n
  ({ s with mem := s.mem.logPoison r.1 r.2.2 }, r.1.read pa n, (List.range n).filter fun i => r.1.poisoned ((pa + i) / 32))

/-- A request performed at its place in main memory. -/
def State.perfRem (s0 : State) (q : RemReq) (pa : Nat) : State :=
  let s := s0.makeRoom (pa / 128)
  match q.op with
  | .read n =>
    let r := s.remRead pa n
    r.1.performed q (.data r.2.1 r.2.2) true
  | .write bs psn =>
    let put := fun (marked : Bool) => (bs.filter fun p => psn.contains p.1 == marked).map fun p => (pa + p.1, p.2)
    (s.onMem fun m => (m.writeAs (reqWriter q) .store (put false)).writeAs (reqWriter q) .marked (put true)).performed q .done true
  | .atomic op w v =>
    let r := s.rmw 0 (reqWriter q) pa (wBytes w) fun old => some (aopVal op (8 * wBytes w) old (v.toNat % 2 ^ (8 * wBytes w)))
    r.1.performed q (.value (BitVec.ofNat 64 r.2.1) r.2.2) true
  | .cas w e n =>
    let r := s.rmw 0 (reqWriter q) pa (wBytes w) fun old => if old = e.toNat % 2 ^ (8 * wBytes w) then some (n.toNat % 2 ^ (8 * wBytes w)) else none
    r.1.performed q (.value (BitVec.ofNat 64 r.2.1) r.2.2) true
  | .signal op v => s.remSignal q pa op v

/-- What comes of a request at the head of its stream: performed or rejected; it freezes the stream; it waits for a migration, a stack or
an unpin; an address that does not exist. -/
inductive Arrival where
  | done (s : State)
  | freeze
  | hold (s : State)
  | nowhere (pa : Nat)

/-- Is the line of a fabric request pinned, or does an earlier retry wait for it (05 R106)? -/
def State.lineTaken (s : State) (line : Nat) (who : Waiter) : Bool :=
  (s.allCores.any fun c => c.pins.any fun p => p.line == line) ||
  (s.mem.retryq.takeWhile fun r => !(r.line == line && r.who == who)).any fun r => r.line == line

/-- The requests of a stream that wait at the target. -/
def TStream.waiting (t : TStream) : List RemReq := t.frozen.toList ++ t.behind

/-- A request in the order of arrival at this target (15 R287), until it has been answered. -/
def State.arrived (s : State) (q : RemReq) : State :=
  s.onFab fun f => { f with order := if f.order.contains (q.st, q.sn) then f.order else f.order ++ [(q.st, q.sn)] }
def State.gone (s : State) (q : RemReq) : State := s.onFab fun f => { f with order := f.order.filter (· ≠ (q.st, q.sn)) }

/-- Do two requests go to one line: of main memory, or of one context's addresses where one is not translated? -/
def State.sameLine (s : State) (p q : RemReq) : Bool :=
  match s.xlateMem p.ctx p.va (remPerm p.op), s.xlateMem q.ctx q.va (remPerm q.op) with
  | .fault _ _, _ => false
  | .ok (.main a) _, .ok (.main b) _ => a / 128 == b / 128
  | _, _ => p.ctx == q.ctx && p.va / 128 == q.va / 128

/-- Does a request to the same line that arrived before, in another stream that no fault has frozen, still wait here (15 R287)? -/
def State.behindOther (s : State) (q : RemReq) : Bool :=
  (s.fab.order.takeWhile (· ≠ (q.st, q.sn))).any fun e =>
    decide (e.1 ≠ q.st) && !(s.streamAt e.1).fault && (s.streamAt e.1).waiting.any fun p => p.sn == e.2 && s.sameLine p q

/-- A request tried. -/
def State.attempt (s : State) (q : RemReq) : Arrival :=
  if (s.ctxAt q.ctx).isNone || q.ctx = 0 then .done ((s.answer q .nowin).consumed q)
  else
    match s.xlateMem q.ctx q.va (remPerm q.op) with
    | .ok (.main pa) _ =>
      let me : Waiter := .rem q.st q.sn
      if s.lineTaken (pa / 128) me then .hold (s.waitRetry (pa / 128) me)
      else if s.mem.away (pa / 32) || s.behindOther q then .hold s
      else .done ((s.leaveRetry (pa / 128) me).perfRem q pa)
    | .migrating => .hold s
    | .nowhere pa => .nowhere pa
    | _ => .freeze

/-- A request waits, with those behind it; the source learns that it has frozen its stream. -/
def State.park (s : State) (q : RemReq) (l : List RemReq) (fault : Bool) : State :=
  let t := s.streamAt q.st
  let s1 := if fault && !(t.fault && t.frozen = some q) then s.answer q .frozen else s
  (s1.onStream q.st fun t =>
    { t with since := if t.frozen = some q then t.since else s.nextId, frozen := some q, fault := fault, behind := l }).bump

/-- The requests of a stream answered aborted and counted as consumed, in order (15 R289, R296). -/
def State.abortAll (s : State) (st : Stream) (l : List RemReq) : State :=
  (l.foldl (fun s q => ((s.answer q .aborted).consumed q).gone q) s).onStream st fun t => { t with frozen := none, fault := false, behind := [] }

/-- The requests of a stream tried in order, until one waits. A faulting one calls the fault service at once (15 R289): once the address is
accessible it performs; where the service answers REFUSED or FAILED, or the leaf stays one of another node (15 R421), the target aborts. -/
def State.runStream (st : Stream) : List RemReq → State → Host.Outcome State Fault Refusal
  | [], s => .next (s.onStream st fun t => { t with frozen := none, fault := false, behind := [] })
  | q :: l, s =>
    match s.attempt q with
    | .done s1 => State.runStream st l (s1.gone q)
    | .hold s1 => .next (s1.park q l false)
    | .nowhere pa => .fault (.noSuchMemory pa)
    | .freeze =>
      let r := s.serve q.ctx q.va (remNeed q.op)
      match r.2 with
      | .waits => .next (r.1.park q l true)
      | .present =>
        match r.1.attempt q with
        | .done s1 => State.runStream st l (s1.gone q)
        | .hold s1 => .next (s1.park q l false)
        | .nowhere pa => .fault (.noSuchMemory pa)
        | .freeze => .next (r.1.abortAll st (q :: l))
      | _ => .next (r.1.abortAll st (q :: l))

/-- A marked write, atomic or CAS that has been performed already (15 R293). -/
def State.again (s : State) (q : RemReq) : State :=
  match q.op with
  | .read _ | .write _ _ => s.answer q .done
  | _ =>
    match s.fab.drc.find? fun d => d.port == q.port && decide (d.st = q.st) && d.sn == q.sn with
    | some d => s.answer q d.ans
    | none => s.answer q .stale

/-- Is the request a read? -/
def isReadOp : RemOp → Bool
  | .read _ => true
  | _ => false

/-- REMOTE_REQUEST_ARRIVAL: a read that has been performed already is performed again, as any read is. -/
def execRemoteRequestArrival (q : RemReq) (s : State) : Host.Outcome State Fault Refusal :=
  let t := s.streamAt q.st
  if t.waiting.any fun w => w.sn == q.sn then .next s
  else if s.duplicate q && !isReadOp q.op then .next (s.again q)
  else if t.frozen.isSome then .next ((s.arrived q).onStream q.st fun t => { t with behind := t.behind ++ [q] })
  else State.runStream q.st [q] (s.arrived q)

/-- Is the stream's first request held by a fault? -/
def State.faulted (s : State) (q : RemReq) : Bool :=
  match s.attempt q with
  | .freeze => true
  | _ => false

/-- Is a stream this device's own, at its source? -/
def State.ownStream (s : State) (st : Stream) : Bool := st.dev == s.fab.devNo

/-- A stream of this device goes on: its queue is sent in its original order (15 R289). -/
def State.thaw (s : State) (st : Stream) : State := (s.onFab fun f => { f with frozen := drop' (fun p => p.1 = st) f.frozen }).flushQueued

/-- STREAM_RESUME: at the target, the request that waits is performed, and the queue behind it in order; the source of a stream frozen by a
fault is told. At the source, the stream goes on. -/
def execStreamResume (st : Stream) (s : State) : Host.Outcome State Fault Refusal :=
  let t := s.streamAt st
  match t.frozen with
  | none => .next (if s.ownStream st then s.thaw st else s)
  | some q => State.runStream st t.waiting (if t.fault && !s.faulted q then (s.answer q .resumed).onStream st fun t => { t with fault := false } else s)

/-- Do two requests go to one target: to one node, and through it to one device? -/
def OutReq.sameTarget (r q : OutReq) : Bool := r.node == q.node && r.peer.map Prod.fst == q.peer.map Prod.fst

/-- The faulting request of this device's stream, those behind it at its target and those that queue fail with ABORT, in order (15 R289). -/
def State.abortOwn (s : State) (st : Stream) : State :=
  match s.fab.frozen.find? fun p => p.1 = st with
  | some p =>
    let bad := s.fab.out.find? fun r => r.st = st && r.sn == p.2
    let s1 := ((s.fab.out.filter fun r => r.st = st && decide (p.2 ≤ r.sn) && bad.all fun b => r.sameTarget b) ++ s.fab.queued.filter fun r => r.st = st).foldl
      (fun s r => s.dropOut r codeAbort) s
    (s1.onFab fun f => { f with frozen := drop' (fun p => p.1 = st) f.frozen }).flushQueued
  | none => s

/-- STREAM_ABORT: at the target, where a fault has frozen the stream, its requests are aborted; at the source, they fail. -/
def execStreamAbort (st : Stream) (s : State) : Host.Outcome State Fault Refusal :=
  match (s.streamAt st).frozen with
  | some q => .next (if s.faulted q then s.abortAll st (s.streamAt st).waiting else s)
  | none => .next (if s.ownStream st then s.abortOwn st else s)

/-- DRC_EXPIRE (15 R294): the oldest entry of a port's cache. -/
def execDrcExpire (port : Nat) (s : State) : Host.Outcome State Fault Refusal :=
  .next (s.onFab fun f => { f with drc := f.drc.eraseP fun d => d.port == port })

/-! ## Replies (15 R289 to R291, R421; 03 R75, R77) -/

/-- The FABRIC code of a failed answer; a success has none. -/
def ansCode : Answer → Option Nat
  | .aborted => some codeAbort
  | .stale => some codeStale
  | .lost => some codeLost
  | .unsup => some codeUnsup
  | .nowin => some codeNowin
  | _ => none

/-- The n bytes of an answer from an offset on: as zero where poisoned, for a warp; and whether one is. -/
def ansBytes (bs : List Byte) (psn : List Nat) (off n : Nat) : List Byte × Bool :=
  ((List.range n).map fun i => if psn.contains (off + i) then 0 else bs.getD (off + i) 0, (List.range n).any fun i => psn.contains (off + i))

/-- What an answer gives to a lane of n bytes at an offset of the request: its value, and whether it met poison. -/
def ansNum (a : Answer) (off n : Nat) : Nat × Bool :=
  match a with
  | .data bs psn => let r := ansBytes bs psn off n; (leNat r.1, r.2)
  | .value v psn => (if psn then 0 else v.toNat % 2 ^ (8 * n), psn)
  | _ => (0, false)

/-- An operation's lanes answered; poison is kept for its report. -/
def State.laneData (s : State) (o : Op) (r : OutReq) (lanes : List Nat) (a : Answer) : State :=
  let v := fun (x : LaneAcc) => match x.pl.remote with
    | some (_, _, off) => ansNum a (off - r.off) (wBytes o.w)
    | none => (0, false)
  let bad := o.lanes.filter fun x => lanes.contains x.lane && (v x).2
  (s.finishLanes o.id lanes fun x => (v x).1).onOp o.id fun y => { y with psn := y.psn ++ bad.map fun x => (x.va / 32 * 32, x.lane) }

/-- A copy's read of the bytes from lo on answered: its elements, which it writes from then on; poison becomes zero in the local space. -/
def Copy.answered (c : Copy) (els : List Nat) (lo : Nat) (bs : List Byte) (psn : List Nat) : Copy :=
  { c with
    got := c.got ++ els.map fun j =>
      let o := atOf c.srcAddr j - lo
      let e := ansBytes bs psn o c.sz
      (j, some (if c.kind.writes then (List.range c.sz).map fun k => bs.getD (o + k) 0 else e.1, e.2)) }

/-- What an answered request has changed at a page that this package keeps in the capacity tier. -/
def State.keepDone (s : State) (r : OutReq) (a : Answer) : State :=
  let num := fun (w : Width) (x : Nat) => s.keepWrite r.win r.off ((leBytes (wBytes w) x).zipIdx.map fun p => (p.2, p.1)) []
  match r.op, a with
  | .write bs psn, _ => s.keepWrite r.win r.off bs psn
  | .atomic op w v, .value old false => num w (aopVal op (8 * wBytes w) old.toNat (v.toNat % 2 ^ (8 * wBytes w)))
  | .cas w e n, .value old false => if old.toNat = e.toNat % 2 ^ (8 * wBytes w) then num w (n.toNat % 2 ^ (8 * wBytes w)) else s
  | _, _ => s

/-- A successful answer at its asker. -/
def State.answered (s0 : State) (r : OutReq) (a : Answer) : State :=
  let s := if r.peer.isNone then s0.keepDone r a else s0
  match r.who with
  | .op _ id lanes => (s.opAt id).elim s fun o => s.laneData o r lanes a
  | .wc _ _ refs => refs.foldl (fun s p => s.finishLanes p.1 [p.2] fun _ => 0) s
  | .copy _ id els =>
    match a with
    | .data bs psn => s.onCopy id fun c => c.answered els r.va bs psn
    | _ => s

/-- REMOTE_REPLY. News of a freeze or of its end leave the request pending; a rejection for want of support, and a message that its link has
lost, are counted as abandoned here (15 R296, Table 15.4). -/
def execRemoteReply (rid : Nat) (ans : Answer) (s : State) : Host.Outcome State Fault Refusal :=
  match s.fab.out.find? (·.rid == rid) with
  | none => .next s
  | some r =>
    match ans with
    | .frozen => .next (s.onFab fun f => if f.frozen.any fun p => p.1 = r.st then f else { f with frozen := f.frozen ++ [(r.st, r.sn)] })
    | .resumed => .next (s.thaw r.st)
    | _ =>
      match ansCode ans with
      | some c =>
        .next (if c = codeAbort && s.fab.frozen.contains (r.st, r.sn) then s.abortOwn r.st
          else (((if c = codeUnsup || c = codeLost then s.countA (dieOfPath r.path) r.job 1 else s)).dropOut r c).flushQueued)
      | none => .next ((s.onFab fun f => { f with out := drop' (·.rid == rid) f.out }).answered r ans).flushQueued

/-! ## Retries (05 R106) -/

/-- What of a retried request has still to reach its line; where there is nothing, its place in the queue is given up. -/
def State.retryStep (s : State) (r : Retry) : Option (Host.Outcome State Fault Refusal) :=
  match r.who with
  | .op core id =>
    (s.opAt id).bind fun o =>
      if o.left.any fun l => l.pl.lineNo == r.line then some (if o.kind.atomic then execL2Atomic core id s else execLineRequest core id s) else none
  | .copy core id =>
    let s1 := s.focusCore core
    (s1.core.copies.find? (·.id == id)).bind fun c =>
      if c.susp.isNone && (s1.fronts c).any (fun f => f = .retry r.line || match f with
        | .ok (some (.main pa)) => pa / 128 == r.line
        | _ => false) then some (execCopyComplete core id s) else none
  | .cache core =>
    let s1 := s.focusCore core
    if s1.core.hold.isSome && s1.core.want.contains r.line then some (if s1.retried core r.line r.who then .next s1 else s1.issueNext) else none
  | .rem st sn =>
    (s.streamAt st).frozen.bind fun q =>
      match s.xlateMem q.ctx q.va (remPerm q.op) with
      | .ok (.main pa) _ => if q.sn = sn && pa / 128 == r.line then some (execStreamResume st s) else none
      | _ => none

/-- PIN_RETRY_REPLAY (05 R106): the retried request that has waited longest for a line. -/
def execPinRetryReplay (line : Nat) (s : State) : Host.Outcome State Fault Refusal :=
  match s.mem.retryq.find? (·.line == line) with
  | some r => (s.retryStep r).getD (.next (s.leaveRetry r.line r.who))
  | none => .next s

end Sys2Proof.Machine
end

