-- ==== Sys2Proof/Machine/EvDecant.lean ====
section
/-! DEFINITION. Decant's waves (spec 15 R298 to R301; 08 R163). -/

namespace Sys2Proof.Machine

/-- Is the operation a QUIET of a job that has not finished? -/
def Op.asks (o : Op) (job : Nat) : Bool :=
  o.job == job && !o.done && match o.kind with
    | .quiet _ => true
    | _ => false

/-- The pending QUIETs of a job. -/
def State.quiets (s : State) (job : Nat) : List Op := (s.allCores.flatMap CoreSt.ops ++ s.sch.saved.flatMap Saved.ops).filter fun o => o.asks job

/-- The core an operation belongs to; of one saved with a pre-empted gang, the core that its cohort was on. -/
def State.coreOfOp (s : State) (id : Nat) : Nat :=
  match s.allCores.find? fun c => c.ops.any fun o => o.id == id with
  | some c => c.no
  | none =>
    ((s.sch.saved.findSome? fun v => (v.ops.find? fun o => o.id == id).bind fun o => v.cohorts.find? fun c => c.cid == o.cid).map Cohort.corE).getD 0

/-- Is the drain of a QUIET complete: made, with nothing of the job left in its core's buffer or in a queue, and every drain
acknowledged? -/
def State.drained (s : State) (o : Op) : Bool :=
  let n := s.coreOfOp o.id
  o.res == 1 && !((s.coreAt n).wcb.any fun e => e.job == o.job) &&
  !((s.fab.out ++ s.fab.queued).any fun r => r.job == o.job && match r.who with
    | .wc c _ _ => c == n
    | _ => false)

/-- Is this device a participant? -/
def State.takesPart (s : State) (d : DJob) : Bool := d.set.any fun l => l.contains (.device s.fab.devNo)

/-- Is it the one that each pass visits first? -/
def State.visitedFirst (s : State) (d : DJob) : Bool := (d.set.bind List.head?) == some (.device s.fab.devNo)

/-- And last? -/
def State.visitedLast (s : State) (d : DJob) : Bool := (d.set.bind List.getLast?) == some (.device s.fab.devNo)

/-- WAVE_START (15 R299, R300): where no wave of the job runs and the drain of a QUIET is complete, a wave that answers every QUIET pending.
Its first pass visits this device at once where the set names it first. While the wave runs, the event is the visit of a pass to this
device, at its turn. -/
def execWaveStart (job : Nat) (s : State) : Host.Outcome State Fault Refusal :=
  let d := s.jobAt job
  let l := s.quiets job
  match d.wave with
  | some w => .next (if w.length < 2 then s.onJob job fun d => { d with wave := some (w ++ [d.sums]) } else s)
  | none =>
    .next (if d.set.isSome && !d.indet && l.any s.drained then
        s.onJob job fun d =>
          { d with wave := some (if s.visitedFirst d then [d.sums] else []), waiting := l.map fun o => (s.coreOfOp o.id, o.id) }
      else s)

/-- The sums of one pass: the others' and this device's own, modulo 2^48. -/
def State.passSum (s : State) (d : DJob) (other own : WaveSum) : WaveSum :=
  if s.takesPart d then { i := add48 other.i own.i, c := add48 other.c own.c, a := add48 other.a own.a }
  else { i := other.i % 2 ^ 48, c := other.c % 2 ^ 48, a := other.a % 2 ^ 48 }

/-- Do two passes find the job quiet (15 R299)? -/
def quietSums (p q : WaveSum) : Bool := decide (p = q) && p.i == add48 p.c p.a

/-- WAVE_END (15 R299, R300): a quiet finding completes the QUIETs that the wave answers. A participant that the set names last reports on the
second pass as the wave ends; any other has done so before. -/
def execWaveEnd (job : Nat) (p1 p2 : WaveSum) (s : State) : Host.Outcome State Fault Refusal :=
  let d := s.jobAt job
  match d.wave with
  | none => .next s
  | some w =>
    if s.takesPart d && (w = [] || (w.length < 2 && !s.visitedLast d)) then .next s
    else
      let s1 := s.onJob job fun d => { d with wave := none, waiting := [] }
      if quietSums (s.passSum d p1 (w.getD 0 d.sums)) (s.passSum d p2 (w.getD 1 d.sums)) then
        .next ((d.waiting.filterMap fun p => s1.opAt p.2).foldl (fun s o => if o.done then s else s.finish o 1) s1)
      else .next s1

/-- QTMO_EXPIRY (15 R300), of a QUIET at its core or saved with a pre-empted gang. -/
def execQtmoExpiry (core id : Nat) (s : State) : Host.Outcome State Fault Refusal :=
  let s1 := s.focusCore core
  match s1.opAt id with
  | some o => .next (if o.asks o.job then s1.quietLost o else s1)
  | none => .next s1

/-- A job whose participant failed (15 R301): its QUIETs end at once, its launches in flight report it. -/
def State.jobFails (s : State) (job : Nat) (p : Member) : State :=
  let s1 := s.onJob job fun d =>
    { d with indet := true, wave := none, waiting := [], failed := if d.failed.contains p then d.failed else d.failed ++ [p] }
  let s2 := (s.quiets job).foldl (fun s o => s.finish o 2) s1
  s2.entryAll (fun l => l.job == job) { kind := .quiet, status := .quietst, val := job }

/-- A participant taken as failed, in every job whose set contains it. -/
def State.memberFails (s : State) (p : Member) : State :=
  (s.jobs.filter fun d => d.set.any fun l => l.contains p).foldl (fun s d => s.jobFails d.job p)
    (s.onFab fun f => { f with failed := if f.failed.contains p then f.failed else f.failed ++ [p] })

/-- PARTICIPANT_TIMEOUT (15 R301): it does not answer a wave. -/
def execParticipantTimeout (job : Nat) (p : Member) (s : State) : Host.Outcome State Fault Refusal :=
  let d := s.jobAt job
  .next (if d.wave.isSome && d.set.any (fun l => l.contains p) then s.memberFails p else s)

/-- NODE_FAILURE (15 R288, R301): the paths of the windows that go to the node fail, and so does the participant. -/
def execNodeFailure (node : Nat) (s : State) : Host.Outcome State Fault Refusal :=
  let paths := ((s.fab.windows.filter fun p => p.2.w0.getLsbD 63 && p.2.node == node).map fun p => p.2.path).dedup
  .next ((((paths.filter s.pathUp).foldl State.pathFails s).tell (.nodeFailed node)).memberFails (.node node))

/-- REGISTER_PARTICIPANT_SET (15 R298): up to 64 participants; one that has been taken as failed makes the job indeterminate (15 R301). -/
def execRegisterParticipantSet (job : Nat) (set : MemberList) (s : State) : Host.Outcome State Fault Refusal :=
  let dead := set.filter fun p => s.fab.failed.contains p
  .next (if set.length ≤ 64 && job < 256 then s.onJob job fun d => { d with set := some set, failed := dead, indet := d.indet || dead != [] } else s)

end Sys2Proof.Machine
end

