-- ==== Sys2Proof/Machine/EvLaunch.lean ====
section
/-! DEFINITION. Launches: placement, warp creation, the end of a launch, the watchdog's drain, the code heap and its stubs (spec 09 R188; 17
R333 to R350; 20 R380 to R386; 22 R398; 27 R418). -/

namespace Sys2Proof.Machine
open Sys2Proof.Num

/-! ## Cores and their room (17 R336, R342; 19 R371) -/

/-- The cores of a partition on a die; in protected mode a pair's even core stands for it. -/
def Part.coresOn (p : Part) (die : Nat) : List Nat :=
  ((p.groups.filter fun g => g / 16 == die).flatMap fun g => (List.range 16).map fun i => die * 256 + 16 * (g % 16) + i).filter fun n =>
    !p.prot || n % 2 == 0

/-- Every core of a partition, the odd ones of a protected one too. -/
def Part.cores (p : Part) : List Nat := p.groups.flatMap fun g => (List.range 16).map fun i => g / 16 * 256 + 16 * (g % 16) + i

/-- A sum over the cohorts that a core holds. -/
def State.heldBy (s : State) (n : Nat) (f : Cohort → Nat) : Nat :=
  (s.allCohorts.filter fun c => c.corE == n && c.cid != 0).foldl (fun a c => a + f c) 0

/-- The numbers of the free slots of a core: tile slots from 0, accumulator slots from 64. -/
def CoreSt.freeSlots (c : CoreSt) (from_ n : Nat) : List Nat :=
  ((List.range n).map fun i => from_ + i).filter fun k => (tget TSlot.free c.slots k).owner == 0

/-- What a cohort needs of a core. -/
structure Needs where
  warps : Nat
  vregs : Nat
  banks : Nat
  tiles : Nat
  accs  : Nat
  bars  : Nat
  deriving DecidableEq, Repr

/-- Does it fit on a core, beyond what the resident cohorts hold? -/
def State.fits (s : State) (n : Nat) (k : Needs) : Bool :=
  decide (s.heldBy n Cohort.nwarps + k.warps ≤ 16) && decide (s.heldBy n (fun c => c.nwarps * c.vregs) + k.warps * k.vregs ≤ 512) &&
  decide (s.heldBy n Cohort.banks + k.banks ≤ 16) && decide (s.heldBy n Cohort.nbars + k.bars ≤ 1024) &&
  decide (k.tiles ≤ ((s.coreAt n).freeSlots 0 64).length) && decide (k.accs ≤ ((s.coreAt n).freeSlots 64 32).length)

/-- The kernel as it is placed: re-translated, its registers and slots are brought within the part's limits (20 R382). -/
def placedKernel (k : Kernel) (retrans : Bool) : Kernel :=
  if retrans then
    { k with vregs := min (min k.vregs 64) (512 / k.cohort / 8 * 8), tiles := min k.tiles 64, accs := min k.accs 32 }
  else k

def needsOf (k : Kernel) : Needs :=
  { warps := k.cohort, vregs := k.vregs, banks := k.scratch + k.fifo + k.l1, tiles := k.tiles, accs := k.accs, bars := k.barriers }

/-- Has a die of the partition room for a gang of g cohorts? -/
def State.roomFor (s : State) (p : Part) (k : Needs) (g : Nat) : Bool :=
  (List.range 4).any fun d => decide (g ≤ ((p.coresOn d).filter fun n => s.fits n k).length)

/-! ## Heads and their turn (17 R340 to R342) -/

def State.partAt (s : State) (id : Nat) : Option Part := s.sch.parts.find? (·.id == id)

/-- The head of a queue: the launch whose gangs are being placed, else its first record. -/
def State.head (s : State) (q : Queue) : Option Launch :=
  (s.sch.running.find? fun l => l.q == q.no && decide (l.placed < l.ngang)).or q.recs.head?

/-- Is a launch still to end? -/
def State.live (s : State) (uid : Nat) : Bool := s.sch.running.any fun l => l.uid == uid

/-- Is the launch named by queue and identifier queued or running? -/
def State.pendingLid (s : State) (q lid : Nat) : Bool :=
  (s.sch.running.any fun l => l.q == q && l.lid == lid) || s.sch.queues.any fun k => k.no == q && k.recs.any fun l => l.lid == lid

/-- Does the dependence of a head hold? -/
def State.isReady (s : State) (l : Launch) : Bool :=
  l.placed != 0 ||
  (l.parent.all (fun u => !s.live u) &&
    match l.ord with
    | 1 => l.prev.all fun u => !s.live u
    | 2 => !s.pendingLid l.depq l.deplid
    | _ => true)

/-- The gang size that a head is placed with: fixed by its first gang, else the largest in both ranges that fits. -/
def State.sizeFor (s : State) (p : Part) (l : Launch) (k : Kernel) : Option Nat :=
  let ok := s.roomFor p (needsOf (placedKernel k l.retrans))
  if l.placed != 0 then (if ok l.gsz then some l.gsz else none)
  else (List.range 17).reverse.find? fun g => decide (max 1 (max l.glo k.glo) ≤ g) && decide (g ≤ min l.ghi k.ghi) && ok g

/-- A queue's ready head that can be placed, with its kernel and gang size. -/
def State.candidate (s : State) (p : Part) (q : Queue) : Option (Launch × Kernel × Nat) :=
  match s.head q with
  | none => none
  | some l =>
    if q.part != some p.id || !s.isReady l then none
    else (s.kernelAt l.ctx l.entry).bind fun k => (s.sizeFor p l k.k).map fun g => (l, k.k, g)

/-- A queue's place in a partition's order: its level, then its turn after the queue that placed the partition's last gang of the
level. -/
def State.rank (s : State) (p : Part) (q : Queue) : Nat :=
  (3 - q.level) * 128 + (q.no + 128 - tget 0 s.sch.turn (4 * p.id + q.level)) % 128

/-- The USEC by which a partition's dispatcher tells time: that of the die of its first group. -/
def State.usecOf (s : State) (p : Part) : Nat := (tget DieP.fresh s.dies (p.groups.headD 0 / 16)).usec

/-- Has a queue's head been ready and unplaced for 1 ms? It then blocks the lower levels. -/
def State.late (s : State) (p : Part) (q : Queue) : Bool := q.part == some p.id && q.since.any fun t => decide (t + 1000 ≤ s.usecOf p)

/-- Does no other queue come before? -/
def State.isFirst (s : State) (p : Part) (q : Queue) : Bool :=
  s.sch.queues.all fun k =>
    (decide (s.rank p q ≤ s.rank p k) || (s.candidate p k).isNone) && !(decide (q.level < k.level) && s.late p k)

/-- A queue of a partition whose head is ready and unplaced noted, with the time at which it first was. -/
def State.noteHead (s : State) (p : Part) (q : Queue) : Queue :=
  if q.part = some p.id then { q with since := if (s.head q).any s.isReady then q.since.or (some (s.usecOf p)) else none } else q
def State.noteHeads (s : State) (p : Part) : State := s.onSch fun c => { c with queues := c.queues.map (s.noteHead p) }

/-! ## The scheduled plane's links (09 R187, R188) -/

/-- A channel between cores, with its rate. -/
abbrev Wire := Nat × Nat × Nat

/-- The links of a route, X first: direction and the place they leave. -/
def routeOf (a b : Nat) : List (Nat × Nat) :=
  let p := Config.gridPlace (a % 256) % 256
  let q := Config.gridPlace (b % 256) % 256
  let x1 := p % 16
  let x2 := q % 16
  let y1 := p / 16
  let y2 := q / 16
  ((List.range (x2 - x1)).map fun i => (0, y1 * 16 + x1 + i)) ++ ((List.range (x1 - x2)).map fun i => (1, y1 * 16 + x1 - i)) ++
  ((List.range (y2 - y1)).map fun i => (2, (y1 + i) * 16 + x2)) ++ ((List.range (y1 - y2)).map fun i => (3, (y1 - i) * 16 + x2))

/-- Does no link need more than 64 slots per period? -/
def wiresFit (l : List Wire) : Bool :=
  let used := l.flatMap fun w => (routeOf w.1 w.2.1).map fun k => (k, w.2.2)
  used.all fun u => decide (((used.filter fun v => v.1 = u.1).map Prod.snd).foldl (· + ·) 0 ≤ 64)

/-- The channels of a gang whose cohorts stand on some cores. -/
def wiresOf (chans : List Channel) (cores : List Nat) : List Wire :=
  chans.filterMap fun c => match cores[c.src]?, cores[c.dst]? with
    | some a, some b => some (a, b, c.rate)
    | _, _ => none

/-- The channels of the gangs resident on a die. -/
def State.wiresOn (s : State) (die : Nat) : List Wire :=
  (s.sch.gangs.flatMap fun g => wiresOf g.chans g.cores).filter fun w => w.1 / 256 == die

/-- Has each receiver the FIFO banks of the channels into it that a gang of g cohorts has, numbered as they are declared? -/
def fifosOk (chans : List Channel) (nf g : Nat) : Bool :=
  chans.zipIdx.all fun (c : Channel × Nat) =>
    decide (g ≤ c.1.src) || decide (g ≤ c.1.dst) || decide (((chans.take c.2).filter fun d => d.dst == c.1.dst).length < nf)

/-- Are the ends of each channel different, and its rate from 1 to 64 flits a period? A kernel that declares another is refused as one that
does not fit: log 31. -/
def chansOk (chans : List Channel) : Bool := chans.all fun c => c.src != c.dst && decide (1 ≤ c.rate) && decide (c.rate ≤ 64)

/-- Do the channels of a gang fit? -/
def State.chansFit (s : State) (chans : List Channel) (nf : Nat) (cores : List Nat) : Bool :=
  chansOk chans && fifosOk chans nf cores.length && wiresFit (s.wiresOn (cores.headD 0 / 256) ++ wiresOf chans cores)

/-- The slots of a route whose first link is taken at some cycles of the period: the links in turn, each a cycle on. -/
def slotsTaken (route : List (Nat × Nat)) (cycles : List Nat) : List ((Nat × Nat) × Nat) :=
  cycles.flatMap fun t => route.zipIdx.map fun (k : (Nat × Nat) × Nat) => (k.1, (t + k.2) % 64)

/-- The slots that slot tables give to the channels of a gang. -/
def slotsOf (cores : List Nat) (chans : List Channel) (slots : List (List Nat)) : List ((Nat × Nat) × Nat) :=
  (chans.zip slots).flatMap fun (p : Channel × List Nat) => slotsTaken (routeOf (cores.getD p.1.src 0) (cores.getD p.1.dst 0)) p.2

/-- The slots that the gangs resident on a die have. -/
def State.slotsOn (s : State) (die : Nat) : List ((Nat × Nat) × Nat) :=
  s.sch.gangs.flatMap fun g => if g.cores.headD 0 / 256 = die then slotsOf g.cores g.chans g.slots else []

/-- The loader's slot tables for a gang: each channel that is present has as many cycles as its rate, and no slot is given twice. Which they
are the loader chooses; while there are none such for some cores, the gang is not placed there: log 31. -/
def State.slotsGood (s : State) (cores : List Nat) (chans : List Channel) (slots : List (List Nat)) : Bool :=
  slots.length == chans.length &&
  ((chans.zip slots).all fun (p : Channel × List Nat) =>
    p.2.all (fun t => decide (t < 64)) && p.2.length == (if p.1.src < cores.length ∧ p.1.dst < cores.length then p.1.rate else 0)) &&
  decide (slotsOf cores chans slots ++ s.slotsOn (cores.headD 0 / 256)).Nodup

/-! ## Warp creation (17 R334, R335; 20 R386; 22 R398) -/

/-- The bytes of a warp's stack. -/
def stackBytes (k : Kernel) : Nat := if k.stack = 0 then 65536 else k.stack

/-- The scalar registers that the loader sets. -/
def loaderRegs (k : Kernel) (l : Launch) (stub : Nat) (a : WarpArea) : Tbl Word :=
  tsets 0 [] [(56, l.param), (57, BitVec.ofNat 64 a.stack), (58, BitVec.ofNat 64 (16384 * k.scratch)), (61, BitVec.ofNat 64 stub),
    (62, BitVec.ofNat 64 (a.stack + stackBytes k)), (63, if k.tls = 0 then 0 else BitVec.ofNat 64 a.tls)]

/-- SGW of a declared width. -/
def sgwOf (width : Nat) : Nat := if width = 0 ∨ width = 128 then 64 else width

/-- Two ranges lie apart. -/
def clear2 (p q : Nat × Nat) : Bool := p.2 == 0 || q.2 == 0 || decide (p.1 + p.2 ≤ q.1) || decide (q.1 + q.2 ≤ p.1)

/-- Bytes put, piece by piece, at addresses of a context that lie in main memory, on pages that ok takes; none where one does not. -/
def State.putVa (ctx : Nat) (ok : Word → Bool) : List (Nat × List Byte) → State → Option State
  | [], s => some s
  | p :: l, s =>
    match s.xlateMem ctx p.1 [] with
    | .ok (.main pa) leaf => if ok leaf then State.putVa ctx ok l (s.put (p.2.zipIdx.map fun q => (pa + q.2, q.1))) else none
    | _ => none

/-- Bundles as they lie in memory. -/
def bundleBytes (l : List Instr) : List Byte := l.flatMap fun i => leBytes 32 (encodeBundle i)

/-! ## The code heap (20 R380 to R382; 22 R398) -/

/-- A kernel of width 128 as the translator pairs its warps: two for each logical one, a barrier and 1 KiB of scratch for each pair (20 R380). -/
def paired (k : Kernel) : Kernel :=
  if k.width = 128 then
    { k with cohort := 2 * k.cohort, barriers := k.barriers + k.cohort, scratch := k.scratch + (k.cohort + 15) / 16 }
  else k

/-- An entry stub (20 R381), and the loader's stub for a kernel without a trap label (22 R398). -/
def entryStub (stub body : Nat) : List Byte :=
  bundleBytes [.lpad 1, .br (BitVec.ofInt 32 (((body : Int) - (stub + 32 : Nat)) / 32))]
def haltStub : List Byte := bundleBytes [.haltw, .rft]

/-- A code-heap page: X, and neither R nor W (20 R381). -/
def codeLeaf (leaf : Word) : Bool := leaf.getLsbD 6 && !leaf.getLsbD 3 && !leaf.getLsbD 4
def codeReq (p : Nat × Nat × Nat) (tables : List Nat) : MapReq :=
  { va := p.1, pages := p.2.1, sz := .k64, perm := { r := false, w := false, a := false, x := true }, tgt := 0, win := 0, pa := p.2.2,
    tier := false, defer := false, tables := tables }

/-- An allocation's range. -/
def reqRange (r : MapReq) : Nat × Nat := (r.va, r.pages * 2 ^ pageBits r.sz)

/-- May Caddy or the loader make a mapping for a context: is it well formed, in its partition's range, where nothing is mapped? -/
def State.mapsNew (s : State) (c : Ctx) (r : MapReq) : Bool := s.mapsFor c r && !r.defer && c.allocs.all fun a => clear2 (reqRange a) (reqRange r)

/-- Pages mapped into the code heap. -/
def State.codePages (ctx : Nat) : List (Nat × Nat × Nat) → State × List Nat → Option State
  | [], x => some x.1
  | p :: l, x =>
    let r := codeReq p x.2
    match x.1.ctxAt ctx with
    | some c =>
      if x.1.mapsNew c r then
        (c.root.bind fun root => State.putPages root r r.pages x).bind fun y =>
          State.codePages ctx l
            (((y.1.onCtx ctx fun c => { c with allocs := c.allocs ++ [{ r with tables := [] }] }).invalidate (fun _ => true) ctx r.va (reqEnd r)), y.2)
      else none
    | none => none

/-- Does the code lie within one span of 64 GiB? -/
def inSpan (l : List (Nat × Nat)) : Bool := l.all fun p => l.all fun q => decide (q.1 + q.2 ≤ p.1 + 2 ^ 36)

/-- Is a range none that holds code? -/
def Ctx.codeFree (c : Ctx) (r : Nat × Nat) : Bool := c.code.all fun q => clear2 q r

/-- What a plan adds to a code heap that holds some code: its bodies, and its stubs that are not there yet. -/
def planRanges (p : CodePlan) (code : List (Nat × Nat)) : List (Nat × Nat) :=
  (p.bodies.map fun b => (b.1, b.2.length)) ++ (p.stubs.filter fun x => !code.contains (x.1, 64)).map fun x => (x.1, 64)

/-- Can a code heap take a plan: do all ranges lie apart and within the span, and does each stub go to code? -/
def planFits (p : CodePlan) (code : List (Nat × Nat)) : Bool :=
  let l := code ++ planRanges p code
  inSpan l && decide (l.Pairwise fun p q => clear2 p q = true) && (p.bodies.all fun b => b.1 % 32 == 0) &&
  p.stubs.all fun x => x.1 % 32 == 0 && x.2 % 32 == 0 && l.any fun q => decide (q.1 ≤ x.2) && decide (x.2 < q.1 + q.2)

/-- A plan carried out: pages mapped, bodies and stubs written; none where it cannot be. -/
def State.install (s : State) (ctx : Nat) (p : CodePlan) : Option State :=
  let bytes := (p.bodies ++ p.stubs.map fun x => (x.1, entryStub x.1 x.2)).flatMap fun b => pieces (b.2.length + 1) b.1 b.2
  match s.ctxAt ctx with
  | some c =>
    if planFits p c.code then
      (((State.codePages ctx p.pages (s, p.tables)).bind (State.putVa ctx codeLeaf bytes)).map fun (t : State) =>
        t.onCtx ctx fun c =>
          { c with
            code := c.code ++ planRanges p c.code,
            kernels := c.kernels.map fun x => ((p.traps.find? fun t => t.1 == x.k.entry).map fun t => { x with k := { x.k with trap := some t.2 } }).getD x })
    else none
  | none => none

/-- A launch's kernel re-translated where it has to be (20 R382): its stub goes to a body within the part's limits, from a plan, or from an earlier
launch's. -/
def State.retranslated (s : State) (l : Launch) (code : Option CodePlan) : Option State :=
  if !l.retrans then some s
  else
    match code with
    | some p =>
      if p.stubs.any fun x => x.1 == l.entry then
        (s.install l.ctx p).map fun t => t.onCtx l.ctx fun c => { c with kernels := upd (fun x => x.k.entry == l.entry) (fun x => { x with again := true }) c.kernels }
      else none
    | none => if (s.kernelAt l.ctx l.entry).any Loaded.again then some s else none

/-- A new warp j of cohort i. -/
def newWarp (k : Kernel) (halt : Nat) (l : Launch) (p : Part) (g stub id cid core cycle i j : Nat) (a : WarpArea) : Warp :=
  { Warp.blank with
    id := id, cid := cid, corE := core, s := loaderRegs k l stub a, pc := bundleAddr (BitVec.ofNat 64 k.entry), em := BitVec.allOnes 64,
    am := BitVec.allOnes 64, sgw := sgwOf k.width, warpIdx := j, cohortIdx := i, gsize := g, gidx := l.placed, lid := l.lid,
    ctx := l.ctx, job := l.job, tvec := BitVec.ofNat 64 (k.trap.getD halt), hsp := BitVec.ofNat 64 (a.hstack + 65536), prio := l.prio,
    prot := p.prot, run := .ready, nextIssue := cycle + 1, nregs := k.vregs }

/-- A new cohort. -/
def newCohort (k : Kernel) (l : Launch) (p : Part) (gang cid core i : Nat) : Cohort :=
  { Cohort.blank with
    cid := cid, corE := core, gang := gang, idx := i, ctx := l.ctx, part := p.id, nwarps := k.cohort, vregs := k.vregs,
    banks := k.scratch + k.fifo + k.l1, ns := k.scratch, nf := k.fifo, nl := k.l1, nbars := k.barriers, ended := false }

/-- Slots given to a cohort. -/
def CoreSt.give (c : CoreSt) (cid : Nat) (ns : List Nat) : CoreSt :=
  { c with slots := ns.foldl (fun t n => tset TSlot.free t n { TSlot.free with owner := cid + 1 }) c.slots }

/-- The slots that a cohort takes: the lowest free ones. -/
def State.takeSlots (s : State) (core cid tiles accs : Nat) : State :=
  s.onCoreNo core fun c => c.give cid ((c.freeSlots 0 64).take tiles ++ (c.freeSlots 64 32).take accs)

/-- The ranges of a context's memory that one warp is given: its stack, its handler stack and its thread-local area; and with the unmapped page
below each stack. -/
def areaRanges (k : Kernel) (a : WarpArea) : List (Nat × Nat) := [(a.stack, stackBytes k), (a.hstack, 65536), (a.tls, k.tls)]
def areaSpans (k : Kernel) (a : WarpArea) : List (Nat × Nat) := [(a.stack - 65536, stackBytes k + 65536), (a.hstack - 65536, 131072), (a.tls, k.tls)]

/-- What the warps of the gangs of a context, resident or pre-empted, have been given. -/
def State.areasOf (s : State) (ctx : Nat) : List (Nat × Nat) :=
  ((s.sch.gangs ++ s.sch.saved.map Saved.gang).filter fun g => g.ctx == ctx).flatMap Gang.areas

/-- Is a range one that the loader has mapped, with R and W, in main memory, on pages that are not tier pages? -/
def State.isGiven (s : State) (ctx : Nat) (r : Nat × Nat) : Bool :=
  r.2 == 0 || (List.range ((r.1 % 65536 + r.2 + 65535) / 65536)).all fun i =>
    let va := r.1 / 65536 * 65536 + 65536 * i
    ((s.ctxAt ctx).any fun c => c.given.any fun q => decide (q.1 ≤ va) && decide (va + 65536 ≤ q.1 + q.2)) &&
    match s.xlateMem ctx va [1, 2] with
    | .ok (.main _) leaf => !leaf.getLsbD 7
    | _ => false

/-- Does a stack begin on a page, with the 64 KiB page below it unmapped (20 R385, R386)? -/
def State.isGuarded (s : State) (ctx va : Nat) : Bool := va % 65536 == 0 && decide (65536 ≤ va) && s.xlateMem ctx (va - 65536) [] == .fault 6 2

/-- Are a warp's areas as the calling convention has them (20 R385, R386)? -/
def State.areaGood (s : State) (k : Kernel) (ctx : Nat) (a : WarpArea) : Bool :=
  (areaRanges k a).all (s.isGiven ctx) && s.isGuarded ctx a.stack && s.isGuarded ctx a.hstack

/-- The mappings that the loader makes, in order; none where one cannot be made, or would take what a warp has been given. -/
def State.loaderMaps (ctx : Nat) : List MapReq → State → Option State
  | [], s => some s
  | r :: l, s =>
    match s.ctxAt ctx with
    | some c =>
      if s.mapsNew c r && (s.areasOf ctx).all (clear2 (reqRange r)) then
        (c.root.bind fun root => s.doMap c root r).bind fun t =>
          State.loaderMaps ctx l (t.onCtx ctx fun c => { c with given := c.given ++ [reqRange r] })
      else none
    | none => none

/-- The exit stub's four bundles (20 R386). -/
def exitStub : List Byte := bundleBytes [.lpad 2, .sli 9 (BitVec.allOnes 32), .emset 9, .exit none]

/-- Is there a place for the exit stub: 128 bytes of one page of the code heap, which hold nothing else? -/
def State.stubGood (s : State) (ctx va : Nat) : Bool :=
  va % 32 == 0 && decide (va % 65536 + 128 ≤ 65536) && ((s.ctxAt ctx).any fun c => c.code.contains (va, 128) || c.codeFree (va, 128)) &&
  match s.xlateMem ctx va [] with
  | .ok (.main _) leaf => codeLeaf leaf
  | _ => false

/-- What the loader writes for a gang: the exit stub, and zeros into the thread-local areas (20 R386). -/
def State.loadGang (s : State) (k : Kernel) (ctx : Nat) (pl : Placement) : Option State :=
  (pl.cos.flatMap CohortPlace.areas).foldl (fun t a => t.bind (State.putVa ctx (fun _ => true) (zeroPieces a.tls k.tls)))
    (State.putVa ctx codeLeaf (pieces 129 pl.exitStub exitStub) s)

/-- A cohort put on its core, with its warps. -/
def State.addCohort (s : State) (k : Kernel) (halt : Nat) (l : Launch) (p : Part) (gang g stub i : Nat) (c : CohortPlace) : State :=
  let cid := s.nextId
  let cycle := (s.coreAt c.core).cycle
  let s1 := { s with cohorts := insBy Cohort.cid (newCohort k l p gang cid c.core i) s.cohorts }.bump
  c.areas.zipIdx.foldl (fun s a => { s with warps := insBy Warp.id (newWarp k halt l p g stub s.nextId cid c.core cycle i a.2 a.1) s.warps }.bump)
    (s1.takeSlots c.core cid k.tiles k.accs)

/-! ## Placement (17 R342) -/

/-- Are a placement's cores distinct ones of one die of the partition, in number the gang's, where the cohort fits? -/
def State.coresGood (s : State) (part : Part) (k : Kernel) (g : Nat) (pl : Placement) : Bool :=
  let cores := pl.cos.map CohortPlace.core
  pl.cos.length == g && decide cores.Nodup && cores.all fun n => (part.coresOn (cores.headD 0 / 256)).contains n && s.fits n (needsOf k)

/-- Is the placement one that the rules allow: such cores, and areas for the warps, apart from each other and from those of the context's other
gangs, with the exit stub? -/
def State.goodPlace (s : State) (part : Part) (k : Kernel) (ctx g : Nat) (pl : Placement) : Bool :=
  s.coresGood part k g pl &&
  (pl.cos.all fun c => c.areas.length == k.cohort && c.areas.all (s.areaGood k ctx)) &&
  decide ((pl.cos.flatMap fun c => c.areas.flatMap (areaSpans k)).Pairwise fun p q => clear2 p q = true) &&
  ((pl.cos.flatMap fun c => c.areas.flatMap (areaSpans k)).all fun p => (s.areasOf ctx).all (clear2 p)) && s.stubGood ctx pl.exitStub

/-- The launch's record for the host (21 R389, R392). -/
def Launch.record (l : Launch) : Completion :=
  { op := 9, seq := l.seq, session := l.session, lid := l.lid, status := l.status, retrans := l.retrans, entries := l.entries, data := [] }

/-- A completion sent. -/
def State.sendDone (s : State) (c : Completion) : State := s.onHost fun h => { h with done := h.done ++ [c] }

/-- Identifiers that a queue remembers of its last 256 launches that ended (17 R340). -/
def State.remember (s : State) (q lid : Nat) : State :=
  s.onSch fun c => { c with queues := upd (·.no == q) (fun k => { k with ended := (lid :: k.ended).take 256 }) c.queues }

/-- Records with a parent that ended in failure leave their queues, with the status PARENT (17 R341). -/
def State.orphans (s : State) (uid : Nat) : State :=
  let gone := s.sch.queues.flatMap fun q => q.recs.filter fun l => l.parent == some uid
  gone.foldl (fun s l => (s.sendDone { l.record with status := .parent }).remember l.q l.lid)
    (s.onSch fun c => { c with
      queues := c.queues.map fun q =>
        { q with
          since := if q.recs.head?.any fun l => l.parent == some uid then none else q.since,
          recs := drop' (fun l => l.parent == some uid) q.recs } })

/-- A launch ends: its record is sent, and its children follow a failure. One that was its queue's head, in part unplaced, is that no longer. -/
def State.endLaunch (s : State) (l : Launch) : State :=
  let s1 := ((s.onSch fun c =>
    { c with
      running := drop' (·.uid == l.uid) c.running,
      queues := upd (·.no == l.q) (fun q => if l.placed < l.ngang then { q with since := none } else q) c.queues }).remember l.q l.lid).sendDone l.record
  if l.status = .ok then s1 else s1.orphans l.uid

/-- A launch whose gang is placed: out of its queue with the first one. -/
def State.started (s : State) (q : Queue) (l : Launch) (g : Nat) : State :=
  s.onSch fun c =>
    { c with
      queues := upd (·.no == q.no) (fun k => { k with since := none, recs := if l.placed = 0 then k.recs.tail else k.recs }) c.queues,
      running := if l.placed = 0 then c.running ++ [{ l with placed := 1, gsz := g }]
        else upd (·.uid == l.uid) (fun x => { x with placed := x.placed + 1 }) c.running,
      turn := tset 0 c.turn (4 * l.part + q.level) (q.no + 1) }

/-- A launch refused at load, because its channels do not fit (09 R188). -/
def State.refuseLoad (s : State) (q : Queue) (l : Launch) : State :=
  ((s.onSch fun c => { c with queues := upd (·.no == q.no) (fun k => { k with since := none, recs := k.recs.tail }) c.queues }).remember q.no l.lid).sendDone
    { l.record with status := .resource }

/-- A gang placed: its cohorts and warps made, what they are given noted. -/
def State.addGang (s : State) (k : Kernel) (halt : Nat) (l : Launch) (p : Part) (pl : Placement) : State :=
  let gang := s.nextId
  let g := pl.cos.length
  let s1 := pl.cos.zipIdx.foldl (fun s c => s.addCohort k halt l p gang g pl.exitStub c.2 c.1) s.bump
  let s2 := s1.onCtx l.ctx fun c => { c with code := if c.code.contains (pl.exitStub, 128) then c.code else c.code ++ [(pl.exitStub, 128)] }
  s2.onSch fun c =>
    { c with
      gangs := c.gangs ++ [{ uid := gang, launch := l.uid, gidx := l.placed, size := g, part := p.id,
                             cids := (s1.allCohorts.filter fun x => x.gang == gang).map Cohort.cid, chans := k.chans,
                             slots := pl.slots, cores := pl.cos.map CohortPlace.core, ctx := l.ctx,
                             areas := pl.cos.flatMap fun c => c.areas.flatMap (areaSpans k), preempting := false }] }

/-- A gang placed with all that goes before: the loader's mappings, a re-translation, what the loader writes; none where a part of it cannot be. -/
def State.placed (s : State) (q : Queue) (l : Launch) (p : Part) (g : Nat) (pl : Placement) : Option State :=
  ((State.loaderMaps l.ctx pl.maps s).bind fun t => t.retranslated l pl.code).bind fun t =>
    (t.kernelAt l.ctx l.entry).bind fun x =>
      let k := placedKernel x.k l.retrans
      if t.goodPlace p k l.ctx g pl && s.slotsGood (pl.cos.map CohortPlace.core) k.chans pl.slots then
        (t.loadGang k l.ctx pl).map fun u => (u.addGang k x.halt l p pl).started q l g
      else none

/-! ## The end of a launch (17 R340, R349, R350) -/

/-- LAUNCH_COMPLETE: every gang placed, and none resident or saved. -/
def execLaunchComplete (uid : Nat) (s : State) : Host.Outcome State Fault Refusal :=
  match s.sch.running.find? (·.uid == uid) with
  | some l =>
    .next (if l.placed = l.ngang && !((s.sch.gangs ++ s.sch.saved.map Saved.gang).any fun g => g.launch == uid) then s.endLaunch l else s)
  | none => .next s

/-- An entry of kind DISCARD for the launch of a gang. -/
def State.discard (s : State) (wid va : Nat) : State := s.entryFor wid { kind := .discard, status := .drained, val := va }

/-- Does a request carry a lane of an operation? -/
def Asker.carries (who : Asker) (id lane : Nat) : Bool :=
  match who with
  | .op _ i l => i == id && l.contains lane
  | .wc _ _ refs => refs.contains (id, lane)
  | .copy _ _ _ => false

/-- The virtual addresses of what a drain discards, each with its warp: requests, those that queue among them (15 R290), lanes of stores and
messages that none carries, copies. -/
def State.discardsOf (s : State) (ops : List Op) (copies : List Copy) : List (Nat × Nat) :=
  let reqs := (s.fab.out ++ s.fab.queued).filter fun r => (s.askerWarp r.who).any fun w => (ops.any fun o => o.wid == w) || copies.any fun k => k.wid == w
  let left := fun (o : Op) => o.lanes.filter fun l => !l.done && !(reqs.any fun r => r.who.carries o.id l.lane)
  (reqs.map fun r => ((s.askerWarp r.who).getD 0, r.va)) ++
  (ops.flatMap fun o => match o.kind with
    | .store | .atom _ _ | .cas _ | .signal _ => (left o).map fun l => (o.wid, l.va)
    | .load _ _ => ((left o).filter fun l => l.pl.remote.isSome).map fun l => (o.wid, l.va)
    | _ => []) ++
  copies.map fun k => (k.wid, if k.kind.usesSrc && !k.kind.srcLocal then k.src else k.dst)

/-- Of a core: these, and its matrix entries. -/
def State.discardsOn (s : State) (c : CoreSt) : List (Nat × Nat) := s.discardsOf c.ops c.copies ++ c.mxq.map fun e => (e.wid, 0)

/-- A core of a drained partition: its work is gone, and its pins. -/
def CoreSt.drained (c : CoreSt) : CoreSt :=
  { CoreSt.fresh c.no with
    cycle := c.cycle, held := c.held, pcCmp := c.pcCmp, dataCmp := c.dataCmp, cmpCtx := c.cmpCtx, debugStop := c.debugStop, ctr := c.ctr }

/-- Is the retried request one of some cores? -/
def Waiter.on (w : Waiter) (cores : List Nat) : Bool :=
  match w with
  | .op c _ | .copy c _ | .cache c => cores.contains c
  | .rem _ _ => false

/-- Pending records of signal slots consumed, and counted at a die's interface. -/
def State.dropSigs (s : State) (die : Nat) (l : List SigSlot) : State := l.foldl (fun s g => g.pend.foldl (fun s j => j.elim s fun j => s.countC die j 1) s) s

/-- The requests of some warps of this device forgotten: those sent, those that queue, and what has frozen their streams. -/
def State.dropRequests (s : State) (wids : List Nat) : State :=
  let keep := fun (r : OutReq) => !((s.askerWarp r.who).any fun w => wids.contains w)
  s.onFab fun f =>
    { f with
      out := f.out.filter keep, queued := f.queued.filter keep,
      frozen := f.frozen.filter fun p => !(f.out.any fun r => decide (r.st = p.1) && !keep r) }

/-- Everything on a partition's cores discarded (17 R350): the records of signals that were pending are consumed and counted. -/
def State.clearCores (s : State) (cores : List Nat) : State :=
  let hit := fun (c : CoreSt) => cores.contains c.no
  let mine := s.allCores.filter hit
  let s1 := (mine.flatMap s.discardsOn).foldl (fun s p => s.discard p.1 p.2) s
  let s2 := (mine.foldl (fun s c => s.dropSigs (c.no / 256) c.sigs) s1).dropRequests ((s.allWarps.filter fun w => cores.contains w.corE).map Warp.id)
  let s3 := { s2 with
    w := if cores.contains s2.w.corE && s2.w.id != 0 then Warp.blank else s2.w,
    co := if cores.contains s2.co.corE && s2.co.cid != 0 then Cohort.blank else s2.co,
    warps := s2.warps.filter fun w => !cores.contains w.corE, cohorts := s2.cohorts.filter fun c => !cores.contains c.corE,
    iss := Issue.idle }
  (s3.mapCores fun c => if hit c then c.drained else c).onMem fun m => { m with retryq := m.retryq.filter fun r => !r.who.on cores }

/-- A pre-empted gang whose launch a drain ends, discarded. -/
def State.clearSaved (s : State) (v : Saved) : State :=
  let s1 := (s.discardsOf v.ops v.copies).foldl (fun s p => s.discard p.1 p.2) s
  ((s1.dropSigs ((v.cohorts.map Cohort.corE).headD 0 / 256) v.sigs).dropRequests (v.warps.map Warp.id)).onSch fun c =>
    { c with saved := c.saved.filter fun g => g.gang.uid != v.gang.uid }

/-- The requests of other devices that wait here at some contexts aborted (17 R350, 15 R291). -/
def State.failStreams (s : State) (ctxs : List Nat) : State :=
  (s.fab.tstreams.filter fun t => t.frozen.any fun q => ctxs.contains q.ctx).foldl (fun s t => s.abortAll t.st t.waiting) s

/-- The records that launches get from a drain. -/
def State.drainLaunches (s : State) (ls : List Launch) (uid : Nat) : State :=
  ls.foldl (fun s l => match s.sch.running.find? (·.uid == l.uid) with
    | some x => s.endLaunch { x with status := if x.status != .ok then x.status else if x.uid = uid then .timeout else .drained }
    | none => s) s

/-- A launch expires: its partition is drained and reset, and the fabric messages that target it fail. -/
def State.expire (s : State) (l : Launch) (p : Part) : State :=
  let gone := s.sch.running.filter fun x => x.uid == l.uid || s.sch.gangs.any fun g => g.launch == x.uid && g.part == p.id
  let away := s.sch.saved.filter fun v => gone.any fun x => x.uid == v.gang.launch
  let s1 := (away.foldl State.clearSaved (s.clearCores p.cores)).failStreams (gone.map Launch.ctx)
  (s1.onSch fun c => { c with gangs := c.gangs.filter fun g => g.part != p.id }).drainLaunches gone l.uid

/-- WATCHDOG_EXPIRY; the time does not count while the launch is pre-empted. -/
def execWatchdogExpiry (uid : Nat) (s : State) : Host.Outcome State Fault Refusal :=
  match s.sch.running.find? (·.uid == uid) with
  | some l =>
    match s.partAt l.part with
    | some p => .next (if s.sch.saved.any fun g => g.gang.launch == uid then s else s.expire l p)
    | none => .next s
  | none => .next s

/-! ## Stubs (20 R383) -/

/-- STUB_REDIRECT: the BR of a stub's second bundle takes a new offset, in one 8-byte write. -/
def execStubRedirect (ctx stub : Nat) (off : BitVec 32) (s : State) : Host.Outcome State Fault Refusal :=
  match s.xlateMem ctx (stub + 56) [] with
  | .ok (.main pa) _ =>
    let t := s.poke pa 8 (leNat (s.mem.read pa 8) / 2 ^ 32 * 2 ^ 32 + off.toNat)
    .next (if s.blocked t then s else t)
  | _ => .next s

end Sys2Proof.Machine
end

