-- ==== Sys2Proof/Machine/EvPower.lean ====
section
/-! DEFINITION. Power-on, the input stage, rails, the power registers of a die and its Caddy's interrupts (spec 19 R367; 21 R394 to
R397; 27 R414, R415). -/

namespace Sys2Proof.Machine
open Sys2Proof.Num

/-! ## Power-on and self-test (19 R367; 21 R394) -/

/-- A die's Caddy as its firmware starts it (27 R414, R416): the two interrupts enabled, the vector, the registers and the memory as the firmware
has them, from where it executes. Of firmware that is not known the vector is a free value, and nothing executes: log 7. -/
def startedDie (fw : Option Firmware) (fr : Nat) : DieP :=
  match fw with
  | some f =>
    { DieP.fresh with
      caddy := { Caddy.fresh with x := tsets 0 [] f.x, pc := f.pc, mtvec := f.mtvec, mscratch := f.mscratch, mie := 0x880, mieBit := true },
      cmem := tsets 0 [] f.mem, runs := true }
  | none => { DieP.fresh with caddy := { Caddy.fresh with mtvec := BitVec.ofNat 64 (Config.freeNat fr * 4), mie := 0x880, mieBit := true } }

/-- Every stack's state after self-test: one that did not pass is declared failed. -/
def stacksAfter (ok : BitVec 12) : Tbl Stack :=
  (List.range 12).foldl (fun t i => tset Stack.fresh t i { Stack.fresh with failed := !ok.getLsbD i }) []

/-- The fabric after self-test (21 R394; 19 R367): each port that has trained is up; the lanes of the others are down. -/
def FabSt.trained (f : FabSt) (ports : BitVec 32) : FabSt :=
  { f with
    trunks := (List.range 8).foldl (fun t i =>
      tset Trunk.fresh t i { up := false, ports := (List.range 4).map fun k => ports.getLsbD (4 * i + k), lanes := [] }) f.trunks,
    lanes := (List.range 128).foldl (fun t l =>
      if ports.getLsbD (l / 4) then t else tset LaneRec.fresh t l { LaneRec.fresh with state := 3 }) f.lanes }

/-- The machine after the ROM's start: on failure of the verification Fjody runs from ROM alone, and nothing has been tested or trained. -/
def State.boot (s : State) (t : SelfTest) : State :=
  let s0 := { State.reset with inbox := s.inbox, freeCtr := s.freeCtr + 4, host := { HostSt.fresh with sessions := s.host.sessions } }
  if !t.sigOk then
    (s0.onHost fun h => { h with romOnly := true, groups := 0, stacksOk := 0, portsOk := 0 }).onMem fun m => { m with stk := stacksAfter 0 }
  else
    let s1 := { s0 with dies := (List.range 4).foldl (fun l d => tset DieP.fresh l d (startedDie t.fw[d]? (s.freeCtr + d))) [] }
    ((s1.onHost fun h => { h with groups := t.groups, stacksOk := t.stacksOk, portsOk := t.ports }).onMem fun m =>
      { m with stk := stacksAfter t.stacksOk }).onFab fun f => f.trained t.ports

/-- POWER_ON. -/
def execPowerOn (t : SelfTest) (s : State) : Host.Outcome State Fault Refusal := .next (s.boot t)

/-- INPUT_DISCONNECT (21 R395): outside 700 V to 850 V the module is without power. -/
def execInputDisconnect (volts : Nat) (s : State) : Host.Outcome State Fault Refusal :=
  .next (if volts < 700 ∨ 850 < volts then s.onHost fun h => { h with powered := false } else s)

/-- RAIL_SAMPLE (21 R396): the last 1,024 samples stay, each with the 16-bit counter that follows that of the one before; the first
has 0: log 39. -/
def execRailSample (rail : Nat) (r : RailValue) (s : State) : Host.Outcome State Fault Refusal :=
  let l := tget [] s.rails rail
  let n := (l.getLast?.map fun p => (p.1 + 1) % 65536).getD 0
  .next { s with rails := tset [] s.rails rail ((l ++ [(n, r)]).drop (l.length + 1 - 1024)) }

/-! ## Flux, power, alerts (21 R397; 27 R415) -/

def State.dieAt (s : State) (d : Nat) : DieP := tget DieP.fresh s.dies d
def State.onDie (s : State) (d : Nat) (f : DieP → DieP) : State :=
  if 4 ≤ d then s else { s with dies := tset DieP.fresh s.dies d (f (s.dieAt d)) }

/-- A bit of ALERT. -/
def alertBit (b : Bool) (i : Nat) : BitVec 3 := if b then BitVec.ofNat 3 (2 ^ i) else 0

/-- Has the backstop's 100 µs run out? -/
def DieP.overdue (p : DieP) : Bool := p.clock.any fun t => decide (t + 100 ≤ p.usec)

/-- The backstop acts where it has: every THROT becomes 15. -/
def DieP.backstop (p : DieP) : DieP :=
  if p.overdue then
    { p with throt := (List.range 16).foldl (fun t g => tset 0 t g 15) p.throt, alert := p.alert ||| alertBit true 2, clock := none }
  else p

/-- An estimate: it sets the ALERT bits whose conditions hold; the clock starts where none held before, and stops where none
holds. A backstop whose moment has passed has acted before. -/
def DieP.estimate (p0 : DieP) (flux pwr : Nat) : DieP :=
  let p := p0.backstop
  let q := { p with flux := flux % 65536, pwr := pwr % 65536, usec := (p.usec + 10) % 2 ^ 64 }
  let a := decide (q.capflux < q.flux)
  let b := decide (q.pcap < q.pwr)
  { q with
    alert := q.alert ||| alertBit a 0 ||| alertBit b 1, sets := alertBit a 0 ||| alertBit b 1, hot := a || b,
    clock := if a || b then (if p.hot then q.clock else some q.usec) else none }

/-- FLUX_ESTIMATE: every 10 µs. The dispatchers that tell time by the die note their heads (17 R342). -/
def execFluxEstimate (die flux pwr : Nat) (s : State) : Host.Outcome State Fault Refusal :=
  .next ((s.sch.parts.filter fun p => p.groups.headD 0 / 16 == die).foldl (fun s p => s.noteHeads p) (s.onDie die fun p => p.estimate flux pwr))

/-- BACKSTOP: 100 µs after the clock's start. -/
def execBackstop (die : Nat) (s : State) : Host.Outcome State Fault Refusal := .next (s.onDie die DieP.backstop)

/-! ## Caddy's interrupts (27 R414) -/

/-- An interrupt taken in direct mode. -/
def Caddy.take (c : Caddy) (cause : Nat) : Caddy :=
  { c with mepc := c.pc, mcause := BitVec.ofNat 64 (2 ^ 63 + cause), mpie := c.mieBit, mieBit := false, pc := c.mtvec &&& ~~~3 }

/-- Is an interrupt enabled? -/
def Caddy.takes (c : Caddy) (bit : Nat) : Bool := c.mieBit && c.mie.getLsbD bit

/-- CADDY_EXT_INTERRUPT: while ALERT and ALERTEN are nonzero. -/
def execCaddyExtInterrupt (die : Nat) (s : State) : Host.Outcome State Fault Refusal :=
  .next (s.onDie die fun p => if p.alert &&& p.alerten != 0 && p.caddy.takes 11 then { p with caddy := p.caddy.take 11 } else p)

/-- CADDY_TIMER_INTERRUPT: while USEC ≥ TCMP; the external interrupt comes first. -/
def execCaddyTimerInterrupt (die : Nat) (s : State) : Host.Outcome State Fault Refusal :=
  .next (s.onDie die fun p =>
    if p.tcmp ≤ p.usec && p.caddy.takes 7 && !(p.alert &&& p.alerten != 0 && p.caddy.takes 11) then { p with caddy := p.caddy.take 7 } else p)

/-! ## Writes to the power registers (21 Table 21.4; 27 Table 27.1) -/

/-- A write of 1 to an ALERT bit clears it. -/
def DieP.clearAlert (p : DieP) (v : Word) : DieP := { p with alert := p.alert &&& ~~~(v.setWidth 3) }

/-- The same of a write that may fall in the cycle of the last estimate: a bit that this has set stays set (27 R415). -/
def DieP.clearAt (p : DieP) (w : AlertWrite) : DieP :=
  if w.same then { p with alert := p.alert &&& ~~~(w.val.setWidth 3 &&& ~~~p.sets) } else p.clearAlert w.val

/-- A write to THROT; one that changes a value stops the backstop's clock. -/
def DieP.setThrot (p : DieP) (g : Nat) (v : Word) : DieP :=
  if 16 ≤ g then p
  else if tget 0 p.throt g = v.toNat % 16 then p
  else { p with throt := tset 0 p.throt g (v.toNat % 16), clock := none }

/-- CAPFLUX and PCAP, clamped to their ranges. -/
def clamp (lo hi n : Nat) : Nat := max lo (min hi n)
def DieP.setCapflux (p : DieP) (v : Word) : DieP := { p with capflux := clamp 1000 2400 (v.toNat % 65536) }
def DieP.setPcap (p : DieP) (v : Word) : DieP := { p with pcap := clamp 1000 4700 (v.toNat % 65536) }

/-- ALERT_CLEAR, THROT_WRITE, CAPFLUX_WRITE, PCAP_WRITE. -/
def execAlertClear (die : Nat) (w : AlertWrite) (s : State) : Host.Outcome State Fault Refusal := .next (s.onDie die fun p => p.clearAt w)
def execThrotWrite (die g : Nat) (val : Word) (s : State) : Host.Outcome State Fault Refusal := .next (s.onDie die fun p => p.setThrot g val)
def execCapfluxWrite (die : Nat) (val : Word) (s : State) : Host.Outcome State Fault Refusal := .next (s.onDie die fun p => p.setCapflux val)
def execPcapWrite (die : Nat) (val : Word) (s : State) : Host.Outcome State Fault Refusal := .next (s.onDie die fun p => p.setPcap val)

/-- An aligned 64-bit write at an offset of the window: a read-only or unnamed register ignores it. -/
def DieP.writeReg (p : DieP) (off : Nat) (v : Word) : DieP :=
  match off with
  | 0x10 => p.setCapflux v
  | 0x18 => p.setPcap v
  | 0x20 => p.clearAlert v
  | 0x28 => { p with alerten := v.setWidth 3 }
  | 0x38 => { p with tcmp := v.toNat }
  | _ => if 0x40 ≤ off && off < 0xC0 && off % 8 == 0 then p.setThrot ((off - 0x40) / 8) v else p

/-- POWER_REG_WRITE. -/
def execPowerRegWrite (die off : Nat) (val : Word) (s : State) : Host.Outcome State Fault Refusal := .next (s.onDie die fun p => p.writeReg off val)

end Sys2Proof.Machine
end

