-- ==== Sys2Proof/Machine/EvPreempt.lean ====
section
/-! DEFINITION. Pre-emption and resumption of a gang (spec 18 R361 to R363; 05 Table 5.1; 09 R172; 10 R208; 13 R259, R262; 15 R290). -/

namespace Sys2Proof.Machine
open Sys2Proof.Num

/-! ## Stopping (18 R361) -/

/-- Would a cause be delivered at the next boundary of the warp in focus? -/
def State.causeDue (s : State) : Bool :=
  if s.core.running = some s.w.id then (s.boundary.trapAt).isSome else (s.trapAt).isSome

/-- A stopped warp with its image: the frame's layout with cause 14, as at cycle b, its results in flight captured as records; the image it was
restored from, where it has not issued since (18 R362, R363). -/
def Warp.stopped (w : Warp) (b : Nat) : Warp :=
  let c : Cause := { code := 14, detail := 0, w0 := w.pc, w2 := 0, w3 := 0, slots := 0 }
  { w with
    image := some (w.replay.getD (wordTbl (frameWordsOf w b w.pc (causeWord c 0 w.owed) 0 0))), replay := none, fly := [], stopReq := true }

/-- A warp stopped at its next boundary, moved on until its results fit the image; where a cause is deliverable there, its handler is entered
first. One that waits or is halted stops where it stands. A hold of its bundle ends with it. -/
def State.stopOne (s : State) (id : Nat) : State :=
  let s1 := s.focus id
  let runs := s1.w.run = .ready
  if s1.w.id != id || s1.w.run = .retired || s1.w.stopReq then s1
  else if runs && ((!s1.w.hm && s1.w.restart != []) || s1.w.sigBad.isSome || s1.causeDue) then s1
  else
    let s2 := if runs && s1.core.running = some id then s1.advance s1.w.nextIssue else s1
    let s3 := s2.toBoundary 64
    (s3.onW fun w => w.stopped s3.now).mapCores fun c => c.dropHold id

/-- The warps of a gang. -/
def State.warpsOf (s : State) (g : Gang) : List Warp := s.allWarps.filter fun w => g.cids.contains w.cid

/-- The cores of a gang. -/
def State.coresOf (s : State) (g : Gang) : List Nat := g.cids.filterMap fun i => (s.cohortAt i).map Cohort.corE

/-- The write-combining entries of a gang's warps drained (05 Table 5.2). -/
def State.drainGang (s : State) (g : Gang) : State :=
  let ids := (s.warpsOf g).map Warp.id
  (s.coresOf g).foldl (fun s n => (s.focusCore n).drain fun e => ids.contains e.wid) s

/-- Is a request of this device held up by a frozen stream (15 R290): its own, or that of earlier ones of its warp and class which it queues
behind? -/
def State.stuck (s : State) (r : OutReq) : Bool :=
  s.isFrozen r.st ||
  ((s.fab.queued.any fun q => q.rid == r.rid) &&
    (s.fab.out ++ s.fab.queued).any fun q => s.isFrozen q.st && (s.askerWarp q.who).any fun w => s.fellow w q.st.cls r)
def State.stuckOf (s : State) : List OutReq := (s.fab.out ++ s.fab.queued).filter s.stuck

/-- Does an operation wait for nothing but a frozen stream: does one hold up each of its lanes, or what comes before it? -/
def State.savable (s : State) (c : CoreSt) (o : Op) : Bool :=
  let l := s.stuckOf
  !o.done && (o.kind = .wcfl || l.any fun r => s.askerWarp r.who == some o.wid) && l != [] &&
  match o.kind with
  | .fence _ _ | .wcfl | .quiet _ | .sack _ | .empty => true
  | _ => o.lanes != [] && o.lanes.all fun x => x.done || (l.any fun r => r.who.carries o.id x.lane) || (!x.sent && c.heldBack o x.pl)

/-- Does a copy: are all its requests so held up, or has it none and is held back by what is? -/
def State.copyStuck (s : State) (c : CoreSt) (k : Copy) : Bool :=
  let own := (s.fab.out ++ s.fab.queued).filter fun r => match r.who with
    | .copy _ i _ => i == k.id
    | _ => false
  own.all s.stuck && (own != [] || (c.copyHeld k && s.stuckOf.any fun r => s.askerWarp r.who == some k.wid))

/-- Has everything finished that pre-emption waits for (18 R362)? Suspended copies and frozen streams are saved as they stand. -/
def State.gangIdle (s : State) (g : Gang) : Bool :=
  let ws := s.warpsOf g
  let mine := fun (wid : Nat) => ws.any fun w => w.id == wid
  (ws.all fun w => w.run = .retired || w.stopReq) &&
  s.allCores.all fun c =>
    (c.ops.all fun o => !mine o.wid || s.savable c o) && (c.copies.all fun k => !mine k.wid || k.susp.isSome || s.copyStuck c k) &&
    (c.mxq.all fun e => !g.cids.contains e.cid) && (c.wcb.all fun e => !mine e.wid) &&
    c.vtw.all fun v => !((tget TSlot.free c.slots v.slot).owner != 0 && g.cids.contains ((tget TSlot.free c.slots v.slot).owner - 1))

/-! ## The image (18 R362) -/

/-- A warp as it is saved: its image was taken as it stopped; its times as what is left of them. -/
def Warp.saved (w : Warp) (b : Nat) : Warp :=
  { w.applyPend with stopReq := false, soon := w.soon.map fun p => (p.1 - b, p.2) }

/-- A cohort as it is saved: its times as what is left of them, its L1 empty. -/
def Cohort.saved (co : Cohort) (b : Nat) : Cohort :=
  let c := (co.applyStores (b + 4)).endDrain b
  { c with
    l1 := [], drain := c.drain.map fun d => { d with endAt := d.endAt - b },
    bars := c.bars.map fun p => (p.1, { p.2 with relAt := p.2.relAt - b }) }

/-- A cohort put back on a core whose clock stands at b. -/
def Cohort.restored (co : Cohort) (core b : Nat) : Cohort :=
  { co with
    corE := core, drain := co.drain.map fun d => { d with endAt := d.endAt + b },
    bars := co.bars.map fun p => (p.1, { p.2 with relAt := if p.2.relAt = 0 then 0 else p.2.relAt + b }) }

/-- A core without a gang's things. -/
def CoreSt.without (c : CoreSt) (cids wids : List Nat) : CoreSt :=
  { c with
    slots := c.slots.filter fun p => p.2.owner == 0 || !cids.contains (p.2.owner - 1),
    oddSlots := c.oddSlots.filter fun p => !cids.contains ((tget TSlot.free c.slots p.1).owner - 1),
    copies := c.copies.filter fun k => !wids.contains k.wid, ops := c.ops.filter fun o => !wids.contains o.wid,
    sigs := c.sigs.filter fun g => !cids.contains g.cid,
    running := if c.running.any fun i => wids.contains i then none else c.running,
    hold := if c.running.any fun i => wids.contains i then none else c.hold }

/-- What is saved of a gang. -/
def State.savedOf (s : State) (g : Gang) : Saved :=
  let wids := (s.warpsOf g).map Warp.id
  let cos := s.allCohorts.filter fun c => g.cids.contains c.cid
  let clock := fun (n : Nat) => (s.coreAt n).cycle
  let cs := s.allCores
  { gang := { g with preempting := false },
    cohorts := cos.map fun c => c.saved (clock c.corE),
    warps := (s.warpsOf g).map fun w => w.saved (clock w.corE),
    slots := cs.flatMap fun c => ((c.applyPend ((s.warpsOf g).flatMap Warp.hpend)).slots.filter fun p => p.2.owner != 0 && g.cids.contains (p.2.owner - 1)).map
      fun p => (p.2.owner - 1, p.1, { p.2 with clearAt := p.2.clearAt.map fun t => t - c.cycle }),
    odd := cs.flatMap fun c => (c.oddSlots.filter fun p => g.cids.contains ((tget TSlot.free c.slots p.1).owner - 1)).map
      fun p => ((tget TSlot.free c.slots p.1).owner - 1, p),
    copies := cs.flatMap fun c => c.copies.filter fun k => wids.contains k.wid,
    ops := cs.flatMap fun c => c.ops.filter fun o => wids.contains o.wid,
    sigs := cs.flatMap fun c => c.sigs.filter fun k => g.cids.contains k.cid,
    signs := cos.map fun c => (c.cid, tget 0 (s.coreAt c.corE).signs c.ctx) }

/-- A context's pins on a core go, and its sign vector, where no warp of the context is left there. -/
def State.leaveCore (s : State) (n ctx : Nat) : State :=
  let s1 := if s.allWarps.any fun w => w.corE == n && w.ctx == ctx && w.run != .retired then s
    else s.mapCores fun c => if c.no = n then { c with pins := drop' (fun p => p.ctx == ctx) c.pins } else c
  if s1.allCohorts.any fun c => c.corE == n && c.ctx == ctx then s1
  else s1.mapCores fun c => if c.no = n then { c with signs := tset 0 c.signs ctx 0 } else c

/-- The gang saved and taken off its cores. -/
def State.saveGang (s0 : State) (g : Gang) : State :=
  let s := s0.stashW.stashCo
  let wids := (s.warpsOf g).map Warp.id
  let places := (s.allCohorts.filter fun c => g.cids.contains c.cid).map fun c => (c.corE, c.ctx)
  let v := s.savedOf g
  let s1 := { s with warps := s.warps.filter fun w => !wids.contains w.id, cohorts := s.cohorts.filter fun c => !g.cids.contains c.cid }
  let s2 := (s1.mapCores fun c => c.without g.cids wids).onSch fun c =>
    { c with gangs := c.gangs.filter (·.uid != g.uid), saved := c.saved ++ [v] }
  places.foldl (fun s p => s.leaveCore p.1 p.2) s2

/-- Pre-emption of a gang: its warps are stopped and its buffers drained; once everything has finished it is saved. -/
def State.preemptGang (s : State) (g : Gang) : State × Bool :=
  let s1 := ((s.warpsOf g).foldl (fun s w => s.stopOne w.id) s).drainGang g
  let s2 := s1.onSch fun c => { c with gangs := upd (·.uid == g.uid) (fun x => { x with preempting := true }) c.gangs }
  if s2.gangIdle g then (s2.saveGang g, true) else (s2, false)

/-! ## The dispatcher (17 R342; 18 R361) -/

/-- Does a ready head that finds no room stand above a gang of its partition? Its queue has the higher level. -/
def State.mayEvict (s : State) (p : Part) (q : Queue) (g : Gang) : Bool :=
  g.part == p.id && q.part == some p.id && (s.head q).any s.isReady && (s.candidate p q).isNone &&
  ((s.sch.running.find? fun l => l.uid == g.launch).bind fun l => s.queueAt l.q).any fun k => decide (k.level < q.level)

/-- GANG_PLACE, with the loader's mappings. Where the channels cannot fit on the cores the launch is refused (09 R188); where the head has no room
and the placement names a gang of a lower level, that gang is pre-empted. What would write a pinned line, or into a stack that retrains,
waits. -/
def execGangPlace (part : Nat) (pl : Placement) (s : State) : Host.Outcome State Fault Refusal :=
  match s.partAt part, s.queueAt pl.q with
  | some p, some q =>
    match s.candidate p q with
    | some (l, k, g) =>
      if !s.isFirst p q || !s.coresGood p (placedKernel k l.retrans) g pl then .next s
      else if !s.chansFit k.chans k.fifo (pl.cos.map CohortPlace.core) then .next (if l.placed = 0 then s.refuseLoad q l else s)
      else
        match s.placed q l p g pl with
        | some t => .next (if s.blocked t then s else t)
        | none => .next s
    | none =>
      match pl.evict.bind fun u => s.sch.gangs.find? fun g => g.uid == u && s.mayEvict p q g with
      | some g => .next (s.preemptGang g).1
      | none => .next s
  | _, _ => .next s

/-! ## Resumption (18 R363) -/

/-- What a saved cohort needs of a core. -/
def Saved.needs (v : Saved) (c : Cohort) : Needs :=
  { warps := c.nwarps, vregs := c.vregs, banks := c.banks, tiles := (v.slots.filter fun p => p.1 == c.cid && p.2.1 < 64).length,
    accs := (v.slots.filter fun p => p.1 == c.cid && 64 ≤ p.2.1).length, bars := c.nbars }

/-- The new number of each of a cohort's slots on a core. -/
def Saved.renumber (v : Saved) (c : CoreSt) (cid : Nat) : List (Nat × Nat) :=
  let mine := (v.slots.filter fun p => p.1 == cid).map fun p => p.2.1
  ((mine.filter fun n => decide (n < 64)).zip (c.freeSlots 0 64)) ++ ((mine.filter fun n => decide (64 ≤ n)).zip (c.freeSlots 64 32))

/-- A slot number plus one, renumbered. -/
def renumbered (m : List (Nat × Nat)) (k : Nat) : Nat := ((m.find? fun p => p.1 + 1 == k).map fun p => p.2 + 1).getD k

/-- A warp restored from its image, its first issue not before cycle u; its in-flight records wait for it. -/
def Warp.restored (w : Warp) (core u : Nat) (m : List (Nat × Nat)) : Warp :=
  let img := w.image.getD []
  let f := fun i => tget 0 img i
  { w with
    corE := core, pc := f 0, em := f 4 &&& f 5 &&& w.am, am := f 5 &&& w.am,
    x := tsets zeroLanes [] ((List.range 8).map fun k => (k, wordLanes (tgets 0 img (16 + 32 * k) 32))),
    replay := some img,
    h := w.h.map fun p => (p.1, renumbered m p.2), mail := w.mail.map fun p => (p.1, renumbered m p.2),
    image := none, nextIssue := u, lastIssue := 0, soon := w.soon.map fun p => (p.1 + u, p.2) }

/-- One cohort of a saved gang put on a core. -/
def State.restoreCohort (s : State) (v : Saved) (co : Cohort) (core : Nat) : State :=
  let k := s.coreAt core
  let m := v.renumber k co.cid
  let ws := v.warps.filter fun w => w.cid == co.cid
  let wids := ws.map Warp.id
  let slots := (v.slots.filter fun p => p.1 == co.cid).filterMap fun p => (m.find? fun q => q.1 == p.2.1).map fun q =>
    (q.2, { p.2.2 with clearAt := p.2.2.clearAt.map fun t => t + k.cycle })
  let s1 := s.onCoreNo core fun c =>
    { c with
      slots := tsets TSlot.free c.slots slots,
      oddSlots := c.oddSlots ++ (v.odd.filter fun p => p.1 == co.cid).filterMap fun p =>
        (m.find? fun q => q.1 == p.2.1).map fun q => (q.2, p.2.2.1, p.2.2.2),
      copies := c.copies ++ v.copies.filter fun x => wids.contains x.wid,
      ops := c.ops ++ v.ops.filter fun x => wids.contains x.wid, sigs := c.sigs ++ v.sigs.filter fun x => x.cid == co.cid,
      signs := tset 0 c.signs co.ctx (((v.signs.find? fun p => p.1 == co.cid).map Prod.snd).getD 0) }
  let mv := fun (r : OutReq) => if (s.askerWarp r.who).any fun w => wids.contains w then { r with who := r.who.moved core } else r
  { s1.onFab fun f => { f with out := f.out.map mv, queued := f.queued.map mv } with
    cohorts := insBy Cohort.cid (co.restored core k.cycle) s1.cohorts,
    warps := ws.foldl (fun l w => insBy Warp.id (w.restored core (k.cycle + 1) m) l) s1.warps }

/-- The cohorts of a saved gang that have not ended, each with its core of those given for them all. -/
def Saved.onto (v : Saved) (cores : List Nat) : List (Cohort × Nat) :=
  (v.gang.cids.zip cores).filterMap fun p => (v.cohorts.find? fun c => c.cid == p.1).map fun c => (c, p.2)

/-- May a saved gang be placed on some cores, with some slot tables? -/
def State.canResume (s : State) (v : Saved) (cores : List Nat) (slots : List (List Nat)) : Bool :=
  match s.partAt v.gang.part with
  | none => false
  | some p =>
    cores.length == v.gang.size && decide cores.Nodup && (cores.all fun n => (p.coresOn (cores.headD 0 / 256)).contains n) &&
    ((v.onto cores).all fun q => s.fits q.2 (v.needs q.1) &&
      decide ((s.coreAt q.2).sigs.length + (v.sigs.filter fun x => x.cid == q.1.cid).length ≤ 16)) &&
    s.chansFit v.gang.chans 16 cores && s.slotsGood cores v.gang.chans slots

/-- The gang back on its new cores, with new slot tables; what it has queued for a stream that is no longer frozen is sent from there. -/
def State.resumeGang (s : State) (v : Saved) (cores : List Nat) (slots : List (List Nat)) : State :=
  let g := { v.gang with slots := slots, cores := cores }
  ((v.onto cores).foldl (fun s q => s.restoreCohort v q.1 q.2) s).onSch (fun c =>
    { c with saved := c.saved.filter fun x => x.gang.uid != v.gang.uid, gangs := c.gangs ++ [g] }) |>.flushQueued

end Sys2Proof.Machine
end

