-- ==== Sys2Proof/Machine/EvHost.lean ====
section
/-! DEFINITION. Fjody's commands (spec 21 R388 to R397, R422; 03 R71, R420; 04 R88, R94; 15 R286, R302; 17 R336 to R339, R349; 18
R361 to R366; 20 R376 to R381; 24 R403). -/

namespace Sys2Proof.Machine
open Sys2Proof.Num

/-! ## The session (21 R388 to R391) -/

/-- What a command leaves: its status, item entries and returned data; none while it still executes. -/
structure Result where
  s       : State
  st      : Status
  entries : List Entry
  data    : List Byte

/-- A result without entries or data. -/
def res (s : State) (st : Status) : Option Result := some { s := s, st := st, entries := [], data := [] }

/-- A command's completion sent and stored; the last 64 are kept. -/
def State.complete (s : State) (k : Hdr) (op : Nat) (r : Result) : State :=
  let c : Completion :=
    { op := op, seq := k.seq, session := k.session, lid := 0, status := r.st, retrans := false, entries := r.entries, data := r.data }
  s.onHost fun h => { h with lastSeq := k.seq, recent := (c :: h.recent).take 64, done := h.done ++ [c] }

/-- A datagram discarded and counted. -/
def State.discarded (s : State) : State := s.onHost fun h => { h with discarded := h.discarded + 1 }

/-- Is a datagram a command, by its header (21 R388, R389): its magic, version, part and zero bytes are as they must be, its fields within
their widths, and LEN counts n bytes of content at the least, in a datagram of at most 8,960? Else it is other traffic: log 62. -/
def hdrGood (k : Hdr) (n : Nat) : Bool :=
  k.magic == 0x4A445946 && k.ver == 1 && k.part == 0 && k.zero == 0 && decide (k.len ≤ 8928) && decide (n ≤ k.len) &&
  decide (k.seq < 2 ^ 64) && decide (k.session < 2 ^ 32)

/-- The command tried has to wait: it goes on executing, or another one executes. The step puts it among the commands that have arrived. -/
def State.waiting (s : State) : State := s.onHost fun h => { h with waits := true }

/-- A command of the session, with n bytes of content (21 R388 to R390): while another one executes it waits its turn; it is executed when
it is the next, and its stored completion is sent again when it is one of the last 64. With Fjody in ROM only TELEM (18) and ATTEST
(19) are executed (21 R394). Where f gives no result the command still executes. -/
def State.command (s : State) (k : Hdr) (op n : Nat) (f : State → Option Result) : Host.Outcome State Fault Refusal :=
  if !s.host.powered then .next s
  else if !hdrGood k n then .next s.discarded
  else if s.host.cmds != [] then .next s.waiting
  else if s.host.session != some (k.session, k.src) then .next s.discarded
  else if k.seq = s.host.lastSeq + 1 then
    match (if s.host.romOnly && op != 18 && op != 19 then res s .failed else f s) with
    | some r => .next (r.s.complete k op r)
    | none => .next s.waiting
  else
    match s.host.recent.find? fun c => c.seq == k.seq with
    | some c => .next (s.sendDone c)
    | none => .next s.discarded

/-- A result that would write a pinned line, or into a stack that retrains, is not had yet (05 R106; 03 R71). -/
def State.unblocked (s : State) (r : Option Result) : Option Result := r.bind fun r => if s.blocked r.s then none else some r

/-- Is it a SESSION? -/
def isSession : Instr → Bool
  | .session _ => true
  | _ => false

/-- The commands that a SESSION finds: the one that executes ends first, and no other of its session executes (21 R388, R391). -/
def State.behindHead (s : State) : State :=
  s.onHost fun h =>
    { h with
      cmds := h.cmds.take 1 ++ (h.cmds.drop 1).filter isSession, waits := true,
      discarded := h.discarded + ((h.cmds.drop 1).filter fun i => !isSession i).length }

/-- SESSION (21 R391): always executed; an identifier that no session has had, nothing executed yet. In ROM it opens the session in which TELEM
and ATTEST are answered, and completes with FAILED as every other command (21 R394): log 37. Whether the session is the debugger's is the
host's affair: a free choice. -/
def execSession (k : Hdr) (s : State) : Host.Outcome State Fault Refusal :=
  if !s.host.powered then .next s
  else if !hdrGood k 0 then .next s.discarded
  else if s.host.cmds != [] then .next s.behindHead
  else
    let id := (s.host.sessions + 1) % 2 ^ 32
    let c : Completion :=
      { op := 1, seq := k.seq, session := id, lid := 0, status := if s.host.romOnly then .failed else .ok, retrans := false, entries := [], data := [] }
    .next { (s.onHost fun h =>
      { h with
        sessions := h.sessions + 1, session := some (id, k.src), lastSeq := 0, recent := [], debugger := Config.freeNat s.freeCtr % 2 == 1,
        done := h.done ++ [c] }) with freeCtr := s.freeCtr + 1 }

/-- OTHER_DATAGRAM (21 R388): discarded and counted; but a command whose OP value 21 Table 21.2 does not list is answered with MALFORMED
(21 R392). -/
def execOtherDatagram (d : Datagram) (s : State) : Host.Outcome State Fault Refusal :=
  match d.cmd with
  | some (k, op) =>
    if 1 ≤ op && op ≤ 21 || 256 ≤ op || k.src != d.src then .next (if s.host.powered then s.discarded else s)
    else s.command k op 0 fun s => res s .malformed
  | none => .next (if s.host.powered then s.discarded else s)

/-! ## Completions as the host receives them (21 R388, R389, R392, R422) -/

/-- Status codes (21 Table 21.3). -/
def Status.code : Status → Nat
  | .ok => 0 | .busy => 1 | .malformed => 2 | .resource => 3 | .nocode => 4 | .failed => 5 | .timeout => 6 | .drained => 7
  | .lost => 8 | .wedged => 9 | .sentfail => 10 | .diverged => 11 | .nojob => 12 | .denied => 13 | .range => 14 | .parent => 15
  | .quietst => 16 | .abort => 17 | .stale => 18 | .unsup => 19 | .nowin => 20 | .pwdrop => 21 | .abandoned => 22 | .poisoned => 23

/-- Kinds of item entries (21 Table 21.3a). -/
def EntryKind.code : EntryKind → Nat
  | .corr => 1 | .poison => 2 | .restart => 3 | .pwdrop => 4 | .abandon => 5 | .fabric => 6 | .discard => 7 | .kill => 8 | .quiet => 9

/-- An item entry's 16 bytes. -/
def Entry.bytes (e : Entry) : List Byte := leBytes 1 e.kind.code ++ leBytes 1 0 ++ leBytes 2 e.status.code ++ leBytes 4 0 ++ leBytes 8 e.val

/-- A header (21 Table 21.1). -/
def hdrBytes (op part seq session len : Nat) : List Byte :=
  leBytes 4 0x4A445946 ++ leBytes 1 1 ++ leBytes 1 op ++ leBytes 2 part ++ leBytes 8 seq ++ leBytes 4 session ++ leBytes 4 len ++ leBytes 8 0

/-- The status block. -/
def Completion.block (c : Completion) : List Byte :=
  leBytes 2 c.status.code ++ leBytes 1 (if c.retrans then 1 else 0) ++ leBytes 5 0 ++ leBytes 8 c.lid ++ leBytes 4 c.entries.length ++ leBytes 12 0

/-- A list in pieces of at most n. -/
def chunks {α : Type} (n : Nat) : Nat → List α → List (List α)
  | 0, _ => []
  | fuel + 1, l => if l.length ≤ n then [l] else l.take n :: chunks n fuel (l.drop n)

/-- The datagrams of a completion, each of at most 8,960 bytes: its header with PART, the status block, and in turn the item entries and
what the command returns: log 62. -/
def Completion.datagrams (c : Completion) : List (List Byte) :=
  let l := c.entries.flatMap Entry.bytes ++ c.data
  (chunks 8896 (l.length + 1) l).zipIdx.map fun (p : List Byte × Nat) => hdrBytes c.op p.2 c.seq c.session (32 + p.1.length) ++ c.block ++ p.1

/-! ## Contexts and mappings (04 R88, R94; 24 R403) -/

/-- CTXNEW: RESOURCE where the identifier is taken or none, or the root is no place for a table. -/
def execCtxnew (k : Hdr) (ctx root : Nat) (s : State) : Host.Outcome State Fault Refusal :=
  s.command k 2 0 fun s =>
    if ctx = 0 || decide (4095 < ctx) || (s.ctxAt ctx).isSome || root % 65536 != 0 || decide (Config.memBytes < root + 65536) then res s .resource
    else
      let c : Ctx :=
        { id := ctx, root := some root, stepc := 0, quota := Config.freeNat s.freeCtr, window := 1, tier := [], waits := 0, allocs := [],
          defers := [], kernels := [], code := [], given := [] }
      s.unblocked (res { ((s.clearRange root 65536).onXl fun x => { x with ctxs := insBy Ctx.id c x.ctxs }) with freeCtr := s.freeCtr + 1 } .ok)

/-- CTXEND: BUSY while a launch of it is resident. -/
def execCtxend (k : Hdr) (ctx : Nat) (s : State) : Host.Outcome State Fault Refusal :=
  s.command k 3 0 fun s =>
    if (s.ctxAt ctx).isNone then res s .malformed
    else if s.sch.running.any fun l => l.ctx == ctx then res s .busy
    else res ((s.invalidate (fun _ => true) ctx 0 (2 ^ 64)).onXl fun x =>
      { x with ctxs := drop' (·.id == ctx) x.ctxs, migr := drop' (·.ctx == ctx) x.migr, lost := x.lost.filter fun p => p.1 != ctx }) .ok

/-- MAP. -/
def execMap (k : Hdr) (ctx : Nat) (r : MapReq) (s : State) : Host.Outcome State Fault Refusal :=
  s.command k 4 0 fun s =>
    match s.ctxAt ctx with
    | some c =>
      match c.root with
      | some root => if s.mapsFor c r then (match s.doMap c root r with
          | some t => s.unblocked (res t .ok)
          | none => res s .malformed) else res s .malformed
      | none => res s .malformed
    | none => res s .malformed

/-- UNMAP: the leaf entries of its page size in the range. A larger leaf that maps the range is left as it is: log 58. -/
def State.doUnmap (s : State) (ctx va pages : Nat) (sz : PageSize) : State :=
  let size := 2 ^ pageBits sz
  let s1 := (List.range pages).foldl (fun s i => match s.leafAddr ctx (va + i * size) sz with
    | some a => s.poke a 8 0
    | none => s) s
  (s1.onCtx ctx fun c => c.cut va (va + pages * size)).invalidate (fun _ => true) ctx va (va + pages * size)

def execUnmap (k : Hdr) (ctx va pages : Nat) (sz : PageSize) (s : State) : Host.Outcome State Fault Refusal :=
  s.command k 5 0 fun s =>
    let size := 2 ^ pageBits sz
    if (s.ctxAt ctx).isNone || va % size != 0 || decide (2 ^ 56 < va + pages * size) then res s .malformed
    else s.unblocked (res (s.doUnmap ctx va pages sz) .ok)

/-! ## WRITE and READ (03 R420; 24 R403) -/

def execWrite (k : Hdr) (ctx va : Nat) (data : List Byte) (s : State) : Host.Outcome State Fault Refusal :=
  s.command k 6 data.length fun s =>
    let l := pieces (data.length + 1) va data
    if s.anySpot ctx .write l .denied then res s .denied
    else if s.anySpot ctx .write l .moving then none
    else
      let r := s.doWrite ctx l
      s.unblocked (some { s := r.1, st := .ok, entries := r.2, data := [] })

def execRead (k : Hdr) (ctx va len : Nat) (s : State) : Host.Outcome State Fault Refusal :=
  s.command k 7 0 fun s =>
    let l := zeroPieces va len
    if s.anySpot ctx .read l .denied then res s .denied
    else if s.anySpot ctx .read l .moving then none
    else
      let r := (s.present ctx l).doRead ctx l
      s.unblocked (some { s := r.1, st := .ok, entries := r.2.1, data := r.2.2 })

/-! ## Modules (20 R376 to R381) -/

/-- n bytes of an image, as a number. -/
def imgAt (l : List Byte) (off n : Nat) : Nat := leNat ((l.drop off).take n)

/-- The sections: kind, offset, length. -/
def sections (l : List Byte) : List (Nat × Nat × Nat) :=
  (List.range (imgAt l 16 8)).map fun i =>
    let e := imgAt l 24 8 + 16 * i
    (imgAt l e 8 % 256, imgAt l e 8 / 2 ^ 32, imgAt l (e + 8) 8 % 2 ^ 32)

/-- A section of code: native text, after its part number, or Eloaden functions. -/
def holdsCode (x : Nat × Nat × Nat) : Bool := (x.1 == 1 && decide (8 < x.2.2)) || (x.1 == 2 && decide (0 < x.2.2))

/-- Is an image malformed (20 R376)? -/
def badImage (l : List Byte) : Bool :=
  decide (l.length < 64) || imgAt l 0 4 != 0x4E444C45 || imgAt l 4 2 != 1 || imgAt l 6 2 != 0 || imgAt l 8 1 / 4 != 0 || imgAt l 9 7 != 0 ||
  imgAt l 16 8 == 0 || decide (64 < imgAt l 16 8) || decide (l.length < imgAt l 24 8 + 16 * imgAt l 16 8) ||
  ((sections l).any fun x => x.1 == 0 || decide (5 < x.1) || decide (l.length < x.2.1 + x.2.2)) ||
  !((sections l).any holdsCode)

/-- The native texts for this part; an Eloaden section. -/
def nativeTexts (l : List Byte) : List (List Byte) :=
  ((sections l).filter fun x => x.1 == 1 && holdsCode x && imgAt l x.2.1 8 == Config.partNumber).map fun x => (l.drop (x.2.1 + 8)).take (x.2.2 - 8)
def hasNative (l : List Byte) : Bool := nativeTexts l != []
def hasEloaden (l : List Byte) : Bool := (sections l).any fun x => x.1 == 2 && holdsCode x

/-- The mnemonics of the native instructions, and the portable-only operations of 20 Table 20.2. -/
def nativeOps : List String :=
  ["VNOP", "MNOP", "ENOP", "CNOP", "VADD", "VSUB", "VMUL", "VMULH", "VMAD", "VNEG", "VABS", "VMIN", "VMAX", "VAVG", "VSAD", "VDOT",
   "VSHL", "VSHR", "VSRA", "VROT", "VAND", "VOR", "VXOR", "VANDN", "VNOT", "VCLZ", "VPOPC", "VBREV"] ++
  ["VBFX", "VBFI", "VCMP", "VSEL", "VMOV", "VPRM", "VLANE", "VADDI", "VANDI", "VORI", "VXORI", "VIMM", "VFADD", "VFSUB", "VFMUL",
   "VFMA", "VFNMA", "VFMIN", "VFMAX", "VFCMP", "VFCLASS", "VFRND", "VFSCL", "VFDOT2", "VFKEY", "VCVT", "VPACK", "VUNPK"] ++
  ["VBEXP", "VBQ", "VBDQ", "VRCP", "VRSQ", "VSQRT", "VEXP2", "VLOG2", "VSINP", "VCOSP", "VTANH", "VSHFL", "VSHFLR", "VBCST",
   "VSCAN", "VRED", "VCOMP", "VGET", "VINS", "VTRD", "VTWR", "LLD", "LST", "LLDS", "LSTS", "LATOM", "LCAS", "QENQ"] ++
  ["QDEQ", "QSTAT", "GLD", "GST", "GATOM", "GRED", "GCAS", "GLDC", "SLDC", "SGLD", "SGST", "FENCE", "L1INV", "WCFL", "PREF", "HINT",
   "PHASE", "SIGNAL", "SACK", "QUIET", "SARM", "SARM_OFF", "LAUNCH", "PGFETCH", "XINV", "CPYGL", "CPYLG", "CPYLL"] ++
  ["CPYGG", "CPYFIL", "CPYP", "TLD", "TST", "TALLOC", "TFREE", "THAND", "TTAKE", "TDESC", "TSETD", "MZERO", "MHFA", "MBMM", "MSCA",
   "MHAD", "MDRN", "MCVT", "MADD", "MSCL", "MSETD", "SADD", "SSUB", "SMUL", "SMULH", "SDIV", "SREM", "SAND"] ++
  ["SOR", "SXOR", "SANDN", "SSHL", "SSHR", "SSRA", "SMIN", "SMAX", "SCMP", "SSEL", "SPOPC", "SCLZ", "SCTZ", "SBFX", "SBFI", "SADDI",
   "SANDI", "SORI", "SXORI", "SLI", "SLIH", "SSHLI", "SSHRI", "SGET", "SSET", "EMSET", "EMAND", "EMGET"] ++
  ["EXIT", "BR", "BC", "BZM", "JR", "CALL", "CALLR", "RET", "LPAD", "LOOP", "LOOPI", "LOOPX", "WAITF", "YIELD", "BJOIN", "BLEAVE",
   "BARV", "BWAIT", "BSYNC", "SENT", "SENT_CLOSE", "STEP", "TRAP", "RFT", "TFRD", "TFWR", "BRK", "HALTW"]
def portableOps : List String := ["PHI", "SPLIT", "JOIN", "WIDTH", "VHANDLE", "VFLAG"]
def knownOp (m : String) : Bool := portableOps.contains m || nativeOps.contains m

/-- Has a kernel no trap label? -/
def Kernel.untrapped (k : Kernel) : Bool := k.trap.isNone

/-- What a load adds to the code heap: the native text, or else the translations, with the loader's stub where a kernel needs it, and the
entry stubs of the kernels and of the other functions (20 R377, R381; 22 R398). -/
def loadPlan (m : ModuleImage) : CodePlan :=
  { m.plan with
    bodies := (if hasNative m.image then m.natives.zip (nativeTexts m.image) else m.plan.bodies) ++
      (if m.kernels.any Kernel.untrapped then [(m.halt, haltStub)] else []),
    stubs := (m.kernels.map fun x => (x.entry, x.body)) ++ m.plan.stubs, traps := [] }

/-- A kernel as it is entered (20 R380). -/
def loadedKernel (m : ModuleImage) (x : Kernel) : Loaded :=
  { k := paired x, eloaden := hasEloaden m.image, parked := m.parked, halt := m.halt, again := false }

/-- Does a walk or a write have to wait for a pinned line or a stack that retrains? -/
def State.unsettled (s : State) : Bool := (s.allCores.any fun c => c.pins != []) || s.mem.stk.any fun p => p.2.retraining.isSome

/-- MODLOAD. RESOURCE where the code heap cannot take the module, or where its translation would need more parked handles than the mailbox
holds (20 R379, R381). -/
def execModload (k : Hdr) (ctx : Nat) (m : ModuleImage) (s : State) : Host.Outcome State Fault Refusal :=
  s.command k 8 m.image.length fun s =>
    match s.ctxAt ctx with
    | none => res s .malformed
    | some c =>
      if badImage m.image then res s .malformed
      else if !hasNative m.image && !hasEloaden m.image then res s .nocode
      else if hasEloaden m.image && !m.ops.all knownOp then res s .malformed
      else if !hasNative m.image && decide (16 < m.parked) then res s .resource
      else if (hasNative m.image && m.natives.length != (nativeTexts m.image).length) ||
          (loadPlan m).stubs.any fun x => c.code.contains (x.1, 64) then res s .resource
      else
        match s.install ctx (loadPlan m) with
        | some t => s.unblocked (res (t.onCtx ctx fun c => { c with kernels := c.kernels ++ m.kernels.map (loadedKernel m) }) .ok)
        | none => if s.unsettled then none else res s .resource

/-! ## Launches and queues (17 R337 to R339, R349) -/

/-- A host record's outcome. -/
def State.hostStatus (s : State) (l : List Word) (x : Launch) : Status :=
  if s.badRecord l x || l.length != 8 then .malformed
  else
    match s.kernelAt x.ctx x.entry with
    | some k => if noResource k then .resource else .ok
    | none => .malformed

/-- The records of a LAUNCH command, decoded in order. -/
def State.decodeRecs (s : State) (k : Hdr) (q part : Nat) (recs : List LaunchRec) : List (List Word × Launch) :=
  recs.zipIdx.map fun r => (r.1.words, launchOf r.1.words (s.nextId + r.2) q part k.session k.seq none)

/-- One record appended, or refused with a record of its own. -/
def State.hostOne (s : State) (r : List Word × Launch) : State :=
  match s.hostStatus r.1 r.2 with
  | .ok => s.push { r.2 with retrans := (s.kernelAt r.2.ctx r.2.entry).any fun k => overSoft k.k }
  | st => s.sendDone { r.2.record with status := st }

/-- LAUNCH: on request each record that is accepted is recorded. -/
def execHostLaunch (k : Hdr) (q : Nat) (b : LaunchBatch) (s : State) : Host.Outcome State Fault Refusal :=
  s.command k 9 (64 * b.recs.length) fun s =>
    match s.queueAt q with
    | none => res s .malformed
    | some qu =>
      match qu.part with
      | none => res s .malformed
      | some p =>
        let l := s.decodeRecs k q p b.recs
        let sts := l.map fun r => s.hostStatus r.1 r.2
        let taken := l.filter fun r => s.hostStatus r.1 r.2 = .ok
        if 64 ≤ q then res s .malformed
        else if !qu.room taken.length then res s .busy
        else if b.inputs.any fun ins => taken.any fun r => s.digestWaits r.2.ctx ins then none
        else
          let s1 := { (l.foldl State.hostOne s) with nextId := s.nextId + b.recs.length }
          res (b.inputs.elim s1 fun ins => taken.foldl (fun s r => s.recordLaunch r.2.uid r.2.ctx r.1 ins) s1)
            ((sts.find? (· != .ok)).getD .ok)

/-- Is a queue non-empty: has it records, or a launch whose gangs are still being placed? -/
def State.queueUsed (s : State) (q : Nat) : Bool :=
  (s.queueAt q).any (fun k => k.recs != []) || s.sch.running.any fun l => l.q == q && decide (l.placed < l.ngang)

/-- QUEUE: create, bind, end, set. -/
def execQueueCreate (k : Hdr) (q part level cap : Nat) (s : State) : Host.Outcome State Fault Refusal :=
  s.command k 10 0 fun s =>
    if 128 ≤ q || (s.partAt part).isNone || 3 < level || cap < 16 || 4096 < cap then res s .malformed
    else if s.queueUsed q then res s .busy
    else
      let x : Queue := { no := q, part := some part, level := level, cap := cap, wdt := 10000, last := none, since := none, recs := [], ended := [] }
      res (s.onSch fun c => { c with queues := insBy Queue.no x (c.queues.filter (·.no != q)) }) .ok
def execQueueBind (k : Hdr) (q part : Nat) (s : State) : Host.Outcome State Fault Refusal :=
  s.command k 10 0 fun s =>
    if (s.queueAt q).isNone || (s.partAt part).isNone then res s .malformed
    else if s.queueUsed q then res s .busy
    else res (s.onSch fun c => { c with queues := upd (·.no == q) (fun x => { x with part := some part }) c.queues }) .ok
def execQueueEnd (k : Hdr) (q : Nat) (s : State) : Host.Outcome State Fault Refusal :=
  s.command k 10 0 fun s =>
    if (s.queueAt q).isNone then res s .malformed
    else if s.queueUsed q then res s .busy
    else res (s.onSch fun c => { c with queues := c.queues.filter (·.no != q) }) .ok
/-- Level, capacity and WDT are set of an empty queue (21 Table 21.2). -/
def execQueueSet (k : Hdr) (q level cap wdt : Nat) (s : State) : Host.Outcome State Fault Refusal :=
  s.command k 10 0 fun s =>
    if 3 < level || cap < 16 || 4096 < cap || wdt < 1 || 1000000 < wdt then res s .malformed
    else
      match s.queueAt q with
      | none => res s .malformed
      | some x =>
        if s.queueUsed x.no then res s .busy
        else res (s.onSch fun c => { c with queues := upd (·.no == q) (fun x => { x with level := level, cap := cap, wdt := wdt }) c.queues }) .ok

/-! ## Partitions, gangs, reset (17 R336; 18 R361, R363; 19 R367, R371) -/

/-- PART: the partitions from now on. What the L2 holds is written back first, since the lines change their slices (05 R102, R103). -/
def execPart (k : Hdr) (ps : List PartReq) (s : State) : Host.Outcome State Fault Refusal :=
  s.command k 11 0 fun s =>
    let gs := ps.flatMap PartReq.groups
    if !(decide gs.Nodup && decide (ps.map PartReq.id).Nodup && gs.all fun g => decide (g < 64)) then res s .malformed
    else if s.sch.running != [] then res s .busy
    else if !(gs.all fun g => s.host.groups.getLsbD g) then res s .failed
    else
      let ids := ps.map PartReq.id
      s.unblocked (res ((s.evictAll.onMem fun m => { m with parts := ps.map fun p => (List.range 64).filter fun g => p.groups.contains g }).onSch fun c =>
        { c with
          parts := ps.map fun p => { id := p.id, groups := p.groups, prot := p.prot },
          queues := c.queues.map fun q => if q.part.all fun i => ids.contains i then q else { q with part := none } }) .ok)

/-- PREEMPT: it executes until the gang is saved; meanwhile its warps stop and its buffers drain (18 R361, R362). -/
def State.preempting (s : State) (k : Hdr) (gang : Nat) : Host.Outcome State Fault Refusal :=
  match s.sch.gangs.find? (·.uid == gang) with
  | some g =>
    let r := s.preemptGang g
    r.1.command k 12 0 fun t => if r.2 then res t .ok else none
  | none => s.command k 12 0 fun s => res s .resource

/-- Is a command that arrives the next one to be executed? -/
def State.executes (s : State) (k : Hdr) : Bool :=
  s.host.powered && hdrGood k 0 && s.host.cmds == [] && s.host.session == some (k.session, k.src) && k.seq == s.host.lastSeq + 1 && !s.host.romOnly

def execPreempt (k : Hdr) (gang : Nat) (s : State) : Host.Outcome State Fault Refusal :=
  if s.executes k then s.preempting k gang else s.command k 12 0 fun s => res s .resource

/-- RESUME. -/
def execResume (k : Hdr) (gang : Nat) (p : Placement) (s : State) : Host.Outcome State Fault Refusal :=
  s.command k 13 0 fun s =>
    let cores := p.cos.map CohortPlace.core
    match s.sch.saved.find? fun v => v.gang.uid == gang with
    | some v => if s.canResume v cores p.slots then res (s.resumeGang v cores p.slots) .ok else res s .resource
    | none => res s .resource

/-- Every launch, running or queued, ended with its record (19 R374). -/
def State.drainAll (s : State) : State :=
  (s.sch.running ++ s.sch.queues.flatMap Queue.recs).foldl (fun s l => s.sendDone { l.record with status := if l.status = .ok then .drained else l.status }) s

/-- RESET (21 R394): the launches end, and the package is warm-reset; the session goes on (log 37), and with it its stored completions, so that
one sent again is answered (21 R390). -/
def execReset (k : Hdr) (t : SelfTest) (s : State) : Host.Outcome State Fault Refusal :=
  s.command k 14 0 fun s =>
    let u := s.drainAll
    res ((u.boot t).onHost fun h =>
      { h with session := u.host.session, lastSeq := u.host.lastSeq, recent := u.host.recent, debugger := u.host.debugger, done := u.host.done,
               discarded := u.host.discarded, cmds := u.host.cmds }) .ok

/-! ## Decant, stacks, windows (15 R286, R302; 03 R71) -/

/-- QFIX: a new set, or the old one without its failed members. One with a set of more than 64 (15 R298) is no command: log 46. -/
def execQfix (k : Hdr) (job : Nat) (r : QfixReq) (s : State) : Host.Outcome State Fault Refusal :=
  s.command k 15 (if r.set.any fun l => decide (64 < l.length) then 8929 else 0) fun s =>
    let d := s.jobAt job
    match d.set with
    | none => res s .nojob
    | some l =>
      if r.away || (s.takesPart d && (s.allWarps ++ s.sch.saved.flatMap Saved.warps).any fun w => w.job == job && w.run != .retired) then res s .busy
      else res (s.onJob job fun d =>
        { d with cnt := [], set := some (r.set.getD (l.filter fun m => !d.failed.contains m)), failed := [], indet := false,
                 wave := none, waiting := [] }) .ok

/-- Do a partition's channels, 12 for each group, include the stack (05 R102)? -/
def Part.hasStack (p : Part) (stack : Nat) : Bool := p.groups.any fun g => (List.range 12).any fun i => stackOfChannel (12 * g + i) == stack

/-- STACKCFG: BUSY while such a partition has a launch in flight. -/
def execStackcfg (k : Hdr) (stack : Nat) (ratio : LaneRatio) (s : State) : Host.Outcome State Fault Refusal :=
  s.command k 16 0 fun s =>
    if 12 ≤ stack then res s .malformed
    else if s.sch.running.any fun l => (s.partAt l.part).any fun p => p.hasStack stack then res s .busy
    else res (s.onStackNo stack fun x => { x with retraining := some ratio }) .ok

/-- Have the ports of a path passed their test (19 R367), and has its trunk been formed (15 R281)? -/
def State.pathOk (s : State) (p : Nat) : Bool :=
  if p < 32 then s.host.portsOk.getLsbD p
  else (s.trunkAt (p - 32)).up && (List.range 4).all fun i => s.host.portsOk.getLsbD (4 * (p - 32) + i)

/-- WINDOW (15 Table 15.2). -/
def execWindow (k : Hdr) (win : Nat) (w0 w1 : Word) (path : Nat) (alt : Option Nat) (s : State) : Host.Outcome State Fault Refusal :=
  s.command k 17 0 fun s =>
    let x : Window := { w0 := w0, w1 := w1, path := path, alt := alt }
    let zeros := fld w0.toNat 56 7 == 0 && fld w0.toNat 36 2 == 0 && fld w1.toNat 52 12 == 0 && fld w1.toNat 0 16 == 0
    let ok := !w0.getLsbD 63 || (x.size != 0 && (x.kind == 1 || x.kind == 2))
    if 256 ≤ win || !zeros || !ok || 40 ≤ path || !(path :: alt.toList).all s.pathOk then res s .malformed
    else res (s.onFab fun f => { f with windows := tset Window.zero f.windows win x }) .ok

/-! ## Telemetry, attestation, power (15 R285; 21 R394, R396, R397; 27 R416) -/

/-- A lane's margin record (15 Table 15.1). -/
def LaneRec.word (r : LaneRec) : Nat := r.state + r.syms % 2 ^ 32 * 2 ^ 8 + r.eyew * 2 ^ 40 + r.eyeh * 2 ^ 48

/-- The cores that count: of a lockstep pair both, the odd one with counters of its own (19 R371, R373). -/
def State.counted (s : State) : List CoreSt :=
  let pairs := s.sch.parts.any Part.prot
  s.allCores ++ (if pairs then (s.allCores.filter fun c =>
    s.sch.parts.any (fun p => p.prot && c.no % 2 == 0 && p.cores.contains c.no) && !(s.allCores.any fun o => o.no == c.no + 1)).map
      (fun c => c.behind (CoreSt.fresh (c.no + 1))) else [])

/-- What TELEM returns, and what its read clears. -/
def State.telem (s : State) (what : TelemSel) : State × List Byte :=
  match what with
  | .decant =>
    (s, s.jobs.flatMap fun d => (List.range 4).flatMap fun k => [d.job, k, (d.at_ k).i, (d.at_ k).c, (d.at_ k).a].flatMap (leBytes 8))
  | .counters =>
    (s, s.counted.flatMap (fun c =>
      [c.no, c.ctr.corrected, c.ctr.fifoOvf, c.ctr.fifoLost, c.ctr.bankTrans, c.ctr.abandoned, c.ctr.straySack,
        c.ctr.disagree].flatMap (leBytes 8)) ++ ((List.range 4).flatMap fun d => leBytes 8 (tget 0 s.mem.forced d)) ++
      (List.range 12).flatMap fun i => leBytes 8 (s.mem.stack i).corrected ++ leBytes 8 (s.mem.stack i).uncorrected)
  | .lanes =>
    (s.onFab fun f => { f with lanes := (List.range 128).foldl (fun t l => tset LaneRec.fresh t l { tget LaneRec.fresh t l with syms := 0 }) f.lanes },
      (List.range 128).flatMap fun l => leBytes 8 (s.laneRec l).word)
  | .rails rail =>
    (s, (tget [] s.rails rail).flatMap fun p =>
      leBytes 2 rail ++ leBytes 2 0 ++ leBytes 4 p.2.mv ++ leBytes 4 p.2.ma ++ leBytes 2 p.2.temp ++ leBytes 2 p.1)
  | .power die =>
    let p := s.dieAt die
    (s, ([p.flux, p.pwr, p.capflux, p.pcap, p.alert.toNat, p.alerten.toNat, p.usec, p.tcmp] ++ (List.range 16).map fun g => tget 0 p.throt g).flatMap (leBytes 8))
  | .thermal die => (s, (tgets 0 (s.dieAt die).cmem 0x20000100 1024) ++ tgets 0 (s.dieAt die).cmem 0x20000090 8)

def execTelem (k : Hdr) (what : TelemSel) (s : State) : Host.Outcome State Fault Refusal :=
  s.command k 18 0 fun s => let r := s.telem what; some { s := r.1, st := .ok, entries := [], data := r.2 }

/-- The attestation report (21 R394): part number, device number, image digest, pass bits, nonce. -/
def State.report (s : State) (nonce : BitVec 256) : List Byte :=
  leBytes 8 Config.partNumber ++ leBytes 8 s.fab.devNo ++ ((List.range 32).map fun i => BitVec.ofNat 8 (Config.imageDigest i)) ++
  leBytes 8 s.host.groups.toNat ++ leBytes 8 s.host.stacksOk.toNat ++ leBytes 8 s.host.portsOk.toNat ++ leBytes 32 nonce.toNat

/-- ATTEST: the report and the signature over its SHAKE256 digest. -/
def execAttest (k : Hdr) (nonce : BitVec 256) (s : State) : Host.Outcome State Fault Refusal :=
  s.command k 19 0 fun s =>
    let r := s.report nonce
    some { s := s, st := .ok, entries := [], data := r ++ (Config.attestSignature ((shake256 r).map BitVec.toNat)).map (BitVec.ofNat 8) }

/-- POWER: RANGE outside the limits. -/
def execPower (k : Hdr) (die pcap capflux : Nat) (s : State) : Host.Outcome State Fault Refusal :=
  s.command k 20 0 fun s =>
    if 4 ≤ die then res s .malformed
    else if pcap < 1000 || 4700 < pcap || capflux < 1000 || 2400 < capflux then res s .range
    else res (s.onDie die fun p => { p with pcap := pcap, capflux := capflux }) .ok

/-! ## The debugger (16 R331; 18 R360, R364 to R366) -/

/-- A warp halted: its wait is kept. -/
def Warp.halt (w : Warp) : Warp := if w.run = .halted ∨ w.run = .retired then w else { w with run := .halted, resumeTo := w.run }

/-- A halted warp that is not wedged goes on. -/
def Warp.resumed (w : Warp) (now : Nat) : Warp := { w with run := w.resumeTo, resumeTo := .ready, nextIssue := max w.nextIssue now }

/-- Is the second core the odd one of the first's lockstep pair (19 R371)? -/
def State.paired (s : State) (even odd : Nat) : Bool := even % 2 == 0 && odd == even + 1 && s.sch.parts.any fun p => p.prot && p.cores.contains even

def State.debug (s : State) (cmd : DbgCmd) : Option Result :=
  let cmp := fun (t : Tbl Cmpr) (i : Nat) (ctl qual : Word) => tset Cmpr.off t i { ctl := ctl, qual := qual }
  match cmd with
  | .pcCmp core i ctl qual =>
    if 1024 ≤ core || 4 ≤ i || ctl.toNat / 2 ^ 56 != 0 then res s .malformed else res (s.onCoreNo core fun c => { c with pcCmp := cmp c.pcCmp i ctl qual }) .ok
  | .dataCmp core i ctl qual =>
    if 1024 ≤ core || 4 ≤ i || ctl.toNat / 2 ^ 56 != 0 then res s .malformed else res (s.onCoreNo core fun c => { c with dataCmp := cmp c.dataCmp i ctl qual }) .ok
  | .cmpCtx core ctx => if 1024 ≤ core then res s .malformed else res (s.onCoreNo core fun c => { c with cmpCtx := ctx % 4096 }) .ok
  | .halt wid => if (s.warpAt wid).isNone then res s .malformed else res ((s.mapWarps (·.id == wid) Warp.halt).mapCores fun c => c.dropHold wid) .ok
  | .resume wid =>
    match s.warpAt wid with
    | some w => if w.run = .halted && !w.wedge then res (s.mapWarps (·.id == wid) fun w => w.resumed (s.coreAt w.corE).cycle) .ok else res s .malformed
    | none => res s .malformed
  | .kill wid =>
    match s.warpAt wid with
    | some w => if w.run = .retired then res s .malformed else res ((s.focus wid).kill .wedged) .ok
    | none => res s .malformed
  | .release core => if 1024 ≤ core then res s .malformed else res (s.mapCores fun c => if c.no = core || s.paired c.no core then { c with debugStop := false } else c) .ok
  | .step wid on => if (s.warpAt wid).isNone then res s .malformed else res (s.mapWarps (·.id == wid) fun w => { w with ss := on }) .ok

/-- DEBUG: DENIED outside the debugger's session. -/
def execFjodyDebug (k : Hdr) (cmd : DbgCmd) (s : State) : Host.Outcome State Fault Refusal :=
  s.command k 21 0 fun s => if s.host.debugger then s.debug cmd else res s .denied

end Sys2Proof.Machine
end

