-- ==== Sys2Proof/Machine/ExecC.lean ====
section
/-! DEFINITION. The C slot (spec 16): the meaning of each instruction as a bundle of its own that the running warp
issues at its next issue cycle: its checks, its traps, its holds, its effect, the boundary after it (spec 02 R40; 18 R353). -/

namespace Sys2Proof.Machine

/-- CNOP (R41). -/
def execCnop (s : State) : Host.Outcome State Fault Refusal := issueOne .cnop opCnop s
/-- SADD (R306). -/
def execSadd (d : Reg) (a : Reg) (b : Reg) (s : State) : Host.Outcome State Fault Refusal :=
  issueOne (.sadd d a b) (opSadd d a b) s
/-- SSUB (R306). -/
def execSsub (d : Reg) (a : Reg) (b : Reg) (s : State) : Host.Outcome State Fault Refusal :=
  issueOne (.ssub d a b) (opSsub d a b) s
/-- SMUL (R306). -/
def execSmul (d : Reg) (a : Reg) (b : Reg) (s : State) : Host.Outcome State Fault Refusal :=
  issueOne (.smul d a b) (opSmul d a b) s
/-- SMULH (R306). -/
def execSmulh (d : Reg) (a : Reg) (b : Reg) (u : Bool) (s : State) : Host.Outcome State Fault Refusal :=
  issueOne (.smulh d a b u) (opSmulh d a b u) s
/-- SDIV (R307). -/
def execSdiv (d : Reg) (a : Reg) (b : Reg) (u : Bool) (s : State) : Host.Outcome State Fault Refusal :=
  issueOne (.sdiv d a b u) (opSdiv d a b u) s
/-- SREM (R307). -/
def execSrem (d : Reg) (a : Reg) (b : Reg) (u : Bool) (s : State) : Host.Outcome State Fault Refusal :=
  issueOne (.srem d a b u) (opSrem d a b u) s
/-- SAND (R306). -/
def execSand (d : Reg) (a : Reg) (b : Reg) (s : State) : Host.Outcome State Fault Refusal :=
  issueOne (.sand d a b) (opSand d a b) s
/-- SOR (R306). -/
def execSor (d : Reg) (a : Reg) (b : Reg) (s : State) : Host.Outcome State Fault Refusal :=
  issueOne (.sor d a b) (opSor d a b) s
/-- SXOR (R306). -/
def execSxor (d : Reg) (a : Reg) (b : Reg) (s : State) : Host.Outcome State Fault Refusal :=
  issueOne (.sxor d a b) (opSxor d a b) s
/-- SANDN (R306). -/
def execSandn (d : Reg) (a : Reg) (b : Reg) (s : State) : Host.Outcome State Fault Refusal :=
  issueOne (.sandn d a b) (opSandn d a b) s
/-- SSHL (R306). -/
def execSshl (d : Reg) (a : Reg) (b : Reg) (s : State) : Host.Outcome State Fault Refusal :=
  issueOne (.sshl d a b) (opSshl d a b) s
/-- SSHR (R306). -/
def execSshr (d : Reg) (a : Reg) (b : Reg) (s : State) : Host.Outcome State Fault Refusal :=
  issueOne (.sshr d a b) (opSshr d a b) s
/-- SSRA (R306). -/
def execSsra (d : Reg) (a : Reg) (b : Reg) (s : State) : Host.Outcome State Fault Refusal :=
  issueOne (.ssra d a b) (opSsra d a b) s
/-- SMIN (R306). -/
def execSmin (d : Reg) (a : Reg) (b : Reg) (u : Bool) (s : State) : Host.Outcome State Fault Refusal :=
  issueOne (.smin d a b u) (opSmin d a b u) s
/-- SMAX (R306). -/
def execSmax (d : Reg) (a : Reg) (b : Reg) (u : Bool) (s : State) : Host.Outcome State Fault Refusal :=
  issueOne (.smax d a b u) (opSmax d a b u) s
/-- SCMP (R306). -/
def execScmp (cc : Cmp) (d : Reg) (a : Reg) (b : Reg) (s : State) : Host.Outcome State Fault Refusal :=
  issueOne (.scmp cc d a b) (opScmp cc d a b) s
/-- SSEL (R306). -/
def execSsel (d : Reg) (a : Reg) (b : Reg) (c : Reg) (s : State) : Host.Outcome State Fault Refusal :=
  issueOne (.ssel d a b c) (opSsel d a b c) s
/-- SPOPC (R306). -/
def execSpopc (d : Reg) (a : Reg) (s : State) : Host.Outcome State Fault Refusal := issueOne (.spopc d a) (opSpopc d a) s
/-- SCLZ (R306). -/
def execSclz (d : Reg) (a : Reg) (s : State) : Host.Outcome State Fault Refusal := issueOne (.sclz d a) (opSclz d a) s
/-- SCTZ (R306). -/
def execSctz (d : Reg) (a : Reg) (s : State) : Host.Outcome State Fault Refusal := issueOne (.sctz d a) (opSctz d a) s
/-- SBFX (R308). -/
def execSbfx (d : Reg) (a : Reg) (b : Reg) (sx : Bool) (s : State) : Host.Outcome State Fault Refusal :=
  issueOne (.sbfx d a b sx) (opSbfx d a b sx) s
/-- SBFI (R308). -/
def execSbfi (d : Reg) (a : Reg) (b : Reg) (c : Reg) (s : State) : Host.Outcome State Fault Refusal :=
  issueOne (.sbfi d a b c) (opSbfi d a b c) s
/-- SADDI (R309). -/
def execSaddi (d : Reg) (a : Reg) (imm : BitVec 32) (s : State) : Host.Outcome State Fault Refusal :=
  issueOne (.saddi d a imm) (opSaddi d a imm) s
/-- SANDI (R309). -/
def execSandi (d : Reg) (a : Reg) (imm : BitVec 32) (s : State) : Host.Outcome State Fault Refusal :=
  issueOne (.sandi d a imm) (opSandi d a imm) s
/-- SORI (R309). -/
def execSori (d : Reg) (a : Reg) (imm : BitVec 32) (s : State) : Host.Outcome State Fault Refusal :=
  issueOne (.sori d a imm) (opSori d a imm) s
/-- SXORI (R309). -/
def execSxori (d : Reg) (a : Reg) (imm : BitVec 32) (s : State) : Host.Outcome State Fault Refusal :=
  issueOne (.sxori d a imm) (opSxori d a imm) s
/-- SLI (R309). -/
def execSli (d : Reg) (imm : BitVec 32) (s : State) : Host.Outcome State Fault Refusal :=
  issueOne (.sli d imm) (opSli d imm) s
/-- SLIH (R309). -/
def execSlih (d : Reg) (a : Reg) (imm : BitVec 32) (s : State) : Host.Outcome State Fault Refusal :=
  issueOne (.slih d a imm) (opSlih d a imm) s
/-- SSHLI (R309). -/
def execSshli (d : Reg) (a : Reg) (n : Fin 64) (s : State) : Host.Outcome State Fault Refusal :=
  issueOne (.sshli d a n) (opSshli d a n) s
/-- SSHRI (R309). -/
def execSshri (d : Reg) (a : Reg) (n : Fin 64) (ar : Bool) (s : State) : Host.Outcome State Fault Refusal :=
  issueOne (.sshri d a n ar) (opSshri d a n ar) s
/-- SGET (R310). -/
def execSget (d : Reg) (n : BitVec 8) (s : State) : Host.Outcome State Fault Refusal := issueOne (.sget d n) (opSget d n) s
/-- SSET (R310). -/
def execSset (n : BitVec 8) (a : Reg) (s : State) : Host.Outcome State Fault Refusal := issueOne (.sset n a) (opSset n a) s
/-- EMSET (R311). -/
def execEmset (a : Reg) (s : State) : Host.Outcome State Fault Refusal := issueOne (.emset a) (opEmset a) s
/-- EMAND (R311). -/
def execEmand (d : Reg) (a : Reg) (s : State) : Host.Outcome State Fault Refusal := issueOne (.emand d a) (opEmand d a) s
/-- EMGET (R311). -/
def execEmget (d : Reg) (s : State) : Host.Outcome State Fault Refusal := issueOne (.emget d) (opEmget d) s
/-- EXIT (R312). -/
def execExit (m : Option Reg) (s : State) : Host.Outcome State Fault Refusal := issueOne (.exit m) (opExit m) s
/-- BR (R313). -/
def execBr (off : BitVec 32) (s : State) : Host.Outcome State Fault Refusal := issueOne (.br off) (opBr off) s
/-- BC (R313). -/
def execBc (cc : BCond) (cr : Reg) (off : BitVec 32) (s : State) : Host.Outcome State Fault Refusal :=
  issueOne (.bc cc cr off) (opBc cc cr off) s
/-- BZM (R313). -/
def execBzm (off : BitVec 32) (s : State) : Host.Outcome State Fault Refusal := issueOne (.bzm off) (opBzm off) s
/-- JR (R314). -/
def execJr (a : Reg) (kind : Fin 16) (s : State) : Host.Outcome State Fault Refusal := issueOne (.jr a kind) (opJr a kind) s
/-- CALL (R314). -/
def execCall (d : Reg) (off : BitVec 32) (s : State) : Host.Outcome State Fault Refusal :=
  issueOne (.call d off) (opCall d off) s
/-- CALLR (R314). -/
def execCallr (d : Reg) (a : Reg) (kind : Fin 16) (s : State) : Host.Outcome State Fault Refusal :=
  issueOne (.callr d a kind) (opCallr d a kind) s
/-- RET (R314). -/
def execRet (a : Reg) (s : State) : Host.Outcome State Fault Refusal := issueOne (.ret a) (opRet a) s
/-- LPAD (R315). -/
def execLpad (kind : Fin 16) (s : State) : Host.Outcome State Fault Refusal := issueOne (.lpad kind) (opLpad kind) s
/-- LOOP (R316). -/
def execLoop (lvl : Fin 2) (cr : Reg) (off : BitVec 32) (s : State) : Host.Outcome State Fault Refusal :=
  issueOne (.loop lvl cr off) (opLoop lvl cr off) s
/-- LOOPI (R316). -/
def execLoopi (lvl : Fin 2) (cnt : BitVec 16) (fin : BitVec 16) (s : State) : Host.Outcome State Fault Refusal :=
  issueOne (.loopi lvl cnt fin) (opLoopi lvl cnt fin) s
/-- LOOPX (R318). -/
def execLoopx (lvl : Fin 2) (s : State) : Host.Outcome State Fault Refusal := issueOne (.loopx lvl) (opLoopx lvl) s
/-- WAITF (R319). -/
def execWaitf (t : Option WaitArg) (s : State) : Host.Outcome State Fault Refusal := issueOne (.waitf t) (opWaitf t) s
/-- YIELD (R320). -/
def execYield (s : State) : Host.Outcome State Fault Refusal := issueOne .yield opYield s
/-- BJOIN (R322). -/
def execBjoin (a : Reg) (imm : BitVec 32) (s : State) : Host.Outcome State Fault Refusal :=
  issueOne (.bjoin a imm) (opBjoin a imm) s
/-- BLEAVE (R322). -/
def execBleave (a : Reg) (imm : BitVec 32) (s : State) : Host.Outcome State Fault Refusal :=
  issueOne (.bleave a imm) (opBleave a imm) s
/-- BARV (R322). -/
def execBarv (a : Reg) (imm : BitVec 32) (s : State) : Host.Outcome State Fault Refusal :=
  issueOne (.barv a imm) (opBarv a imm) s
/-- BWAIT (R322). -/
def execBwait (a : Reg) (imm : BitVec 32) (s : State) : Host.Outcome State Fault Refusal :=
  issueOne (.bwait a imm) (opBwait a imm) s
/-- BSYNC (R322). -/
def execBsync (a : Reg) (imm : BitVec 32) (s : State) : Host.Outcome State Fault Refusal :=
  issueOne (.bsync a imm) (opBsync a imm) s
/-- SENT (R325). -/
def execSent (s : State) : Host.Outcome State Fault Refusal := issueOne .sent opSent s
/-- SENT_CLOSE (R325). -/
def execSentClose (s : State) : Host.Outcome State Fault Refusal := issueOne .sentClose opSentClose s
/-- STEP (R327). -/
def execStep (a : Reg) (s : State) : Host.Outcome State Fault Refusal := issueOne (.step a) (opStep a) s
/-- TRAP (R328). -/
def execTrap (imm : BitVec 16) (s : State) : Host.Outcome State Fault Refusal := issueOne (.trap imm) (opTrap imm) s
/-- RFT (R329). -/
def execRft (s : State) : Host.Outcome State Fault Refusal := issueOne .rft opRft s
/-- TFRD (R330). -/
def execTfrd (d : Reg) (a : Reg) (imm : BitVec 32) (s : State) : Host.Outcome State Fault Refusal :=
  issueOne (.tfrd d a imm) (opTfrd d a imm) s
/-- TFWR (R330). -/
def execTfwr (v : Reg) (a : Reg) (imm : BitVec 32) (s : State) : Host.Outcome State Fault Refusal :=
  issueOne (.tfwr v a imm) (opTfwr v a imm) s
/-- BRK (R328). -/
def execBrk (imm : BitVec 12) (s : State) : Host.Outcome State Fault Refusal := issueOne (.brk imm) (opBrk imm) s
/-- HALTW (R331). -/
def execHaltw (s : State) : Host.Outcome State Fault Refusal := issueOne .haltw opHaltw s

end Sys2Proof.Machine
end

