-- ==== Sys2Proof/Machine/ExecE.lean ====
section
/-! DEFINITION. The E slot (spec 09, 10, 14): the meaning of each instruction as a bundle of its own that the running warp
issues at its next issue cycle: its checks, its traps, its holds, its effect, the boundary after it (spec 02 R40; 18 R353). -/

namespace Sys2Proof.Machine

/-- ENOP (R41). -/
def execEnop (s : State) : Host.Outcome State Fault Refusal := issueOne .enop opEnop s
/-- CPYGL (R181). -/
def execCpygl (k : MHead) (f : FlagNo) (sa : Reg) (sd : Reg) (sg : Reg) (sx : Reg) (s : State) : Host.Outcome State Fault Refusal :=
  issueOne (.cpygl k f sa sd sg sx) (opCpygl k f sa sd sg sx) s
/-- CPYLG (R182). -/
def execCpylg (k : MHead) (f : FlagNo) (sa : Reg) (sd : Reg) (sg : Reg) (sx : Reg) (s : State) : Host.Outcome State Fault Refusal :=
  issueOne (.cpylg k f sa sd sg sx) (opCpylg k f sa sd sg sx) s
/-- CPYLL (R183). -/
def execCpyll (f : FlagNo) (sa : Reg) (sd : Reg) (sg : Reg) (sx : Reg) (s : State) : Host.Outcome State Fault Refusal :=
  issueOne (.cpyll f sa sd sg sx) (opCpyll f sa sd sg sx) s
/-- CPYGG (R184). -/
def execCpygg (k : MHead) (f : FlagNo) (sa : Reg) (sd : Reg) (sg : Reg) (sx : Reg) (pk : Bool) (s : State) : Host.Outcome State Fault Refusal :=
  issueOne (.cpygg k f sa sd sg sx pk) (opCpygg k f sa sd sg sx pk) s
/-- CPYFIL (R185). -/
def execCpyfil (f : FlagNo) (sd : Reg) (sg : Reg) (imm : BitVec 16) (hi : Bool) (g : Option CpyG) (s : State) : Host.Outcome State Fault Refusal :=
  issueOne (.cpyfil f sd sg imm hi g) (opCpyfil f sd sg imm hi g) s
/-- CPYP (R186). -/
def execCpyp (f : FlagNo) (sa : Reg) (sg : Reg) (ch : BitVec 16) (s : State) : Host.Outcome State Fault Refusal :=
  issueOne (.cpyp f sa sg ch) (opCpyp f sa sg ch) s
/-- TLD (R207). -/
def execTld (f : Option FlagNo) (hd : Reg) (base : Reg) (pit : Reg) (tr : Bool) (s : State) : Host.Outcome State Fault Refusal :=
  issueOne (.tld f hd base pit tr) (opTld f hd base pit tr) s
/-- TST (R207). -/
def execTst (f : FlagNo) (hd : Reg) (base : Reg) (pit : Reg) (tr : Bool) (s : State) : Host.Outcome State Fault Refusal :=
  issueOne (.tst f hd base pit tr) (opTst f hd base pit tr) s
/-- TALLOC (R203). -/
def execTalloc (hd : Reg) (sdesc : Reg) (sst : Reg) (s : State) : Host.Outcome State Fault Refusal :=
  issueOne (.talloc hd sdesc sst) (opTalloc hd sdesc sst) s
/-- TFREE (R204). -/
def execTfree (hd : Reg) (s : State) : Host.Outcome State Fault Refusal := issueOne (.tfree hd) (opTfree hd) s
/-- THAND (R205). -/
def execThand (hd : Reg) (st : Reg) (s : State) : Host.Outcome State Fault Refusal :=
  issueOne (.thand hd st) (opThand hd st) s
/-- TTAKE (R205). -/
def execTtake (hd : Reg) (se : Reg) (sst : Reg) (s : State) : Host.Outcome State Fault Refusal :=
  issueOne (.ttake hd se sst) (opTtake hd se sst) s
/-- TDESC (R206). -/
def execTdesc (hd : Reg) (sd : Reg) (s : State) : Host.Outcome State Fault Refusal :=
  issueOne (.tdesc hd sd) (opTdesc hd sd) s
/-- TSETD (R206). -/
def execTsetd (hd : Reg) (sdesc : Reg) (s : State) : Host.Outcome State Fault Refusal :=
  issueOne (.tsetd hd sdesc) (opTsetd hd sdesc) s
/-- MZERO (R269). -/
def execMzero (f : Option FlagNo) (hd : Reg) (s : State) : Host.Outcome State Fault Refusal :=
  issueOne (.mzero f hd) (opMzero f hd) s
/-- MHFA (R270). -/
def execMhfa (f : Option FlagNo) (et : MType) (hd : Reg) (ha : Reg) (hb : Reg) (x32 : Bool) (win : Option Win) (s : State) : Host.Outcome State Fault Refusal :=
  issueOne (.mhfa f et hd ha hb x32 win) (opMhfa f et hd ha hb x32 win) s
/-- MBMM (R271). -/
def execMbmm (f : Option FlagNo) (rg : RungSel) (hd : Reg) (ha : Reg) (hb : Reg) (win : Option Win) (s : State) : Host.Outcome State Fault Refusal :=
  issueOne (.mbmm f rg hd ha hb win) (opMbmm f rg hd ha hb win) s
/-- MSCA (R272). -/
def execMsca (f : Option FlagNo) (hd : Reg) (ha : Reg) (s : State) : Host.Outcome State Fault Refusal :=
  issueOne (.msca f hd ha) (opMsca f hd ha) s
/-- MHAD (R273). -/
def execMhad (f : Option FlagNo) (et : MType) (hd : Reg) (s : State) : Host.Outcome State Fault Refusal :=
  issueOne (.mhad f et hd) (opMhad f et hd) s
/-- MDRN (R274). -/
def execMdrn (f : Option FlagNo) (hd : Reg) (ha : Reg) (blk : Fin 16) (s : State) : Host.Outcome State Fault Refusal :=
  issueOne (.mdrn f hd ha blk) (opMdrn f hd ha blk) s
/-- MCVT (R275). -/
def execMcvt (f : Option FlagNo) (et : MType) (hd : Reg) (ha : Reg) (s : State) : Host.Outcome State Fault Refusal :=
  issueOne (.mcvt f et hd ha) (opMcvt f et hd ha) s
/-- MADD (R276). -/
def execMadd (f : Option FlagNo) (et : MType) (hd : Reg) (ha : Reg) (s : State) : Host.Outcome State Fault Refusal :=
  issueOne (.madd f et hd ha) (opMadd f et hd ha) s
/-- MSCL (R277). -/
def execMscl (f : Option FlagNo) (hd : Reg) (ha : Reg) (row : Bool) (s : State) : Host.Outcome State Fault Refusal :=
  issueOne (.mscl f hd ha row) (opMscl f hd ha row) s
/-- MSETD (R278). -/
def execMsetd (f : Option FlagNo) (sa : Reg) (s : State) : Host.Outcome State Fault Refusal :=
  issueOne (.msetd f sa) (opMsetd f sa) s

end Sys2Proof.Machine
end

