-- ==== Sys2Proof/Machine/ExecM.lean ====
section
/-! DEFINITION. The M slot (spec 08): the meaning of each instruction as a bundle of its own that the running warp
issues at its next issue cycle: its checks, its traps, its holds, its effect, the boundary after it (spec 02 R40; 18 R353). -/

namespace Sys2Proof.Machine

/-- MNOP (R41). -/
def execMnop (s : State) : Host.Outcome State Fault Refusal := issueOne .mnop opMnop s
/-- LLD (R146). -/
def execLld (d : Reg) (w : Width) (a : LAddr) (le : Bool) (xn : Fin 8) (s : State) : Host.Outcome State Fault Refusal :=
  issueOne (.lld d w a le xn) (opLld d w a le xn) s
/-- LST (R146). -/
def execLst (d : Reg) (w : Width) (a : LAddr) (s : State) : Host.Outcome State Fault Refusal :=
  issueOne (.lst d w a) (opLst d w a) s
/-- LLDS (R146). -/
def execLlds (d : Reg) (w : Width) (sb : Reg) (imm : BitVec 16) (s : State) : Host.Outcome State Fault Refusal :=
  issueOne (.llds d w sb imm) (opLlds d w sb imm) s
/-- LSTS (R146). -/
def execLsts (d : Reg) (w : Width) (sb : Reg) (imm : BitVec 16) (s : State) : Host.Outcome State Fault Refusal :=
  issueOne (.lsts d w sb imm) (opLsts d w sb imm) s
/-- LATOM (R147). -/
def execLatom (d : Reg) (w : Width) (a : GAddr) (op : Aop) (s : State) : Host.Outcome State Fault Refusal :=
  issueOne (.latom d w a op) (opLatom d w a op) s
/-- LCAS (R147). -/
def execLcas (d : Reg) (w : Width) (a : GAddr) (s : State) : Host.Outcome State Fault Refusal :=
  issueOne (.lcas d w a) (opLcas d w a) s
/-- QENQ (R148). -/
def execQenq (d : Reg) (w : Width) (sb : Reg) (imm : BitVec 16) (s : State) : Host.Outcome State Fault Refusal :=
  issueOne (.qenq d w sb imm) (opQenq d w sb imm) s
/-- QDEQ (R148). -/
def execQdeq (d : Reg) (w : Width) (sb : Reg) (imm : BitVec 16) (le : Bool) (xn : Fin 8) (s : State) : Host.Outcome State Fault Refusal :=
  issueOne (.qdeq d w sb imm le xn) (opQdeq d w sb imm le xn) s
/-- QSTAT (R148). -/
def execQstat (d : Reg) (sb : Reg) (imm : BitVec 16) (s : State) : Host.Outcome State Fault Refusal :=
  issueOne (.qstat d sb imm) (opQstat d sb imm) s
/-- GLD (R149). -/
def execGld (k : MHead) (f : FlagNo) (d : Reg) (w : Width) (a : GAddr) (s : State) : Host.Outcome State Fault Refusal :=
  issueOne (.gld k f d w a) (opGld k f d w a) s
/-- GST (R149). -/
def execGst (k : MHead) (f : Option FlagNo) (d : Reg) (w : Width) (a : GAddr) (s : State) : Host.Outcome State Fault Refusal :=
  issueOne (.gst k f d w a) (opGst k f d w a) s
/-- GATOM (R149). -/
def execGatom (k : MHead) (f : FlagNo) (d : Reg) (w : Width) (a : GAddr) (op : Aop) (s : State) : Host.Outcome State Fault Refusal :=
  issueOne (.gatom k f d w a op) (opGatom k f d w a op) s
/-- GRED (R149). -/
def execGred (k : MHead) (f : Option FlagNo) (d : Reg) (w : Width) (a : GAddr) (op : Aop) (s : State) : Host.Outcome State Fault Refusal :=
  issueOne (.gred k f d w a op) (opGred k f d w a op) s
/-- GCAS (R149). -/
def execGcas (k : MHead) (f : FlagNo) (d : Reg) (w : Width) (a : GAddr) (s : State) : Host.Outcome State Fault Refusal :=
  issueOne (.gcas k f d w a) (opGcas k f d w a) s
/-- GLDC (R150). -/
def execGldc (k : MHead) (d : Reg) (w : Width) (a : LAddr) (le : Bool) (xn : Fin 8) (s : State) : Host.Outcome State Fault Refusal :=
  issueOne (.gldc k d w a le xn) (opGldc k d w a le xn) s
/-- SLDC (R150). -/
def execSldc (k : MHead) (d : Reg) (w : Width) (sb : Reg) (imm : BitVec 16) (s : State) : Host.Outcome State Fault Refusal :=
  issueOne (.sldc k d w sb imm) (opSldc k d w sb imm) s
/-- SGLD (R151). -/
def execSgld (k : MHead) (f : FlagNo) (d : Reg) (w : Width) (sb : Reg) (imm : BitVec 16) (s : State) : Host.Outcome State Fault Refusal :=
  issueOne (.sgld k f d w sb imm) (opSgld k f d w sb imm) s
/-- SGST (R151). -/
def execSgst (k : MHead) (f : Option FlagNo) (d : Reg) (w : Width) (sb : Reg) (imm : BitVec 16) (s : State) : Host.Outcome State Fault Refusal :=
  issueOne (.sgst k f d w sb imm) (opSgst k f d w sb imm) s
/-- FENCE (R152). -/
def execFence (kind : FenceKind) (sc : Scope) (f : Option FlagNo) (mask : BitVec 16) (s : State) : Host.Outcome State Fault Refusal :=
  issueOne (.fence kind sc f mask) (opFence kind sc f mask) s
/-- L1INV (R153). -/
def execL1inv (s : State) : Host.Outcome State Fault Refusal := issueOne .l1inv opL1inv s
/-- WCFL (R154). -/
def execWcfl (f : FlagNo) (s : State) : Host.Outcome State Fault Refusal := issueOne (.wcfl f) (opWcfl f) s
/-- PREF (R155). -/
def execPref (w : Width) (a : LAddr) (s : State) : Host.Outcome State Fault Refusal := issueOne (.pref w a) (opPref w a) s
/-- HINT (R156). -/
def execHint (f : Option FlagNo) (d : Reg) (sb : Reg) (sh : Reg) (imm : BitVec 16) (s : State) : Host.Outcome State Fault Refusal :=
  issueOne (.hint f d sb sh imm) (opHint f d sb sh imm) s
/-- PHASE (R157). -/
def execPhase (imm : BitVec 16) (s : State) : Host.Outcome State Fault Refusal := issueOne (.phase imm) (opPhase imm) s
/-- SIGNAL (R158). -/
def execSignal (k : MHead) (f : Option FlagNo) (d : Reg) (sb : Reg) (imm : BitVec 16) (op : Aop) (s : State) : Host.Outcome State Fault Refusal :=
  issueOne (.signal k f d sb imm op) (opSignal k f d sb imm op) s
/-- SACK (R162). -/
def execSack (sb : Reg) (imm : BitVec 16) (s : State) : Host.Outcome State Fault Refusal :=
  issueOne (.sack sb imm) (opSack sb imm) s
/-- QUIET (R163). -/
def execQuiet (f : FlagNo) (d : Reg) (s : State) : Host.Outcome State Fault Refusal := issueOne (.quiet f d) (opQuiet f d) s
/-- SARM (R159). -/
def execSarm (q : Fin 16) (sb : Reg) (imm : BitVec 16) (s : State) : Host.Outcome State Fault Refusal :=
  issueOne (.sarm q sb imm) (opSarm q sb imm) s
/-- SARM_OFF (R159). -/
def execSarmOff (sb : Reg) (imm : BitVec 16) (s : State) : Host.Outcome State Fault Refusal :=
  issueOne (.sarmOff sb imm) (opSarmOff sb imm) s
/-- LAUNCH (R164). -/
def execLaunch (f : FlagNo) (d : Reg) (sb : Reg) (imm : BitVec 16) (s : State) : Host.Outcome State Fault Refusal :=
  issueOne (.launch f d sb imm) (opLaunch f d sb imm) s
/-- PGFETCH (R165). -/
def execPgfetch (f : FlagNo) (kind : PgKind) (d : Reg) (sb : Reg) (imm : BitVec 16) (s : State) : Host.Outcome State Fault Refusal :=
  issueOne (.pgfetch f kind d sb imm) (opPgfetch f kind d sb imm) s
/-- XINV (R166). -/
def execXinv (f : Option FlagNo) (d : Reg) (sb : Reg) (imm : BitVec 16) (s : State) : Host.Outcome State Fault Refusal :=
  issueOne (.xinv f d sb imm) (opXinv f d sb imm) s

end Sys2Proof.Machine
end

