-- ==== Sys2Proof/Machine/ExecV.lean ====
section
/-! DEFINITION. The V slot (spec 11, 12): the meaning of each instruction as a bundle of its own that the running warp
issues at its next issue cycle: its checks, its traps, its holds, its effect, the boundary after it (spec 02 R40; 18 R353). -/

namespace Sys2Proof.Machine

/-- VNOP (R41). -/
def execVnop (s : State) : Host.Outcome State Fault Refusal := issueOne .vnop opVnop s
/-- VADD (R214). -/
def execVadd (h : VHead) (a : Opd) (b : Opd) (sat : Bool) (s : State) : Host.Outcome State Fault Refusal :=
  issueOne (.vadd h a b sat) (opVadd h a b sat) s
/-- VSUB (R214). -/
def execVsub (h : VHead) (a : Opd) (b : Opd) (sat : Bool) (s : State) : Host.Outcome State Fault Refusal :=
  issueOne (.vsub h a b sat) (opVsub h a b sat) s
/-- VMUL (R215). -/
def execVmul (h : VHead) (a : Opd) (b : Opd) (sat : Bool) (s : State) : Host.Outcome State Fault Refusal :=
  issueOne (.vmul h a b sat) (opVmul h a b sat) s
/-- VMULH (R215). -/
def execVmulh (h : VHead) (a : Opd) (b : Opd) (s : State) : Host.Outcome State Fault Refusal :=
  issueOne (.vmulh h a b) (opVmulh h a b) s
/-- VMAD (R215). -/
def execVmad (h : VHead) (a : Opd) (b : Opd) (c : Opd) (sat : Bool) (s : State) : Host.Outcome State Fault Refusal :=
  issueOne (.vmad h a b c sat) (opVmad h a b c sat) s
/-- VNEG (R214). -/
def execVneg (h : VHead) (a : Opd) (sat : Bool) (s : State) : Host.Outcome State Fault Refusal :=
  issueOne (.vneg h a sat) (opVneg h a sat) s
/-- VABS (R214). -/
def execVabs (h : VHead) (a : Opd) (sat : Bool) (s : State) : Host.Outcome State Fault Refusal :=
  issueOne (.vabs h a sat) (opVabs h a sat) s
/-- VMIN (R214). -/
def execVmin (h : VHead) (a : Opd) (b : Opd) (s : State) : Host.Outcome State Fault Refusal :=
  issueOne (.vmin h a b) (opVmin h a b) s
/-- VMAX (R214). -/
def execVmax (h : VHead) (a : Opd) (b : Opd) (s : State) : Host.Outcome State Fault Refusal :=
  issueOne (.vmax h a b) (opVmax h a b) s
/-- VAVG (R214). -/
def execVavg (h : VHead) (a : Opd) (b : Opd) (fl : Bool) (s : State) : Host.Outcome State Fault Refusal :=
  issueOne (.vavg h a b fl) (opVavg h a b fl) s
/-- VSAD (R216). -/
def execVsad (h : VHead) (a : Opd) (b : Opd) (c : Opd) (sat : Bool) (s : State) : Host.Outcome State Fault Refusal :=
  issueOne (.vsad h a b c sat) (opVsad h a b c sat) s
/-- VDOT (R216). -/
def execVdot (h : VHead) (a : Opd) (b : Opd) (c : Opd) (sat : Bool) (s : State) : Host.Outcome State Fault Refusal :=
  issueOne (.vdot h a b c sat) (opVdot h a b c sat) s
/-- VSHL (R217). -/
def execVshl (h : VHead) (a : Opd) (b : Opd) (sat : Bool) (s : State) : Host.Outcome State Fault Refusal :=
  issueOne (.vshl h a b sat) (opVshl h a b sat) s
/-- VSHR (R217). -/
def execVshr (h : VHead) (a : Opd) (b : Opd) (s : State) : Host.Outcome State Fault Refusal :=
  issueOne (.vshr h a b) (opVshr h a b) s
/-- VSRA (R217). -/
def execVsra (h : VHead) (a : Opd) (b : Opd) (s : State) : Host.Outcome State Fault Refusal :=
  issueOne (.vsra h a b) (opVsra h a b) s
/-- VROT (R217). -/
def execVrot (h : VHead) (a : Opd) (b : Opd) (s : State) : Host.Outcome State Fault Refusal :=
  issueOne (.vrot h a b) (opVrot h a b) s
/-- VAND (R218). -/
def execVand (h : VHead) (a : Opd) (b : Opd) (s : State) : Host.Outcome State Fault Refusal :=
  issueOne (.vand h a b) (opVand h a b) s
/-- VOR (R218). -/
def execVor (h : VHead) (a : Opd) (b : Opd) (s : State) : Host.Outcome State Fault Refusal :=
  issueOne (.vor h a b) (opVor h a b) s
/-- VXOR (R218). -/
def execVxor (h : VHead) (a : Opd) (b : Opd) (s : State) : Host.Outcome State Fault Refusal :=
  issueOne (.vxor h a b) (opVxor h a b) s
/-- VANDN (R218). -/
def execVandn (h : VHead) (a : Opd) (b : Opd) (s : State) : Host.Outcome State Fault Refusal :=
  issueOne (.vandn h a b) (opVandn h a b) s
/-- VNOT (R218). -/
def execVnot (h : VHead) (a : Opd) (s : State) : Host.Outcome State Fault Refusal := issueOne (.vnot h a) (opVnot h a) s
/-- VCLZ (R218). -/
def execVclz (h : VHead) (a : Opd) (s : State) : Host.Outcome State Fault Refusal := issueOne (.vclz h a) (opVclz h a) s
/-- VPOPC (R218). -/
def execVpopc (h : VHead) (a : Opd) (s : State) : Host.Outcome State Fault Refusal := issueOne (.vpopc h a) (opVpopc h a) s
/-- VBREV (R218). -/
def execVbrev (h : VHead) (a : Opd) (s : State) : Host.Outcome State Fault Refusal := issueOne (.vbrev h a) (opVbrev h a) s
/-- VBFX (R219). -/
def execVbfx (h : VHead) (a : Opd) (b : Opd) (s : State) : Host.Outcome State Fault Refusal :=
  issueOne (.vbfx h a b) (opVbfx h a b) s
/-- VBFI (R219). -/
def execVbfi (h : VHead) (a : Opd) (b : Opd) (c : Opd) (s : State) : Host.Outcome State Fault Refusal :=
  issueOne (.vbfi h a b c) (opVbfi h a b c) s
/-- VCMP (R220). -/
def execVcmp (h : VHead) (a : Opd) (b : Opd) (cc : Cmp) (s : State) : Host.Outcome State Fault Refusal :=
  issueOne (.vcmp h a b cc) (opVcmp h a b cc) s
/-- VSEL (R221). -/
def execVsel (h : VHead) (a : Opd) (b : Opd) (c : Opd) (s : State) : Host.Outcome State Fault Refusal :=
  issueOne (.vsel h a b c) (opVsel h a b c) s
/-- VMOV (R222). -/
def execVmov (h : VHead) (a : Opd) (s : State) : Host.Outcome State Fault Refusal := issueOne (.vmov h a) (opVmov h a) s
/-- VPRM (R222). -/
def execVprm (h : VHead) (a : Opd) (b : Opd) (c : Opd) (s : State) : Host.Outcome State Fault Refusal :=
  issueOne (.vprm h a b c) (opVprm h a b c) s
/-- VLANE (R223). -/
def execVlane (h : VHead) (m : LaneMode) (s : State) : Host.Outcome State Fault Refusal :=
  issueOne (.vlane h m) (opVlane h m) s
/-- VADDI (R224). -/
def execVaddi (h : VImm) (a : Sel) (imm : BitVec 32) (s : State) : Host.Outcome State Fault Refusal :=
  issueOne (.vaddi h a imm) (opVaddi h a imm) s
/-- VANDI (R224). -/
def execVandi (h : VImm) (a : Sel) (imm : BitVec 32) (s : State) : Host.Outcome State Fault Refusal :=
  issueOne (.vandi h a imm) (opVandi h a imm) s
/-- VORI (R224). -/
def execVori (h : VImm) (a : Sel) (imm : BitVec 32) (s : State) : Host.Outcome State Fault Refusal :=
  issueOne (.vori h a imm) (opVori h a imm) s
/-- VXORI (R224). -/
def execVxori (h : VImm) (a : Sel) (imm : BitVec 32) (s : State) : Host.Outcome State Fault Refusal :=
  issueOne (.vxori h a imm) (opVxori h a imm) s
/-- VIMM (R224). -/
def execVimm (h : VImm) (imm : BitVec 32) (s : State) : Host.Outcome State Fault Refusal :=
  issueOne (.vimm h imm) (opVimm h imm) s
/-- VFADD (R227). -/
def execVfadd (h : VHead) (a : Opd) (b : Opd) (sat : Bool) (r : Rnd) (s : State) : Host.Outcome State Fault Refusal :=
  issueOne (.vfadd h a b sat r) (opVfadd h a b sat r) s
/-- VFSUB (R227). -/
def execVfsub (h : VHead) (a : Opd) (b : Opd) (sat : Bool) (r : Rnd) (s : State) : Host.Outcome State Fault Refusal :=
  issueOne (.vfsub h a b sat r) (opVfsub h a b sat r) s
/-- VFMUL (R227). -/
def execVfmul (h : VHead) (a : Opd) (b : Opd) (sat : Bool) (r : Rnd) (s : State) : Host.Outcome State Fault Refusal :=
  issueOne (.vfmul h a b sat r) (opVfmul h a b sat r) s
/-- VFMA (R227). -/
def execVfma (h : VHead) (a : Opd) (b : Opd) (c : Opd) (sat : Bool) (r : Rnd) (s : State) : Host.Outcome State Fault Refusal :=
  issueOne (.vfma h a b c sat r) (opVfma h a b c sat r) s
/-- VFNMA (R227). -/
def execVfnma (h : VHead) (a : Opd) (b : Opd) (c : Opd) (sat : Bool) (r : Rnd) (s : State) : Host.Outcome State Fault Refusal :=
  issueOne (.vfnma h a b c sat r) (opVfnma h a b c sat r) s
/-- VFMIN (R227). -/
def execVfmin (h : VHead) (a : Opd) (b : Opd) (s : State) : Host.Outcome State Fault Refusal :=
  issueOne (.vfmin h a b) (opVfmin h a b) s
/-- VFMAX (R227). -/
def execVfmax (h : VHead) (a : Opd) (b : Opd) (s : State) : Host.Outcome State Fault Refusal :=
  issueOne (.vfmax h a b) (opVfmax h a b) s
/-- VFCMP (R230). -/
def execVfcmp (h : VHead) (a : Opd) (b : Opd) (cc : FCmp) (s : State) : Host.Outcome State Fault Refusal :=
  issueOne (.vfcmp h a b cc) (opVfcmp h a b cc) s
/-- VFCLASS (R231). -/
def execVfclass (h : VHead) (a : Opd) (s : State) : Host.Outcome State Fault Refusal :=
  issueOne (.vfclass h a) (opVfclass h a) s
/-- VFRND (R229). -/
def execVfrnd (h : VHead) (a : Opd) (r : Rnd) (s : State) : Host.Outcome State Fault Refusal :=
  issueOne (.vfrnd h a r) (opVfrnd h a r) s
/-- VFSCL (R227). -/
def execVfscl (h : VHead) (a : Opd) (b : Opd) (sat : Bool) (r : Rnd) (s : State) : Host.Outcome State Fault Refusal :=
  issueOne (.vfscl h a b sat r) (opVfscl h a b sat r) s
/-- VFDOT2 (R228). -/
def execVfdot2 (h : VHead) (a : Opd) (b : Opd) (c : Opd) (sat : Bool) (r : Rnd) (s : State) : Host.Outcome State Fault Refusal :=
  issueOne (.vfdot2 h a b c sat r) (opVfdot2 h a b c sat r) s
/-- VFKEY (R231). -/
def execVfkey (h : VHead) (a : Opd) (s : State) : Host.Outcome State Fault Refusal := issueOne (.vfkey h a) (opVfkey h a) s
/-- VCVT (R232). -/
def execVcvt (h : VHead) (a : Opd) (src : Etype) (sat : Bool) (r : Rnd) (s : State) : Host.Outcome State Fault Refusal :=
  issueOne (.vcvt h a src sat r) (opVcvt h a src sat r) s
/-- VPACK (R233). -/
def execVpack (h : VHead) (a : Opd) (b : Opd) (src : Etype) (sat : Bool) (r : Rnd) (s : State) : Host.Outcome State Fault Refusal :=
  issueOne (.vpack h a b src sat r) (opVpack h a b src sat r) s
/-- VUNPK (R233). -/
def execVunpk (h : VHead) (a : Opd) (src : Etype) (s : State) : Host.Outcome State Fault Refusal :=
  issueOne (.vunpk h a src) (opVunpk h a src) s
/-- VBEXP (R235). -/
def execVbexp (h : VHead) (a : Opd) (s : State) : Host.Outcome State Fault Refusal := issueOne (.vbexp h a) (opVbexp h a) s
/-- VBQ (R235). -/
def execVbq (h : VHead) (a : Opd) (s : State) : Host.Outcome State Fault Refusal := issueOne (.vbq h a) (opVbq h a) s
/-- VBDQ (R236). -/
def execVbdq (h : VHead) (a : Opd) (sat : Bool) (r : Rnd) (s : State) : Host.Outcome State Fault Refusal :=
  issueOne (.vbdq h a sat r) (opVbdq h a sat r) s
/-- VRCP (R237). -/
def execVrcp (h : VHead) (a : Opd) (sat : Bool) (s : State) : Host.Outcome State Fault Refusal :=
  issueOne (.vrcp h a sat) (opVrcp h a sat) s
/-- VRSQ (R237). -/
def execVrsq (h : VHead) (a : Opd) (sat : Bool) (s : State) : Host.Outcome State Fault Refusal :=
  issueOne (.vrsq h a sat) (opVrsq h a sat) s
/-- VSQRT (R237). -/
def execVsqrt (h : VHead) (a : Opd) (sat : Bool) (s : State) : Host.Outcome State Fault Refusal :=
  issueOne (.vsqrt h a sat) (opVsqrt h a sat) s
/-- VEXP2 (R237). -/
def execVexp2 (h : VHead) (a : Opd) (sat : Bool) (s : State) : Host.Outcome State Fault Refusal :=
  issueOne (.vexp2 h a sat) (opVexp2 h a sat) s
/-- VLOG2 (R237). -/
def execVlog2 (h : VHead) (a : Opd) (sat : Bool) (s : State) : Host.Outcome State Fault Refusal :=
  issueOne (.vlog2 h a sat) (opVlog2 h a sat) s
/-- VSINP (R237). -/
def execVsinp (h : VHead) (a : Opd) (sat : Bool) (s : State) : Host.Outcome State Fault Refusal :=
  issueOne (.vsinp h a sat) (opVsinp h a sat) s
/-- VCOSP (R237). -/
def execVcosp (h : VHead) (a : Opd) (sat : Bool) (s : State) : Host.Outcome State Fault Refusal :=
  issueOne (.vcosp h a sat) (opVcosp h a sat) s
/-- VTANH (R237). -/
def execVtanh (h : VHead) (a : Opd) (sat : Bool) (s : State) : Host.Outcome State Fault Refusal :=
  issueOne (.vtanh h a sat) (opVtanh h a sat) s
/-- VSHFL (R238). -/
def execVshfl (h : VHead) (a : Opd) (b : Opd) (s : State) : Host.Outcome State Fault Refusal :=
  issueOne (.vshfl h a b) (opVshfl h a b) s
/-- VSHFLR (R238). -/
def execVshflr (h : VHead) (a : Opd) (b : Opd) (m : ShflMode) (s : State) : Host.Outcome State Fault Refusal :=
  issueOne (.vshflr h a b m) (opVshflr h a b m) s
/-- VBCST (R238). -/
def execVbcst (h : VHead) (a : Opd) (b : Opd) (s : State) : Host.Outcome State Fault Refusal :=
  issueOne (.vbcst h a b) (opVbcst h a b) s
/-- VSCAN (R239). -/
def execVscan (h : VHead) (a : Opd) (sat : Bool) (r : Rnd) (op : RedOp) (ex : Bool) (s : State) : Host.Outcome State Fault Refusal :=
  issueOne (.vscan h a sat r op ex) (opVscan h a sat r op ex) s
/-- VRED (R239). -/
def execVred (h : VHead) (a : Opd) (sat : Bool) (r : Rnd) (op : RedOp) (s : State) : Host.Outcome State Fault Refusal :=
  issueOne (.vred h a sat r op) (opVred h a sat r op) s
/-- VCOMP (R240). -/
def execVcomp (h : VHead) (a : Opd) (s : State) : Host.Outcome State Fault Refusal := issueOne (.vcomp h a) (opVcomp h a) s
/-- VGET (R241). -/
def execVget (h : VHead) (a : Opd) (b : Opd) (s : State) : Host.Outcome State Fault Refusal :=
  issueOne (.vget h a b) (opVget h a b) s
/-- VINS (R241). -/
def execVins (h : VHead) (a : Opd) (b : Opd) (s : State) : Host.Outcome State Fault Refusal :=
  issueOne (.vins h a b) (opVins h a b) s
/-- VTRD (R242). -/
def execVtrd (h : VHead) (hd : Reg) (b : Opd) (s : State) : Host.Outcome State Fault Refusal :=
  issueOne (.vtrd h hd b) (opVtrd h hd b) s
/-- VTWR (R242). -/
def execVtwr (h : VHead) (a : Opd) (b : Opd) (s : State) : Host.Outcome State Fault Refusal :=
  issueOne (.vtwr h a b) (opVtwr h a b) s

end Sys2Proof.Machine
end

