-- ==== Sys2Proof/Machine/Dispatch.lean ====
section
/-! DEFINITION. The one match from an instruction to its meaning. -/

namespace Sys2Proof.Machine

def exec (i : Instr) (s : State) : Host.Outcome State Fault Refusal :=
  match i with
  | .vnop => Sys2Proof.Machine.execVnop s
  | .vadd a b c d => Sys2Proof.Machine.execVadd a b c d s
  | .vsub a b c d => Sys2Proof.Machine.execVsub a b c d s
  | .vmul a b c d => Sys2Proof.Machine.execVmul a b c d s
  | .vmulh a b c => Sys2Proof.Machine.execVmulh a b c s
  | .vmad a b c d e => Sys2Proof.Machine.execVmad a b c d e s
  | .vneg a b c => Sys2Proof.Machine.execVneg a b c s
  | .vabs a b c => Sys2Proof.Machine.execVabs a b c s
  | .vmin a b c => Sys2Proof.Machine.execVmin a b c s
  | .vmax a b c => Sys2Proof.Machine.execVmax a b c s
  | .vavg a b c d => Sys2Proof.Machine.execVavg a b c d s
  | .vsad a b c d e => Sys2Proof.Machine.execVsad a b c d e s
  | .vdot a b c d e => Sys2Proof.Machine.execVdot a b c d e s
  | .vshl a b c d => Sys2Proof.Machine.execVshl a b c d s
  | .vshr a b c => Sys2Proof.Machine.execVshr a b c s
  | .vsra a b c => Sys2Proof.Machine.execVsra a b c s
  | .vrot a b c => Sys2Proof.Machine.execVrot a b c s
  | .vand a b c => Sys2Proof.Machine.execVand a b c s
  | .vor a b c => Sys2Proof.Machine.execVor a b c s
  | .vxor a b c => Sys2Proof.Machine.execVxor a b c s
  | .vandn a b c => Sys2Proof.Machine.execVandn a b c s
  | .vnot a b => Sys2Proof.Machine.execVnot a b s
  | .vclz a b => Sys2Proof.Machine.execVclz a b s
  | .vpopc a b => Sys2Proof.Machine.execVpopc a b s
  | .vbrev a b => Sys2Proof.Machine.execVbrev a b s
  | .vbfx a b c => Sys2Proof.Machine.execVbfx a b c s
  | .vbfi a b c d => Sys2Proof.Machine.execVbfi a b c d s
  | .vcmp a b c d => Sys2Proof.Machine.execVcmp a b c d s
  | .vsel a b c d => Sys2Proof.Machine.execVsel a b c d s
  | .vmov a b => Sys2Proof.Machine.execVmov a b s
  | .vprm a b c d => Sys2Proof.Machine.execVprm a b c d s
  | .vlane a b => Sys2Proof.Machine.execVlane a b s
  | .vaddi a b c => Sys2Proof.Machine.execVaddi a b c s
  | .vandi a b c => Sys2Proof.Machine.execVandi a b c s
  | .vori a b c => Sys2Proof.Machine.execVori a b c s
  | .vxori a b c => Sys2Proof.Machine.execVxori a b c s
  | .vimm a b => Sys2Proof.Machine.execVimm a b s
  | .vfadd a b c d e => Sys2Proof.Machine.execVfadd a b c d e s
  | .vfsub a b c d e => Sys2Proof.Machine.execVfsub a b c d e s
  | .vfmul a b c d e => Sys2Proof.Machine.execVfmul a b c d e s
  | .vfma a b c d e f => Sys2Proof.Machine.execVfma a b c d e f s
  | .vfnma a b c d e f => Sys2Proof.Machine.execVfnma a b c d e f s
  | .vfmin a b c => Sys2Proof.Machine.execVfmin a b c s
  | .vfmax a b c => Sys2Proof.Machine.execVfmax a b c s
  | .vfcmp a b c d => Sys2Proof.Machine.execVfcmp a b c d s
  | .vfclass a b => Sys2Proof.Machine.execVfclass a b s
  | .vfrnd a b c => Sys2Proof.Machine.execVfrnd a b c s
  | .vfscl a b c d e => Sys2Proof.Machine.execVfscl a b c d e s
  | .vfdot2 a b c d e f => Sys2Proof.Machine.execVfdot2 a b c d e f s
  | .vfkey a b => Sys2Proof.Machine.execVfkey a b s
  | .vcvt a b c d e => Sys2Proof.Machine.execVcvt a b c d e s
  | .vpack a b c d e f => Sys2Proof.Machine.execVpack a b c d e f s
  | .vunpk a b c => Sys2Proof.Machine.execVunpk a b c s
  | .vbexp a b => Sys2Proof.Machine.execVbexp a b s
  | .vbq a b => Sys2Proof.Machine.execVbq a b s
  | .vbdq a b c d => Sys2Proof.Machine.execVbdq a b c d s
  | .vrcp a b c => Sys2Proof.Machine.execVrcp a b c s
  | .vrsq a b c => Sys2Proof.Machine.execVrsq a b c s
  | .vsqrt a b c => Sys2Proof.Machine.execVsqrt a b c s
  | .vexp2 a b c => Sys2Proof.Machine.execVexp2 a b c s
  | .vlog2 a b c => Sys2Proof.Machine.execVlog2 a b c s
  | .vsinp a b c => Sys2Proof.Machine.execVsinp a b c s
  | .vcosp a b c => Sys2Proof.Machine.execVcosp a b c s
  | .vtanh a b c => Sys2Proof.Machine.execVtanh a b c s
  | .vshfl a b c => Sys2Proof.Machine.execVshfl a b c s
  | .vshflr a b c d => Sys2Proof.Machine.execVshflr a b c d s
  | .vbcst a b c => Sys2Proof.Machine.execVbcst a b c s
  | .vscan a b c d e f => Sys2Proof.Machine.execVscan a b c d e f s
  | .vred a b c d e => Sys2Proof.Machine.execVred a b c d e s
  | .vcomp a b => Sys2Proof.Machine.execVcomp a b s
  | .vget a b c => Sys2Proof.Machine.execVget a b c s
  | .vins a b c => Sys2Proof.Machine.execVins a b c s
  | .vtrd a b c => Sys2Proof.Machine.execVtrd a b c s
  | .vtwr a b c => Sys2Proof.Machine.execVtwr a b c s
  | .mnop => Sys2Proof.Machine.execMnop s
  | .lld a b c d e => Sys2Proof.Machine.execLld a b c d e s
  | .lst a b c => Sys2Proof.Machine.execLst a b c s
  | .llds a b c d => Sys2Proof.Machine.execLlds a b c d s
  | .lsts a b c d => Sys2Proof.Machine.execLsts a b c d s
  | .latom a b c d => Sys2Proof.Machine.execLatom a b c d s
  | .lcas a b c => Sys2Proof.Machine.execLcas a b c s
  | .qenq a b c d => Sys2Proof.Machine.execQenq a b c d s
  | .qdeq a b c d e f => Sys2Proof.Machine.execQdeq a b c d e f s
  | .qstat a b c => Sys2Proof.Machine.execQstat a b c s
  | .gld a b c d e => Sys2Proof.Machine.execGld a b c d e s
  | .gst a b c d e => Sys2Proof.Machine.execGst a b c d e s
  | .gatom a b c d e f => Sys2Proof.Machine.execGatom a b c d e f s
  | .gred a b c d e f => Sys2Proof.Machine.execGred a b c d e f s
  | .gcas a b c d e => Sys2Proof.Machine.execGcas a b c d e s
  | .gldc a b c d e f => Sys2Proof.Machine.execGldc a b c d e f s
  | .sldc a b c d e => Sys2Proof.Machine.execSldc a b c d e s
  | .sgld a b c d e f => Sys2Proof.Machine.execSgld a b c d e f s
  | .sgst a b c d e f => Sys2Proof.Machine.execSgst a b c d e f s
  | .fence a b c d => Sys2Proof.Machine.execFence a b c d s
  | .l1inv => Sys2Proof.Machine.execL1inv s
  | .wcfl a => Sys2Proof.Machine.execWcfl a s
  | .pref a b => Sys2Proof.Machine.execPref a b s
  | .hint a b c d e => Sys2Proof.Machine.execHint a b c d e s
  | .phase a => Sys2Proof.Machine.execPhase a s
  | .signal a b c d e f => Sys2Proof.Machine.execSignal a b c d e f s
  | .sack a b => Sys2Proof.Machine.execSack a b s
  | .quiet a b => Sys2Proof.Machine.execQuiet a b s
  | .sarm a b c => Sys2Proof.Machine.execSarm a b c s
  | .sarmOff a b => Sys2Proof.Machine.execSarmOff a b s
  | .launch a b c d => Sys2Proof.Machine.execLaunch a b c d s
  | .pgfetch a b c d e => Sys2Proof.Machine.execPgfetch a b c d e s
  | .xinv a b c d => Sys2Proof.Machine.execXinv a b c d s
  | .enop => Sys2Proof.Machine.execEnop s
  | .cpygl a b c d e f => Sys2Proof.Machine.execCpygl a b c d e f s
  | .cpylg a b c d e f => Sys2Proof.Machine.execCpylg a b c d e f s
  | .cpyll a b c d e => Sys2Proof.Machine.execCpyll a b c d e s
  | .cpygg a b c d e f g => Sys2Proof.Machine.execCpygg a b c d e f g s
  | .cpyfil a b c d e f => Sys2Proof.Machine.execCpyfil a b c d e f s
  | .cpyp a b c d => Sys2Proof.Machine.execCpyp a b c d s
  | .tld a b c d e => Sys2Proof.Machine.execTld a b c d e s
  | .tst a b c d e => Sys2Proof.Machine.execTst a b c d e s
  | .talloc a b c => Sys2Proof.Machine.execTalloc a b c s
  | .tfree a => Sys2Proof.Machine.execTfree a s
  | .thand a b => Sys2Proof.Machine.execThand a b s
  | .ttake a b c => Sys2Proof.Machine.execTtake a b c s
  | .tdesc a b => Sys2Proof.Machine.execTdesc a b s
  | .tsetd a b => Sys2Proof.Machine.execTsetd a b s
  | .mzero a b => Sys2Proof.Machine.execMzero a b s
  | .mhfa a b c d e f g => Sys2Proof.Machine.execMhfa a b c d e f g s
  | .mbmm a b c d e f => Sys2Proof.Machine.execMbmm a b c d e f s
  | .msca a b c => Sys2Proof.Machine.execMsca a b c s
  | .mhad a b c => Sys2Proof.Machine.execMhad a b c s
  | .mdrn a b c d => Sys2Proof.Machine.execMdrn a b c d s
  | .mcvt a b c d => Sys2Proof.Machine.execMcvt a b c d s
  | .madd a b c d => Sys2Proof.Machine.execMadd a b c d s
  | .mscl a b c d => Sys2Proof.Machine.execMscl a b c d s
  | .msetd a b => Sys2Proof.Machine.execMsetd a b s
  | .cnop => Sys2Proof.Machine.execCnop s
  | .sadd a b c => Sys2Proof.Machine.execSadd a b c s
  | .ssub a b c => Sys2Proof.Machine.execSsub a b c s
  | .smul a b c => Sys2Proof.Machine.execSmul a b c s
  | .smulh a b c d => Sys2Proof.Machine.execSmulh a b c d s
  | .sdiv a b c d => Sys2Proof.Machine.execSdiv a b c d s
  | .srem a b c d => Sys2Proof.Machine.execSrem a b c d s
  | .sand a b c => Sys2Proof.Machine.execSand a b c s
  | .sor a b c => Sys2Proof.Machine.execSor a b c s
  | .sxor a b c => Sys2Proof.Machine.execSxor a b c s
  | .sandn a b c => Sys2Proof.Machine.execSandn a b c s
  | .sshl a b c => Sys2Proof.Machine.execSshl a b c s
  | .sshr a b c => Sys2Proof.Machine.execSshr a b c s
  | .ssra a b c => Sys2Proof.Machine.execSsra a b c s
  | .smin a b c d => Sys2Proof.Machine.execSmin a b c d s
  | .smax a b c d => Sys2Proof.Machine.execSmax a b c d s
  | .scmp a b c d => Sys2Proof.Machine.execScmp a b c d s
  | .ssel a b c d => Sys2Proof.Machine.execSsel a b c d s
  | .spopc a b => Sys2Proof.Machine.execSpopc a b s
  | .sclz a b => Sys2Proof.Machine.execSclz a b s
  | .sctz a b => Sys2Proof.Machine.execSctz a b s
  | .sbfx a b c d => Sys2Proof.Machine.execSbfx a b c d s
  | .sbfi a b c d => Sys2Proof.Machine.execSbfi a b c d s
  | .saddi a b c => Sys2Proof.Machine.execSaddi a b c s
  | .sandi a b c => Sys2Proof.Machine.execSandi a b c s
  | .sori a b c => Sys2Proof.Machine.execSori a b c s
  | .sxori a b c => Sys2Proof.Machine.execSxori a b c s
  | .sli a b => Sys2Proof.Machine.execSli a b s
  | .slih a b c => Sys2Proof.Machine.execSlih a b c s
  | .sshli a b c => Sys2Proof.Machine.execSshli a b c s
  | .sshri a b c d => Sys2Proof.Machine.execSshri a b c d s
  | .sget a b => Sys2Proof.Machine.execSget a b s
  | .sset a b => Sys2Proof.Machine.execSset a b s
  | .emset a => Sys2Proof.Machine.execEmset a s
  | .emand a b => Sys2Proof.Machine.execEmand a b s
  | .emget a => Sys2Proof.Machine.execEmget a s
  | .exit a => Sys2Proof.Machine.execExit a s
  | .br a => Sys2Proof.Machine.execBr a s
  | .bc a b c => Sys2Proof.Machine.execBc a b c s
  | .bzm a => Sys2Proof.Machine.execBzm a s
  | .jr a b => Sys2Proof.Machine.execJr a b s
  | .call a b => Sys2Proof.Machine.execCall a b s
  | .callr a b c => Sys2Proof.Machine.execCallr a b c s
  | .ret a => Sys2Proof.Machine.execRet a s
  | .lpad a => Sys2Proof.Machine.execLpad a s
  | .loop a b c => Sys2Proof.Machine.execLoop a b c s
  | .loopi a b c => Sys2Proof.Machine.execLoopi a b c s
  | .loopx a => Sys2Proof.Machine.execLoopx a s
  | .waitf a => Sys2Proof.Machine.execWaitf a s
  | .yield => Sys2Proof.Machine.execYield s
  | .bjoin a b => Sys2Proof.Machine.execBjoin a b s
  | .bleave a b => Sys2Proof.Machine.execBleave a b s
  | .barv a b => Sys2Proof.Machine.execBarv a b s
  | .bwait a b => Sys2Proof.Machine.execBwait a b s
  | .bsync a b => Sys2Proof.Machine.execBsync a b s
  | .sent => Sys2Proof.Machine.execSent s
  | .sentClose => Sys2Proof.Machine.execSentClose s
  | .step a => Sys2Proof.Machine.execStep a s
  | .trap a => Sys2Proof.Machine.execTrap a s
  | .rft => Sys2Proof.Machine.execRft s
  | .tfrd a b c => Sys2Proof.Machine.execTfrd a b c s
  | .tfwr a b c => Sys2Proof.Machine.execTfwr a b c s
  | .brk a => Sys2Proof.Machine.execBrk a s
  | .haltw => Sys2Proof.Machine.execHaltw s
  | .bundleIssue a => Sys2Proof.Machine.execBundleIssue a s
  | .resultWriteback a => Sys2Proof.Machine.execResultWriteback a s
  | .asyncResultWrite a b => Sys2Proof.Machine.execAsyncResultWrite a b s
  | .accessComplete a b => Sys2Proof.Machine.execAccessComplete a b s
  | .trapDelivery a => Sys2Proof.Machine.execTrapDelivery a s
  | .sentenceRestart a => Sys2Proof.Machine.execSentenceRestart a s
  | .lockstepDisagreement a => Sys2Proof.Machine.execLockstepDisagreement a s
  | .warpSwitch a => Sys2Proof.Machine.execWarpSwitch a s
  | .quantumExpiry a => Sys2Proof.Machine.execQuantumExpiry a s
  | .holdtmo a => Sys2Proof.Machine.execHoldtmo a s
  | .waitfWake a => Sys2Proof.Machine.execWaitfWake a s
  | .barrierRelease a b => Sys2Proof.Machine.execBarrierRelease a b s
  | .fifoOpResume a => Sys2Proof.Machine.execFifoOpResume a s
  | .phaseDrainEnd a => Sys2Proof.Machine.execPhaseDrainEnd a s
  | .warpResourceRelease a => Sys2Proof.Machine.execWarpResourceRelease a s
  | .slotClearDone a b => Sys2Proof.Machine.execSlotClearDone a b s
  | .vtwrCommit a => Sys2Proof.Machine.execVtwrCommit a s
  | .matrixEntryStart a => Sys2Proof.Machine.execMatrixEntryStart a s
  | .mbmmPassEnd a b => Sys2Proof.Machine.execMbmmPassEnd a b s
  | .matrixEntryFinish a b => Sys2Proof.Machine.execMatrixEntryFinish a b s
  | .copyComplete a b => Sys2Proof.Machine.execCopyComplete a b s
  | .copySuspend a b => Sys2Proof.Machine.execCopySuspend a b s
  | .cpypFlitArrival a b => Sys2Proof.Machine.execCpypFlitArrival a b s
  | .signalRecordAppend a b => Sys2Proof.Machine.execSignalRecordAppend a b s
  | .lineRequest a b => Sys2Proof.Machine.execLineRequest a b s
  | .l2Atomic a b => Sys2Proof.Machine.execL2Atomic a b s
  | .pinRetryReplay a => Sys2Proof.Machine.execPinRetryReplay a s
  | .pinTimeout a => Sys2Proof.Machine.execPinTimeout a s
  | .l2Writeback a => Sys2Proof.Machine.execL2Writeback a s
  | .eccWriteback a => Sys2Proof.Machine.execEccWriteback a s
  | .scrub a => Sys2Proof.Machine.execScrub a s
  | .heartbeatReceived a => Sys2Proof.Machine.execHeartbeatReceived a s
  | .heartbeatMiss a => Sys2Proof.Machine.execHeartbeatMiss a s
  | .stackFailed a => Sys2Proof.Machine.execStackFailed a s
  | .stackRetrainDone a => Sys2Proof.Machine.execStackRetrainDone a s
  | .tlbWalkStart a b c => Sys2Proof.Machine.execTlbWalkStart a b c s
  | .walkComplete a b c => Sys2Proof.Machine.execWalkComplete a b c s
  | .tierPromote a b => Sys2Proof.Machine.execTierPromote a b s
  | .migrationComplete a b => Sys2Proof.Machine.execMigrationComplete a b s
  | .migrationNodeFailure a b => Sys2Proof.Machine.execMigrationNodeFailure a b s
  | .wcAgeDrain a b => Sys2Proof.Machine.execWcAgeDrain a b s
  | .linkTrain a b => Sys2Proof.Machine.execLinkTrain a b s
  | .laneStateChange a b => Sys2Proof.Machine.execLaneStateChange a b s
  | .laneRetire a => Sys2Proof.Machine.execLaneRetire a s
  | .pathDown a => Sys2Proof.Machine.execPathDown a s
  | .retransmit a => Sys2Proof.Machine.execRetransmit a s
  | .remoteRequestArrival a => Sys2Proof.Machine.execRemoteRequestArrival a s
  | .streamResume a => Sys2Proof.Machine.execStreamResume a s
  | .streamAbort a => Sys2Proof.Machine.execStreamAbort a s
  | .remoteReply a b => Sys2Proof.Machine.execRemoteReply a b s
  | .drcExpire a => Sys2Proof.Machine.execDrcExpire a s
  | .waveStart a => Sys2Proof.Machine.execWaveStart a s
  | .waveEnd a b c => Sys2Proof.Machine.execWaveEnd a b c s
  | .qtmoExpiry a b => Sys2Proof.Machine.execQtmoExpiry a b s
  | .participantTimeout a b => Sys2Proof.Machine.execParticipantTimeout a b s
  | .nodeFailure a => Sys2Proof.Machine.execNodeFailure a s
  | .gangPlace a b => Sys2Proof.Machine.execGangPlace a b s
  | .launchComplete a => Sys2Proof.Machine.execLaunchComplete a s
  | .watchdogExpiry a => Sys2Proof.Machine.execWatchdogExpiry a s
  | .stubRedirect a b c => Sys2Proof.Machine.execStubRedirect a b c s
  | .powerOn a => Sys2Proof.Machine.execPowerOn a s
  | .inputDisconnect a => Sys2Proof.Machine.execInputDisconnect a s
  | .railSample a b => Sys2Proof.Machine.execRailSample a b s
  | .fluxEstimate a b c => Sys2Proof.Machine.execFluxEstimate a b c s
  | .backstop a => Sys2Proof.Machine.execBackstop a s
  | .caddyExtInterrupt a => Sys2Proof.Machine.execCaddyExtInterrupt a s
  | .caddyTimerInterrupt a => Sys2Proof.Machine.execCaddyTimerInterrupt a s
  | .alertClear a b => Sys2Proof.Machine.execAlertClear a b s
  | .throtWrite a b c => Sys2Proof.Machine.execThrotWrite a b c s
  | .capfluxWrite a b => Sys2Proof.Machine.execCapfluxWrite a b s
  | .pcapWrite a b => Sys2Proof.Machine.execPcapWrite a b s
  | .powerRegWrite a b c => Sys2Proof.Machine.execPowerRegWrite a b c s
  | .otherDatagram a => Sys2Proof.Machine.execOtherDatagram a s
  | .session a => Sys2Proof.Machine.execSession a s
  | .ctxnew a b c => Sys2Proof.Machine.execCtxnew a b c s
  | .ctxend a b => Sys2Proof.Machine.execCtxend a b s
  | .map a b c => Sys2Proof.Machine.execMap a b c s
  | .unmap a b c d e => Sys2Proof.Machine.execUnmap a b c d e s
  | .write a b c d => Sys2Proof.Machine.execWrite a b c d s
  | .read a b c d => Sys2Proof.Machine.execRead a b c d s
  | .modload a b c => Sys2Proof.Machine.execModload a b c s
  | .hostLaunch a b c => Sys2Proof.Machine.execHostLaunch a b c s
  | .queueCreate a b c d e => Sys2Proof.Machine.execQueueCreate a b c d e s
  | .queueBind a b c => Sys2Proof.Machine.execQueueBind a b c s
  | .queueEnd a b => Sys2Proof.Machine.execQueueEnd a b s
  | .queueSet a b c d e => Sys2Proof.Machine.execQueueSet a b c d e s
  | .part a b => Sys2Proof.Machine.execPart a b s
  | .preempt a b => Sys2Proof.Machine.execPreempt a b s
  | .resume a b c => Sys2Proof.Machine.execResume a b c s
  | .reset a b => Sys2Proof.Machine.execReset a b s
  | .qfix a b c => Sys2Proof.Machine.execQfix a b c s
  | .stackcfg a b c => Sys2Proof.Machine.execStackcfg a b c s
  | .window a b c d e f => Sys2Proof.Machine.execWindow a b c d e f s
  | .telem a b => Sys2Proof.Machine.execTelem a b s
  | .attest a b => Sys2Proof.Machine.execAttest a b s
  | .power a b c d => Sys2Proof.Machine.execPower a b c d s
  | .fjodyDebug a b => Sys2Proof.Machine.execFjodyDebug a b s
  | .landingPadCheck a => Sys2Proof.Machine.execLandingPadCheck a s
  | .inflightReplay a => Sys2Proof.Machine.execInflightReplay a s
  | .refreshHandBack a => Sys2Proof.Machine.execRefreshHandBack a s
  | .registerParticipantSet a b => Sys2Proof.Machine.execRegisterParticipantSet a b s
  | .softError a => Sys2Proof.Machine.execSoftError a s

end Sys2Proof.Machine
end

