-- ==== Sys2Proof/Machine/EvCaddy.lean ====
section
/-! DEFINITION. A Caddy core as it executes its instructions (spec 00 R2; 27 R414, R416): RV64IMAC in machine mode. The spec names the
instruction set and does not define it; this is RISC-V's (assumption log 61). What lies in Caddy's memory is its firmware, of which
the spec prints one handler (assumption log 7). -/

namespace Sys2Proof.Machine
open Sys2Proof.Num

/-! ## Registers -/

def Caddy.rx (c : Caddy) (r : Nat) : Word := if r = 0 then 0 else tget 0 c.x r
def Caddy.wx (c : Caddy) (r : Nat) (v : Word) : Caddy := if r = 0 then c else { c with x := tset 0 c.x r v }

/-- An instruction's result in a register, and the next address. -/
def DieP.retire (p : DieP) (rd : Nat) (v pc : Word) : DieP := { p with caddy := { p.caddy.wx rd v with pc := pc } }

/-- An exception taken in direct mode: its cause and mtval. -/
def DieP.except (p : DieP) (cause : Nat) (tval : Word) : DieP :=
  let c := p.caddy
  { p with
    caddy := { c with mepc := c.pc, mcause := BitVec.ofNat 64 cause, mtval := tval, mpie := c.mieBit, mieBit := false, pc := c.mtvec &&& ~~~3 } }

/-- Causes: fetch fault, illegal instruction, breakpoint, misaligned and faulting load, the same of a store or an AMO, ECALL. -/
def rvFetchFault : Nat := 1
def rvIllegal : Nat := 2
def rvBreak : Nat := 3
def rvLoadAlign : Nat := 4
def rvLoadFault : Nat := 5
def rvStoreAlign : Nat := 6
def rvStoreFault : Nat := 7
def rvEcall : Nat := 11

/-- The control and status registers by address; none for another. mip shows the two interrupts of 27 R414; mhartid is the die's number. -/
def DieP.csr (p : DieP) (die n : Nat) : Option Word :=
  let c := p.caddy
  match n with
  | 0x300 => some (BitVec.ofNat 64 (0x1800 + c.mieBit.toNat * 8 + c.mpie.toNat * 128))
  | 0x301 => some 0x8000000000001105
  | 0x304 => some c.mie
  | 0x305 => some c.mtvec
  | 0x340 => some c.mscratch
  | 0x341 => some c.mepc
  | 0x342 => some c.mcause
  | 0x343 => some c.mtval
  | 0x344 => some (BitVec.ofNat 64 ((decide (p.tcmp ≤ p.usec)).toNat * 128 + (p.alert &&& p.alerten != 0).toNat * 2048))
  | 0xF11 | 0xF12 | 0xF13 => some 0
  | 0xF14 => some (BitVec.ofNat 64 die)
  | _ => none

/-- Such a register written; misa and mip keep their values. -/
def Caddy.setCsr (c : Caddy) (n : Nat) (v : Word) : Caddy :=
  match n with
  | 0x300 => { c with mieBit := v.getLsbD 3, mpie := v.getLsbD 7 }
  | 0x304 => { c with mie := v &&& 0x888 }
  | 0x305 => { c with mtvec := v &&& ~~~3 }
  | 0x340 => { c with mscratch := v }
  | 0x341 => { c with mepc := v &&& ~~~1 }
  | 0x342 => { c with mcause := v }
  | 0x343 => { c with mtval := v }
  | _ => c

/-! ## Memory (27 R414) -/

/-- Does an access of n bytes meet the window of power registers? -/
def inWindow (a n : Nat) : Bool := decide (0x10000000 < a + n) && decide (a < 0x10001000)

/-- A register of the window (21 Table 21.4; 27 Table 27.1). -/
def DieP.readReg (p : DieP) (off : Nat) : Nat :=
  match off with
  | 0x00 => p.flux
  | 0x08 => p.pwr
  | 0x10 => p.capflux
  | 0x18 => p.pcap
  | 0x20 => p.alert.toNat
  | 0x28 => p.alerten.toNat
  | 0x30 => p.usec
  | 0x38 => p.tcmp
  | _ => if 0x40 ≤ off && off < 0xC0 && off % 8 == 0 then tget 0 p.throt ((off - 0x40) / 8) else 0

/-- n bytes loaded; none where the access faults: in the window, unless it is an aligned 64-bit load. DESIGN CHOICE, log 61: every other address
is memory, since the spec gives Caddy's no extent, and a plain load or store there may be misaligned.
-/
def DieP.load (p : DieP) (a n : Nat) : Option Nat :=
  if inWindow a n then (if n = 8 && a % 8 == 0 then some (p.readReg (a - 0x10000000)) else none) else some (leNat (tgets 0 p.cmem a n))

/-- n bytes stored; the same DESIGN CHOICE. -/
def DieP.store (p : DieP) (a n : Nat) (v : Word) : Option DieP :=
  if inWindow a n then (if n = 8 && a % 8 == 0 then some (p.writeReg (a - 0x10000000) v) else none)
  else some { p with cmem := tsets 0 p.cmem ((leBytes n v.toNat).zipIdx.map fun q => (a + q.2, q.1)) }

/-! ## Arithmetic -/

/-- The low n bits of a number, sign-extended. -/
def sx (n x : Nat) : Word := BitVec.ofInt 64 (sval n (x % 2 ^ n))

/-- A quotient towards zero, and its remainder, of n-bit operands: by zero all ones, and the dividend; the overflow wraps. -/
def rvDiv (n : Nat) (signed : Bool) (a b : Nat) : Nat :=
  if b = 0 then 2 ^ n - 1
  else if signed then ((Int.tdiv (sval n a) (sval n b)) % 2 ^ n).toNat else a / b
def rvRem (n : Nat) (signed : Bool) (a b : Nat) : Nat :=
  if b = 0 then a
  else if signed then ((Int.tmod (sval n a) (sval n b)) % 2 ^ n).toNat else a % b

/-- OP and OP-IMM on n bits, 32 or 64: f3 and f7. -/
def rvAlu (n f3 f7 a b : Nat) : Option Nat :=
  let sh := b % n
  match f7, f3 with
  | 0x00, 0 => some ((a + b) % 2 ^ n)
  | 0x20, 0 => some ((a + 2 ^ n - b) % 2 ^ n)
  | 0x00, 1 => some (a * 2 ^ sh % 2 ^ n)
  | 0x00, 5 => some (a / 2 ^ sh)
  | 0x20, 5 => some ((sval n a / 2 ^ sh) % 2 ^ n).toNat
  | 0x01, 0 => some (a * b % 2 ^ n)
  | 0x01, 4 => some (rvDiv n true a b)
  | 0x01, 5 => some (rvDiv n false a b)
  | 0x01, 6 => some (rvRem n true a b)
  | 0x01, 7 => some (rvRem n false a b)
  | _, _ =>
    if n = 32 then none
    else match f7, f3 with
      | 0x00, 2 => some (decide (sval n a < sval n b)).toNat
      | 0x00, 3 => some (decide (a < b)).toNat
      | 0x00, 4 => some (Nat.xor a b)
      | 0x00, 6 => some (Nat.lor a b)
      | 0x00, 7 => some (Nat.land a b)
      | 0x01, 1 => some ((sval n a * sval n b / 2 ^ n) % 2 ^ n).toNat
      | 0x01, 2 => some ((sval n a * b / 2 ^ n) % 2 ^ n).toNat
      | 0x01, 3 => some (a * b / 2 ^ n)
      | _, _ => none

/-- Is a branch taken? -/
def rvBranch (f3 : Nat) (a b : Word) : Option Bool :=
  match f3 with
  | 0 => some (a == b)
  | 1 => some (a != b)
  | 4 => some (a.slt b)
  | 5 => some (!a.slt b)
  | 6 => some (a.ult b)
  | 7 => some (!a.ult b)
  | _ => none

/-- What an AMO stores, of n bits. -/
def rvAmo (n f5 old x : Nat) : Option Nat :=
  match f5 with
  | 0x00 => some ((old + x) % 2 ^ n)
  | 0x01 => some x
  | 0x04 => some (Nat.xor old x)
  | 0x08 => some (Nat.lor old x)
  | 0x0C => some (Nat.land old x)
  | 0x10 => some (if sval n old ≤ sval n x then old else x)
  | 0x14 => some (if sval n x ≤ sval n old then old else x)
  | 0x18 => some (min old x)
  | 0x1C => some (max old x)
  | _ => none

/-! ## Immediates -/

def immI (w : Nat) : Word := sx 12 (w / 2 ^ 20)
def immS (w : Nat) : Word := sx 12 (w / 2 ^ 25 * 32 + w / 128 % 32)
def immB (w : Nat) : Word := sx 13 (w / 2 ^ 31 * 4096 + w / 128 % 2 * 2048 + w / 2 ^ 25 % 64 * 32 + w / 256 % 16 * 2)
def immU (w : Nat) : Word := sx 32 (w / 4096 * 4096)
def immJ (w : Nat) : Word := sx 21 (w / 2 ^ 31 * 2 ^ 20 + w / 4096 % 256 * 4096 + w / 2 ^ 20 % 2 * 2048 + w / 2 ^ 21 % 1024 * 2)

/-! ## Instructions of 32 bits -/

/-- LR, SC and the AMOs, of n bytes at an address: an access fault in the window (27 R414). -/
def DieP.atomic (p : DieP) (f5 n rd : Nat) (a b next : Word) : DieP :=
  let at_ := a.toNat
  if inWindow at_ n then p.except (if f5 = 2 then rvLoadFault else rvStoreFault) a
  else if at_ % n != 0 then p.except (if f5 = 2 then rvLoadAlign else rvStoreAlign) a
  else
    match f5, p.load at_ n with
    | 2, some v => let q := p.retire rd (sx (8 * n) v) next; { q with caddy := { q.caddy with resv := some at_ } }
    | 2, none => p.except rvLoadFault a
    | 3, _ =>
      if p.caddy.resv = some at_ then
        match p.store at_ n b with
        | some q => let r := q.retire rd 0 next; { r with caddy := { r.caddy with resv := none } }
        | none => p.except rvStoreFault a
      else let r := p.retire rd 1 next; { r with caddy := { r.caddy with resv := none } }
    | _, none => p.except rvStoreFault a
    | _, some v =>
      match rvAmo (8 * n) f5 v (b.toNat % 2 ^ (8 * n)) with
      | some x => ((p.store at_ n (BitVec.ofNat 64 x)).getD p).retire rd (sx (8 * n) v) next
      | none => p.except rvIllegal 0

/-- ECALL, EBREAK, MRET, WFI and the CSR instructions. -/
def DieP.system (p : DieP) (die w rd f3 rs1 : Nat) (next : Word) : DieP :=
  let c := p.caddy
  if f3 = 0 then
    match w with
    | 0x00000073 => p.except rvEcall 0
    | 0x00100073 => p.except rvBreak c.pc
    | 0x30200073 => { p with caddy := { c with pc := c.mepc, mieBit := c.mpie, mpie := true } }
    | 0x10500073 => p.retire 0 0 next
    | _ => p.except rvIllegal (BitVec.ofNat 64 w)
  else
    let n := w / 2 ^ 20
    let v := if f3 < 4 then c.rx rs1 else BitVec.ofNat 64 rs1
    match p.csr die n with
    | none => p.except rvIllegal (BitVec.ofNat 64 w)
    | some old =>
      let new := match f3 % 4 with
        | 1 => v
        | 2 => old ||| v
        | _ => old &&& ~~~v
      let writes := f3 % 4 == 1 || rs1 != 0
      if f3 = 4 || (writes && decide (0xC00 ≤ n)) then p.except rvIllegal (BitVec.ofNat 64 w)
      else { p with caddy := if writes then c.setCsr n new else c }.retire rd old next

/-- One instruction of 32 bits, the next one at `next`. -/
def DieP.exec32 (p : DieP) (die w : Nat) (next : Word) : DieP :=
  let c := p.caddy
  let rd := w / 128 % 32
  let f3 := w / 4096 % 8
  let rs1 := w / 2 ^ 15 % 32
  let a := c.rx rs1
  let b := c.rx (w / 2 ^ 20 % 32)
  let f7 := w / 2 ^ 25
  let bad := p.except rvIllegal (BitVec.ofNat 64 w)
  let put := fun (n : Nat) (r : Option Nat) => r.elim bad fun v => p.retire rd (sx n v) next
  match w % 128 with
  | 0x37 => p.retire rd (immU w) next
  | 0x17 => p.retire rd (c.pc + immU w) next
  | 0x6F => p.retire rd next (c.pc + immJ w)
  | 0x67 => if f3 = 0 then p.retire rd next ((a + immI w) &&& ~~~1) else bad
  | 0x63 => (rvBranch f3 a b).elim bad fun t => p.retire 0 0 (if t then c.pc + immB w else next)
  | 0x03 =>
    if f3 = 7 then bad
    else
      let n := 2 ^ (f3 % 4)
      match p.load (a + immI w).toNat n with
      | some v => p.retire rd (if f3 < 4 then sx (8 * n) v else BitVec.ofNat 64 v) next
      | none => p.except rvLoadFault (a + immI w)
  | 0x23 =>
    if 4 ≤ f3 then bad
    else
      match p.store (a + immS w).toNat (2 ^ f3) b with
      | some q => q.retire 0 0 next
      | none => p.except rvStoreFault (a + immS w)
  | 0x13 =>
    if f3 = 1 || f3 = 5 then
      (if f7 / 2 = 0 || (f3 = 5 && f7 / 2 = 16) then put 64 (rvAlu 64 f3 (f7 / 2 * 2) a.toNat (w / 2 ^ 20 % 64)) else bad)
    else put 64 (rvAlu 64 f3 0 a.toNat (immI w).toNat)
  | 0x1B =>
    if f3 = 0 then p.retire rd (sx 32 (a + immI w).toNat) next
    else if f3 = 1 || f3 = 5 then (if f7 = 0 || (f3 = 5 && f7 = 0x20) then put 32 (rvAlu 32 f3 f7 (a.toNat % 2 ^ 32) (w / 2 ^ 20 % 32)) else bad)
    else bad
  | 0x33 => put 64 (rvAlu 64 f3 f7 a.toNat b.toNat)
  | 0x3B => put 32 (rvAlu 32 f3 f7 (a.toNat % 2 ^ 32) (b.toNat % 2 ^ 32))
  | 0x0F => if f3 < 2 then p.retire 0 0 next else bad
  | 0x2F => if f3 = 2 || f3 = 3 then p.atomic (f7 / 4) (2 ^ f3) rd a b next else bad
  | 0x73 => p.system die w rd f3 rs1 next
  | _ => bad

/-! ## Compressed instructions, as the instructions that they stand for -/

def encI (op f3 rd rs1 imm : Nat) : Nat := op + rd * 128 + f3 * 4096 + rs1 * 2 ^ 15 + imm % 4096 * 2 ^ 20
def encR (op f3 f7 rd rs1 rs2 : Nat) : Nat := op + rd * 128 + f3 * 4096 + rs1 * 2 ^ 15 + rs2 * 2 ^ 20 + f7 * 2 ^ 25
def encS (f3 rs1 rs2 imm : Nat) : Nat := 0x23 + imm % 32 * 128 + f3 * 4096 + rs1 * 2 ^ 15 + rs2 * 2 ^ 20 + imm / 32 % 128 * 2 ^ 25
def encB (f3 rs1 imm : Nat) : Nat :=
  0x63 + imm / 2048 % 2 * 128 + imm / 2 % 16 * 256 + f3 * 4096 + rs1 * 2 ^ 15 + imm / 32 % 64 * 2 ^ 25 + imm / 4096 % 2 * 2 ^ 31
def encJ (rd imm : Nat) : Nat :=
  0x6F + rd * 128 + imm / 4096 % 256 * 4096 + imm / 2048 % 2 * 2 ^ 20 + imm / 2 % 1024 * 2 ^ 21 + imm / 2 ^ 20 % 2 * 2 ^ 31

/-- The low n bits of a number sign-extended to 21. -/
def sx21 (n x : Nat) : Nat := (sx n x).toNat % 2 ^ 21

/-- Quadrant 0. -/
def expand0 (h : Nat) : Option Nat :=
  let b := fun (i n : Nat) => h / 2 ^ i % 2 ^ n
  let rd := 8 + b 2 3
  let rs := 8 + b 7 3
  let offW := b 6 1 * 4 + b 10 3 * 8 + b 5 1 * 64
  let offD := b 10 3 * 8 + b 5 2 * 64
  let imm := b 6 1 * 4 + b 5 1 * 8 + b 11 2 * 16 + b 7 4 * 64
  match b 13 3 with
  | 0 => if imm = 0 then none else some (encI 0x13 0 rd 2 imm)
  | 2 => some (encI 0x03 2 rd rs offW)
  | 3 => some (encI 0x03 3 rd rs offD)
  | 6 => some (encS 2 rs rd offW)
  | 7 => some (encS 3 rs rd offD)
  | _ => none

/-- The arithmetic of quadrant 1. -/
def expandAlu (h : Nat) : Option Nat :=
  let b := fun (i n : Nat) => h / 2 ^ i % 2 ^ n
  let rd := 8 + b 7 3
  let rs := 8 + b 2 3
  let sh := b 2 5 + b 12 1 * 32
  match b 10 2, b 12 1, b 5 2 with
  | 0, _, _ => some (encI 0x13 5 rd rd sh)
  | 1, _, _ => some (encI 0x13 5 rd rd (0x400 + sh))
  | 2, _, _ => some (encI 0x13 7 rd rd (sx21 6 sh))
  | _, 0, 0 => some (encR 0x33 0 0x20 rd rd rs)
  | _, 0, 1 => some (encR 0x33 4 0 rd rd rs)
  | _, 0, 2 => some (encR 0x33 6 0 rd rd rs)
  | _, 0, _ => some (encR 0x33 7 0 rd rd rs)
  | _, _, 0 => some (encR 0x3B 0 0x20 rd rd rs)
  | _, _, 1 => some (encR 0x3B 0 0 rd rd rs)
  | _, _, _ => none

/-- Quadrant 1. -/
def expand1 (h : Nat) : Option Nat :=
  let b := fun (i n : Nat) => h / 2 ^ i % 2 ^ n
  let rd := b 7 5
  let imm := sx21 6 (b 2 5 + b 12 1 * 32)
  let off16 := sx21 10 (b 6 1 * 16 + b 2 1 * 32 + b 5 1 * 64 + b 3 2 * 128 + b 12 1 * 512)
  let offJ := sx21 12 (b 3 3 * 2 + b 11 1 * 16 + b 2 1 * 32 + b 7 1 * 64 + b 6 1 * 128 + b 9 2 * 256 + b 8 1 * 1024 + b 12 1 * 2048)
  let offB := sx21 9 (b 3 2 * 2 + b 10 2 * 8 + b 2 1 * 32 + b 5 2 * 64 + b 12 1 * 256)
  match b 13 3 with
  | 0 => some (encI 0x13 0 rd rd imm)
  | 1 => if rd = 0 then none else some (encI 0x1B 0 rd rd imm)
  | 2 => some (encI 0x13 0 rd 0 imm)
  | 3 => if imm = 0 then none else if rd = 2 then some (encI 0x13 0 2 2 off16) else some (0x37 + rd * 128 + imm % 2 ^ 20 * 4096)
  | 4 => expandAlu h
  | 5 => some (encJ 0 offJ)
  | 6 => some (encB 0 (8 + b 7 3) offB)
  | _ => some (encB 1 (8 + b 7 3) offB)

/-- Quadrant 2. -/
def expand2 (h : Nat) : Option Nat :=
  let b := fun (i n : Nat) => h / 2 ^ i % 2 ^ n
  let rd := b 7 5
  let rs := b 2 5
  match b 13 3 with
  | 0 => some (encI 0x13 1 rd rd (rs + b 12 1 * 32))
  | 2 => if rd = 0 then none else some (encI 0x03 2 rd 2 (b 4 3 * 4 + b 12 1 * 32 + b 2 2 * 64))
  | 3 => if rd = 0 then none else some (encI 0x03 3 rd 2 (b 5 2 * 8 + b 12 1 * 32 + b 2 3 * 64))
  | 4 =>
    if b 12 1 = 0 then (if rs = 0 then (if rd = 0 then none else some (encI 0x67 0 0 rd 0)) else some (encR 0x33 0 0 rd 0 rs))
    else if rs = 0 then some (if rd = 0 then 0x00100073 else encI 0x67 0 1 rd 0)
    else some (encR 0x33 0 0 rd rd rs)
  | 6 => some (encS 2 2 rs (b 9 4 * 4 + b 7 2 * 64))
  | 7 => some (encS 3 2 rs (b 10 3 * 8 + b 7 3 * 64))
  | _ => none
def expandC (h : Nat) : Option Nat :=
  match h % 4 with
  | 0 => expand0 h
  | 1 => expand1 h
  | _ => expand2 h

/-! ## A step -/

/-- The instruction at pc executed. -/
def DieP.caddyExec (p : DieP) (die : Nat) : DieP :=
  let pc := p.caddy.pc
  if inWindow pc.toNat 2 then p.except rvFetchFault pc
  else
    let h := leNat (tgets 0 p.cmem pc.toNat 2)
    if h % 4 = 3 then
      (if inWindow pc.toNat 4 then p.except rvFetchFault (pc + 2) else p.exec32 die (leNat (tgets 0 p.cmem pc.toNat 4)) (pc + 4))
    else (expandC h).elim (p.except rvIllegal (BitVec.ofNat 64 h)) fun w => p.exec32 die w (pc + 2)

/-- An interrupt that is due is taken, the external one before the timer's, else the instruction at pc executes. -/
def DieP.caddyStep (die : Nat) (p : DieP) : DieP :=
  if p.alert &&& p.alerten != 0 && p.caddy.takes 11 then { p with caddy := p.caddy.take 11 }
  else if p.tcmp ≤ p.usec && p.caddy.takes 7 then { p with caddy := p.caddy.take 7 }
  else p.caddyExec die

/-- A step of a die's Caddy, where its firmware is known and so executes: log 7. A backstop that is due acts before (27 R415). -/
def State.caddy (s : State) (die : Nat) : Option State :=
  let p := s.dieAt die
  if p.overdue then some (s.onDie die DieP.backstop) else if p.runs then some (s.onDie die (DieP.caddyStep die)) else none

end Sys2Proof.Machine
end

