-- ==== Sys2Proof/Machine/Step.lean ====
section
/-! DEFINITION. One step: what comes next from outside, else, in turn, the running warp's next bundle, what the engines and the rest of the
machine can do of themselves, a host command that still executes, a step of each die's Caddy. Which of the machine's steps comes next the
spec leaves open wherever no rule orders two of them: `State.inbox` says it, and where it says nothing the order below stands
(assumption log 8). -/

namespace Sys2Proof.Machine

/-- The running warp in focus issues next: nothing holds it, and it does not wait. -/
def State.runs (s : State) : Bool := s.atIssue && s.core.hold.isNone && s.w.run == .ready

/-- The steps of an operation, of a copy, of a matrix entry. -/
def opSteps (n : Nat) (o : Op) : List Instr :=
  [.lineRequest n o.id, .l2Atomic n o.id, .asyncResultWrite n o.id, .accessComplete n o.id]
def copySteps (n : Nat) (c : Copy) : List Instr := [.copyComplete n c.id, .copySuspend n c.id]
def entrySteps (n : Nat) (e : MxEntry) : List Instr := [.mbmmPassEnd n e.id, .matrixEntryFinish n e.id]

/-- What a core could do of itself, in the order in which it is tried. -/
def coreSteps (c : CoreSt) : List Instr :=
  let n := c.no
  [.warpSwitch n, .vtwrCommit n] ++ (c.miss.map fun p => Instr.tlbWalkStart n p.1 p.2) ++ c.ops.flatMap (opSteps n) ++ c.copies.flatMap (copySteps n) ++ c.mxq.flatMap (entrySteps n) ++
  [.matrixEntryStart n] ++ (c.wcb.map fun e => Instr.wcAgeDrain n e.id) ++
  (c.slots.map fun p => Instr.slotClearDone n p.1)

/-- What reaches a FIFO from outside its core: flits, and then the records of signals (06 R118). -/
def State.arrivals (s : State) : List Instr :=
  (s.allCores.flatMap fun c => c.copies.map fun k => Instr.cpypFlitArrival c.no k.id) ++
  s.allCores.flatMap fun c => (List.range c.sigs.length).map fun k => Instr.signalRecordAppend c.no k

/-- What the machine could do of itself, in the order in which it is tried. -/
def State.options (s : State) : List Instr :=
  [.trapDelivery s.w.id, .sentenceRestart s.w.id] ++ ((s.allWarps.filter fun w => w.sigBad.isSome).map fun w => Instr.lockstepDisagreement w.id) ++ s.arrivals ++ (s.allWarps.map fun w => Instr.waitfWake w.id) ++
  (s.allCohorts.flatMap fun c => (c.bars.map fun p => Instr.barrierRelease c.cid p.1) ++ [.phaseDrainEnd c.cid]) ++ s.allCores.flatMap coreSteps ++
  (s.fab.tstreams.map fun t => Instr.streamResume t.st) ++ (s.xl.merge.map fun m => Instr.walkComplete m.die m.ctx m.va) ++ (s.mem.retryq.map fun r => Instr.pinRetryReplay r.line) ++
  (s.allWarps.map fun w => Instr.warpResourceRelease w.id) ++
  ((s.allCores.filter fun c => decide (s.core.no < c.no)) ++ s.allCores.filter fun c => decide (c.no ≤ s.core.no)).map fun c => Instr.bundleIssue c.no

/-- The machine with no warp and core 0 in focus: what does not depend on the focus, nor on whose turn it is. -/
def State.home (s : State) : State := { ((s.stashW.stashCo).pickCore 0) with turn := 0 }

/-- What an instruction does here, if it does more than move the focus. -/
def State.tries (s : State) (i : Instr) : Option (Host.Outcome State Fault Refusal) :=
  match exec i s with
  | .next t => if t.home = s.home then none else some (.next t)
  | o => some o

/-- Does the next bundle's fetch wait for memory that is away or pinned? -/
def State.fetchWaits (s : State) : Bool :=
  ((s.mem.stk.any fun p => p.2.retraining.isSome) || s.cores.any fun c => c.pins != []) && s.boundary.fetch == .wait

/-- The arrival of a record that waits and can enter its FIFO: it comes before a bundle of its cycle (06 R118, 08 R161). -/
def State.record (s : State) : Option (Host.Outcome State Fault Refusal) :=
  if s.allCores.any fun c => c.sigs.any fun g => g.wait != [] then s.arrivals.findSome? s.tries else none

/-- The host command that has arrived first goes on (21 R390); those behind it wait. -/
def State.goesOn (s : State) : Option (Host.Outcome State Fault Refusal) :=
  match s.host.cmds with
  | [] => none
  | i :: l =>
    match exec i (s.onHost fun h => { h with cmds := [] }) with
    | .next t =>
      let u := t.onHost fun h => { h with cmds := (if h.waits then [i] else []) ++ h.cmds ++ l, waits := false }
      if u.home = s.home then none else some (.next u)
    | o => some o

/-- What may take its turn: the running warp's next bundle, what the machine does of itself, a host command, the Caddys. -/
def State.taker (s : State) (n : Nat) : Option (Host.Outcome State Fault Refusal) :=
  match n with
  | 0 => if s.runs && !s.fetchWaits then some s.issueNext else none
  | 1 => s.options.findSome? s.tries
  | 2 => s.goesOn
  | n + 3 => (s.caddy n).map fun t => .next t

/-- The turn given on. -/
def turnTo (n : Nat) (o : Host.Outcome State Fault Refusal) : Host.Outcome State Fault Refusal :=
  match o with
  | .next t => .next { t with turn := n % 7 }
  | o => o

/-- The machine's own next step: the first from its turn on that does something. -/
def State.own (s : State) : Host.Outcome State Fault Refusal :=
  match s.record with
  | some o => o
  | none =>
    match (List.range 7).findSome? fun i => (s.taker ((s.turn + i) % 7)).map (turnTo (s.turn + i + 1)) with
    | some o => o
    | none => if s.atIssue then s.issueNext else .next s

/-- Does an instruction supply power? -/
def isPowerOn : Instr → Bool
  | .powerOn _ => true
  | _ => false

/-- A host command that has to wait stands behind those that have arrived before it. -/
def queueCmd (i : Instr) (o : Host.Outcome State Fault Refusal) : Host.Outcome State Fault Refusal :=
  match o with
  | .next t => .next (if t.host.waits then t.onHost fun h => { h with cmds := h.cmds ++ [i], waits := false } else t)
  | o => o

/-- One step. Without power only POWER_ON does anything (21 R395). -/
def step (s : State) : Host.Outcome State Fault Refusal :=
  match s.inbox with
  | i :: l => if s.host.powered || isPowerOn i then queueCmd i (exec i { s with inbox := l }) else .next { s with inbox := l }
  | [] => if s.host.powered then s.own else .next s

/-! ## A bundle placed for the next step -/

/-- The context, cohort and warp that stand for a launch where no warp is to issue: assumption log 13. -/
def probeCtx : Ctx :=
  { id := 1, root := none, stepc := 0, quota := 0, window := 1, tier := [], waits := 0, allocs := [], defers := [], kernels := [], code := [],
    given := [] }
def probeCohort : Cohort :=
  { Cohort.blank with cid := 2, ctx := 1, nwarps := 1, vregs := 64, banks := 1, ns := 1, ended := false }
def probeWarp (cycle : Nat) : Warp :=
  { Warp.blank with
    id := 3, cid := 2, ctx := 1, em := BitVec.allOnes 64, am := BitVec.allOnes 64, run := .ready, nextIssue := cycle + 1, pc := 0x10000 }

/-- A machine whose core 0 runs a warp: as it is, if the warp in focus is to issue. -/
def State.withWarp (s : State) : State :=
  if s.runs then s
  else
    let s1 := (s.stashW.stashCo).pickCore 0
    { s1 with
      w := probeWarp s1.core.cycle, co := probeCohort,
      core := { s1.core with running := some 3, hold := none, debugStop := false },
      xl := { s1.xl with ctxs := probeCtx :: s1.xl.ctxs.filter (·.id != 1) }, nextId := max 4 s1.nextId }

/-- The TLB entry that maps the page of the warp's next bundle, where its fetch has none: the page's own leaf, or one at physical address
0x40000. -/
def State.withPage (s : State) : State × Nat :=
  match s.xlate s.w.ctx s.w.pc.toNat [4], s.walkOf s.w.ctx s.w.pc.toNat, s.xlateMem s.w.ctx s.w.pc.toNat [4] with
  | .ok (.main pa) _, _, _ => (s, pa)
  | .miss, .leaf e sz, .ok (.main pa) _ =>
    (s.onCore fun c => c.putTlb { ctx := s.w.ctx, va := pageOf sz s.w.pc.toNat, sz := sz, leaf := BitVec.ofNat 64 e }, pa)
  | _, _, _ =>
    let p : Perm := { r := false, w := false, a := false, x := true }
    let t : TlbEnt := { ctx := s.w.ctx, va := pageOf .k64 s.w.pc.toNat, sz := .k64, leaf := BitVec.ofNat 64 (mkLeaf 0x40000 0 0 p false) }
    (s.onCore fun c => { c with tlb := t :: c.tlb }, 0x40000 + s.w.pc.toNat % 65536)

/-- s with the bundle whose low nbits bits are w, the others zero, where the next step fetches. -/
def State.withFetchWord (s : State) (nbits w : Nat) : State :=
  let s1 := { s with inbox := [], turn := 0, host := { s.host with powered := true } }.withWarp
  let r := s1.withPage
  (r.1.mapCores fun c => { c with pins := c.pins.filter fun p => p.line != r.2 / 128 || c.no == r.1.core.no }).onMem fun m => m.write none ((leBytes 32 (w % 2 ^ nbits)).zipIdx.map fun q => (r.2 + q.2, q.1))

end Sys2Proof.Machine
end

