-- ==== Sys2Proof/Safety.lean ====
section
/-! DEFINITION. The terms in which claims speak of a run: a warp at an undisturbed boundary, a bundle that its form
allows, the machine one bundle on, and the invariants of every step. -/

namespace Sys2Proof.Machine

/-! ## A bundle that nothing displaces -/

/-- The running warp in focus is at its issue cycle, and nothing stands at its boundary: it waits for nothing, owes no
landing-pad check, no cause and no restart is pending for it or on its way, it is not single-stepped, it has not just been restored, no
comparator is set on its core or on the other one of its pair, nothing is due, no word of its storage is in error, and the cores of a pair hold
the same (16 R315; 18 R353, R363, R365, R366; 19 R368 to R371). -/
def State.calm (s : State) : Bool :=
  s.atIssue && s.w.run == .ready && decide (s.w.nextIssue ≤ s.now) && s.settle == s && s.w.owed.isNone && s.w.restart == [] &&
  s.asyncCauses == [] && !(s.w.ss && !s.w.hm) && s.w.replay.isNone && s.w.bad == [] && s.w.soon == [] && s.w.sigBad.isNone && s.same &&
  s.core.pcCmp == [] && s.core.dataCmp == [] && s.twin.pcCmp == [] && s.twin.dataCmp == []

/-- A bundle that holds i alone keeps the rules of form: no limit of its ports is broken (02 R51), no reserved value stands
in it (02 R42), and it names no register that the kernel has not declared (02 R44). -/
def State.admits (s : State) (i : Instr) : Bool :=
  i.illop.isNone && portFaults ((oneBun i (slotOp i)).ports s.w) == [] && !overRegs s.w.nregs (portsOf s.w.zfBit i)

/-! ## The machine one bundle on -/

/-- A core that n cycles after this bundle has no hold in force, and has been throttled meanwhile (17 R348, Table 17.3). -/
def State.coreOn (s : State) (n : Nat) : CoreSt :=
  { s.core with hold := none, paused := none, miss := [], walked := [], want := [], held := s.core.held + s.throttle n }

/-- The warp w goes on at `next`, n cycles after this issue. -/
def State.going (s : State) (w : Warp) (next : Word) (n : Nat) : State :=
  { s with w := { w with pc := next, nextIssue := s.now + n, lastIssue := s.now + 1 }, core := s.coreOn n, iss := Issue.idle }

/-- What is due by then is done as well (02 R40, R47). -/
def State.goOn (s : State) (w : Warp) (next : Word) (n : Nat) : State := (s.going w next n).advance (s.now + n)

/-- What a bundle of gap 0 leaves that transfers no control and does nothing: the loop-end action, and the next bundle a
cycle on (02 R40, 16 R317). -/
def State.stepOn (s : State) : State := s.goOn (s.w.loopEnd s.w.pc).1 ((s.w.loopEnd s.w.pc).2.getD (s.w.pc + 32)) 1

/-- What a taken transfer to t of gap 0 leaves: the loops that t lies outside of are left, and the next bundle is three
cycles on (16 R313, R318). -/
def State.jumpTo (s : State) (t : Word) : State := s.goOn (s.w.leaveLoops t) t 3

/-- A result put in flight, to be written at the start of cycle f.due (02 R47). -/
def State.fly (s : State) (f : Flight) : State := s.onW fun w => { w with fly := insFly f w.fly }

/-- The results of a V instruction (11 R209, R210): v[d] unless wbs is set, latch xn where le is set, over the lanes of m, at
cycle `due`; none where m is empty. -/
def vFlights (due : Nat) (d : Dst) (m : Mask) (l : Lanes) : List Flight :=
  if m = 0 then []
  else
    (if d.wbs then [] else [{ due := due, dst := .v d.reg.val, mask := m, lanes := l, word := 0 }]) ++
    (if d.le then [{ due := due, dst := .x d.xn.val, mask := m, lanes := l, word := 0 }] else [])

/-- A scalar result at cycle `due`; s0 discards it (02 R43). -/
def sFlights (due : Nat) (d : Reg) (x : Word) : List Flight :=
  if d.val = 0 then [] else [{ due := due, dst := .s d.val, mask := 0, lanes := [], word := x }]

/-- Results put in flight, in order. -/
def State.flyAll (s : State) (l : List Flight) : State := l.foldl State.fly s

/-- A V result of latency L over the lanes of m, f giving each lane its value (11 R209, R210). -/
def State.vOut (s : State) (L : Nat) (d : Dst) (m : Mask) (f : Nat → LaneVal) : State :=
  s.flyAll (vFlights (s.now + L) d m (overMask m f))

/-- The same of an instruction that raises flags: each lane's value and flags (01 R26). -/
def State.vfOut (s : State) (L : Nat) (d : Dst) (m : Mask) (f : Nat → LaneVal × Nat) : State :=
  (s.vOut L d m fun l => (f l).1).raise ((List.range 64).foldl (fun a l => if m.getLsbD l then a ||| (f l).2 else a) 0)

/-- A scalar result of a V instruction: none with wbs (02 R52, 11 R220). -/
def State.sOut (s : State) (L : Nat) (d : Dst) (x : Word) : State :=
  s.flyAll (if d.wbs then [] else sFlights (s.now + L) d.reg x)

/-- A scalar result of latency 1, written as the next bundle issues. -/
def State.sNext (s : State) (d : Reg) (x : Word) : State := s.stepOn.onW fun w => w.wrS d.val x

/-- A division's hold of n cycles (16 R307), a number that the machine takes from its free values. -/
def State.divided (s : State) (n : Nat) : State :=
  { (s.onCore fun c => { c with held := c.held + n }) with freeCtr := s.freeCtr + 1 }

/-- A barrier wait (16 R322 to R324): the warp goes on, or waits for the phase unless that is over as its next bundle would issue; when it
goes on from a phase that it arrived in, it comes after that phase's releases. -/
def State.waitAt (s : State) (b : Nat) : State :=
  match (s.barAt b).waitFor s.w.warpIdx s.now with
  | some p =>
    if (s.barAt b).over p (s.now + 1) then s.stepOn.onW fun w => { s.synced (s.barAt b) w with run := .ready }
    else s.stepOn.onW fun w => { w with run := .waitB b p }
  | none => if (s.barAt b).last.contains s.w.warpIdx then s.stepOn.onW (s.synced (s.barAt b)) else s.stepOn

/-- The trap that the one bundle under issue takes: cause, detail, slots, frame words 2 and 3 (18 R353 to R357). -/
def State.trapNow (s : State) (code detail slots : Nat) (w2 w3 : Word) : State :=
  s.unhold.takeTrap
    { code := code, detail := detail, w0 := s.w.pc, w2 := w2, w3 := w3, slots := slots } 0 none

/-- An access of n bytes at va is aligned, translated and permitted (08 R143). -/
def State.canReach (s : State) (n : Nat) (need : Need) (va : Word) : Prop :=
  va.toNat % n = 0 ∧ ∃ pl b, s.xlate s.w.ctx va.toNat need = .ok pl b

/-- A global access issued: its flag counted, and an operation of its core with its lanes; one without a lane only counts
its flag (08 R144, R149). -/
def State.issues (s : State) (kind : OpKind) (k : MHead) (f : Option FlagNo) (w : Width) (need : Need) (l : List LaneAt)
    (a b : Nat → Nat) : State :=
  if l = [] then (if f.isSome then (s.flagUp f).addOp (s.newOp .empty k.cls.val k.sc f w []) else s)
  else ((s.flagUp f).fillLanes l).addOp (s.newOp kind k.cls.val k.sc f w (l.filterMap (laneAcc s need a b)))

/-- The line of an aligned address, whose page stands in the core's TLB and which R lets the context read, stands in the cohort's L1
(06 R114, 08 R150). -/
def State.l1Hit (s : State) (n : Nat) (va : Word) : Prop :=
  va.toNat % n = 0 ∧ (hitTlb s.core.tlb s.w.ctx va.toNat).isSome = true ∧ ∃ pa b, s.xlate s.w.ctx va.toNat [1] = .ok (.main pa) b ∧ (s.co.l1Line (pa / 128)).isSome = true

/-- What the L1's copy of the line holds at an address. -/
def State.l1Value (s : State) (n : Nat) (va : Word) : Nat :=
  match s.mainAt va.toNat with
  | some pa => leNat ((((s.co.l1Line (pa / 128)).getD []).drop (pa % 128)).take n)
  | none => 0

/-- The instruction, alone in its bundle, runs at an undisturbed boundary of s, and the machine is then t. -/
def State.runsTo (s : State) (i : Instr) (t : State) : Prop := s.calm = true → s.admits i = true → exec i s = .next t

/-- Another count of the flag, if one is named, does not pass 63 (02 R46). -/
def State.flagRoom (s : State) (f : Option FlagNo) : Prop := ∀ k ∈ f, s.w.rdFlag k.val < 63

/-! ## Fjody's commands -/

/-- The session and the number of a command and its operation number (21 Table 21.2); SESSION, which any host may send, and
what is no command have none. -/
def cmdHdr (i : Instr) : Option (Hdr × Nat) :=
  match i with
  | .ctxnew k _ _ => some (k, 2)
  | .ctxend k _ => some (k, 3)
  | .map k _ _ => some (k, 4)
  | .unmap k _ _ _ _ => some (k, 5)
  | .write k _ _ _ => some (k, 6)
  | .read k _ _ _ => some (k, 7)
  | .modload k _ _ => some (k, 8)
  | .hostLaunch k _ _ => some (k, 9)
  | .queueCreate k _ _ _ _ => some (k, 10)
  | .queueBind k _ _ => some (k, 10)
  | .queueEnd k _ => some (k, 10)
  | .queueSet k _ _ _ _ => some (k, 10)
  | .part k _ => some (k, 11)
  | .preempt k _ => some (k, 12)
  | .resume k _ _ => some (k, 13)
  | .reset k _ => some (k, 14)
  | .qfix k _ _ => some (k, 15)
  | .stackcfg k _ _ => some (k, 16)
  | .window k _ _ _ _ _ => some (k, 17)
  | .telem k _ => some (k, 18)
  | .attest k _ => some (k, 19)
  | .power k _ _ _ => some (k, 20)
  | .fjodyDebug k _ => some (k, 21)
  | _ => none

/-- The bytes of content that a command brings, as its header has to count them; more than one can count for a set that no QFIX holds. -/
def cmdContent (i : Instr) : Nat :=
  match i with
  | .write _ _ _ data => data.length
  | .modload _ _ m => m.image.length
  | .hostLaunch _ _ b => 64 * b.recs.length
  | .qfix _ _ r => if r.set.any fun l => decide (64 < l.length) then 8929 else 0
  | _ => 0

/-- The next command of the session, with a header as Table 21.1 has it, at a module that is powered and runs Fjody's firmware, where
no other command executes (21 R389, R390, R394). -/
def State.takes (s : State) (k : Hdr) : Prop :=
  s.host.powered = true ∧ hdrGood k 0 = true ∧ s.host.cmds = [] ∧ s.host.session = some (k.session, k.src) ∧
    k.seq = s.host.lastSeq + 1 ∧ s.host.romOnly = false

/-- Between s and t the command's completion was sent and stored, with its status and what it returns (21 R389, R390, R392). -/
def State.completed (s t : State) (k : Hdr) (op : Nat) (st : Status) (data : List Byte) : Prop :=
  ∃ c : Completion, c.op = op ∧ c.seq = k.seq ∧ c.session = k.session ∧ c.status = st ∧ c.data = data ∧
    t.host.done = s.host.done ++ [c] ∧ t.host.recent = (c :: s.host.recent).take 64 ∧ t.host.lastSeq = k.seq

/-- The L2's sectors stand in their canonical form, and the stacks' bytes. -/
def MemSt.neat (m : MemSt) : Prop :=
  tok Config.freshByte m.bytes = true ∧ tok Sector.absent m.l2 = true ∧ ∀ p ∈ m.l2, tok none p.2.bytes = true

/-! ## Destinations -/

/-- The scalar register that a scalar instruction of the C slot writes (16 R304 to R311). -/
def scalarDest (i : Instr) : Option Reg :=
  match i with
  | .sadd d _ _ => some d
  | .ssub d _ _ => some d
  | .smul d _ _ => some d
  | .smulh d _ _ _ => some d
  | .sdiv d _ _ _ => some d
  | .srem d _ _ _ => some d
  | .sand d _ _ => some d
  | .sor d _ _ => some d
  | .sxor d _ _ => some d
  | .sandn d _ _ => some d
  | .sshl d _ _ => some d
  | .sshr d _ _ => some d
  | .ssra d _ _ => some d
  | .smin d _ _ _ => some d
  | .smax d _ _ _ => some d
  | .scmp _ d _ _ => some d
  | .ssel d _ _ _ => some d
  | .spopc d _ => some d
  | .sclz d _ => some d
  | .sctz d _ => some d
  | .sbfx d _ _ _ => some d
  | .sbfi d _ _ _ => some d
  | .saddi d _ _ => some d
  | .sandi d _ _ => some d
  | .sori d _ _ => some d
  | .sxori d _ _ => some d
  | .sli d _ => some d
  | .slih d _ _ => some d
  | .sshli d _ _ => some d
  | .sshri d _ _ _ => some d
  | .emget d => some d
  | _ => none

/-- The destination that a V instruction names (02 R52, R54), but for VTRD and VTWR. -/
def vectorDest (i : Instr) : Option Dst :=
  match i with
  | .vadd h _ _ _ => some h.d
  | .vsub h _ _ _ => some h.d
  | .vmul h _ _ _ => some h.d
  | .vmulh h _ _ => some h.d
  | .vmad h _ _ _ _ => some h.d
  | .vneg h _ _ => some h.d
  | .vabs h _ _ => some h.d
  | .vmin h _ _ => some h.d
  | .vmax h _ _ => some h.d
  | .vavg h _ _ _ => some h.d
  | .vsad h _ _ _ _ => some h.d
  | .vdot h _ _ _ _ => some h.d
  | .vshl h _ _ _ => some h.d
  | .vshr h _ _ => some h.d
  | .vsra h _ _ => some h.d
  | .vrot h _ _ => some h.d
  | .vand h _ _ => some h.d
  | .vor h _ _ => some h.d
  | .vxor h _ _ => some h.d
  | .vandn h _ _ => some h.d
  | .vnot h _ => some h.d
  | .vclz h _ => some h.d
  | .vpopc h _ => some h.d
  | .vbrev h _ => some h.d
  | .vbfx h _ _ => some h.d
  | .vbfi h _ _ _ => some h.d
  | .vcmp h _ _ _ => some h.d
  | .vsel h _ _ _ => some h.d
  | .vmov h _ => some h.d
  | .vprm h _ _ _ => some h.d
  | .vlane h _ => some h.d
  | .vaddi h _ _ => some h.d
  | .vandi h _ _ => some h.d
  | .vori h _ _ => some h.d
  | .vxori h _ _ => some h.d
  | .vimm h _ => some h.d
  | .vfadd h _ _ _ _ => some h.d
  | .vfsub h _ _ _ _ => some h.d
  | .vfmul h _ _ _ _ => some h.d
  | .vfma h _ _ _ _ _ => some h.d
  | .vfnma h _ _ _ _ _ => some h.d
  | .vfmin h _ _ => some h.d
  | .vfmax h _ _ => some h.d
  | .vfcmp h _ _ _ => some h.d
  | .vfclass h _ => some h.d
  | .vfrnd h _ _ => some h.d
  | .vfscl h _ _ _ _ => some h.d
  | .vfdot2 h _ _ _ _ _ => some h.d
  | .vfkey h _ => some h.d
  | .vcvt h _ _ _ _ => some h.d
  | .vpack h _ _ _ _ _ => some h.d
  | .vunpk h _ _ => some h.d
  | .vbexp h _ => some h.d
  | .vbq h _ => some h.d
  | .vbdq h _ _ _ => some h.d
  | .vrcp h _ _ => some h.d
  | .vrsq h _ _ => some h.d
  | .vsqrt h _ _ => some h.d
  | .vexp2 h _ _ => some h.d
  | .vlog2 h _ _ => some h.d
  | .vsinp h _ _ => some h.d
  | .vcosp h _ _ => some h.d
  | .vtanh h _ _ => some h.d
  | .vshfl h _ _ => some h.d
  | .vshflr h _ _ _ => some h.d
  | .vbcst h _ _ => some h.d
  | .vscan h _ _ _ _ _ => some h.d
  | .vred h _ _ _ _ => some h.d
  | .vcomp h _ => some h.d
  | .vget h _ _ => some h.d
  | .vins h _ _ => some h.d
  | _ => none

/-! ## What every step keeps -/

/-- Main memory stands in its canonical form. -/
def State.memOk (s : State) : Prop := Memory.wf s.mem.bytes = true

end Sys2Proof.Machine
end

