-- ==== Sys2Proof/Certificates/Slice0/Obligations.lean ====
section
/-! DEFINITION. The statements for the provers: what the rules of the spec say that the machine and its instructions do. -/

set_option linter.unusedVariables false

open Sys2Proof Sys2Proof.Machine

/-- After reset memory is in its canonical form and nothing is resident: no warp, cohort, session, context, partition or queue; every window is zero, every lane OK, every die has CAPFLUX 2400, PCAP 4700, ALERT 0, ALERTEN 7, USEC 0, TCMP all ones and throttle 0, and every stack has the 24:8 ratio and has not failed.
(The stacks that passed and the power being on are the model's choice (log 6); the other values are the manual's: 17 R336, R337, 21 R388, R394, Table 21.4, 27 Table 27.1, 15 R285, R286, 03 R70.) -/
def Obligations.ResetState : Prop :=
  State.reset.memOk ∧ State.reset.allWarps = [] ∧ State.reset.allCohorts = [] ∧ State.reset.host.session = none ∧ State.reset.xl.ctxs = [] ∧ State.reset.sch.parts = [] ∧
  State.reset.sch.queues = [] ∧ (∀ n, (State.reset.windowAt n).w0 = 0 ∧ (State.reset.windowAt n).w1 = 0) ∧ (∀ l, (State.reset.laneRec l).state = 0) ∧
  (∀ d, (State.reset.dieAt d).capflux = 2400 ∧ (State.reset.dieAt d).pcap = 4700 ∧ (State.reset.dieAt d).alert = 0 ∧ (State.reset.dieAt d).alerten = 7 ∧
    (State.reset.dieAt d).usec = 0 ∧ (State.reset.dieAt d).tcmp = 2 ^ 64 - 1 ∧ ∀ g, tget 0 (State.reset.dieAt d).throt g = 0) ∧
  (∀ n, (State.reset.mem.stack n).ratio = .r24w8 ∧ (State.reset.mem.stack n).failed = false)

/-- With power on, a step executes the head of the inbox, which it removes; a host command that has to wait then stands last among the commands that have arrived. With an empty inbox, no signal record to arrive, nothing else whose turn comes first, and a running warp that has no restart to take, where the fetch gives bits that decode to an instruction alone in its bundle with gap 0 and ys clear, the step is exec of that instruction at the state that the fetch leaves, with the turn passed on.
(That the inbox comes first, and whose turn it is, is the model's choice (log 8); that commands wait is 21 R390 (log 36). 02 R39, R40.) -/
def Obligations.StepRunsDecoded : Prop :=
  ∀ s : State, s.host.powered = true →
    (∀ (i : Instr) (l : List Instr), s.inbox = i :: l → let o := exec i { s with inbox := l }
      (∀ t, o = .next t → step s = .next (if t.host.waits then t.onHost fun h => { h with cmds := h.cmds ++ [i], waits := false } else t)) ∧
      ((∀ t, o ≠ .next t) → step s = o)) ∧
    (s.inbox = [] → s.record = none → s.runs = true → (∀ k < (7 - s.turn % 7) % 7, s.taker ((s.turn + k) % 7) = none) →
      ∀ (n : Nat) (v : State) (i : Instr), let u := s.boundary
      (u.w.restart = [] ∨ u.w.hm = true) → u.fetch = .bits n v → n / 2 ^ 252 = 0 → decodeTableWord 256 n = some i →
      (∀ t, exec i v = .next t → step s = .next { t with turn := 1 }) ∧ ((∀ t, exec i v ≠ .next t) → step s = exec i v))

/-- Thirteen syllables that the manual's worked encodings give, each in its slot, decode to the instruction that they stand for.
(02 R52, R57, R59, R60; 08 R167; 11 R224; 16 R332 and the worked encodings of those chapters.) -/
def Obligations.DecodedWords : Prop :=
  (∀ p ∈ ([
      (0x33815402048E0000, .vfma ⟨.f32, ⟨5, false, true, 2⟩, false⟩ ⟨.v 1, .none⟩ ⟨.v 2, .none⟩ ⟨.s 7, .none⟩ false .rne),
      (0x1B110003FE000002, .vcmp ⟨.i32, ⟨4, false, false, 0⟩, false⟩ ⟨.v 1, .none⟩ ⟨.c 0x3F, .none⟩ .lt),
      (0x2010C00400000200, .vaddi ⟨.i32, ⟨3, false, false, 0⟩⟩ (.v 2) 0x100),
      (0x6401D20C00000004, .vred ⟨.n32, ⟨7, false, true, 1⟩, false⟩ ⟨.v 6, .none⟩ false .rne .maxn),
      (0x1027114419000020 * 2 ^ 64, .gld ⟨2, .dev⟩ 1 5 .w32 ⟨4, 6, 0x20⟩),
      (0x0107220928C00000 * 2 ^ 128, .cpygl ⟨0, .dev⟩ 2 8 9 10 12),
      (0x1000CA2C00000000 * 2 ^ 128, .talloc 3 10 11),
      (0x2221410A7C000000 * 2 ^ 128, .mbmm (some 3) .auto 5 1 2 none),
      (0x60180C3000000001 * 2 ^ 192, .saddi 3 3 1),
      (0x00310042FFFFFFFD * 2 ^ 192, .bc .ltz 4 0xFFFFFFFD),
      (0x0039000100030002 * 2 ^ 192, .loopi 1 3 2),
      (0x1040003000000000 * 2 ^ 192, .waitf (some ⟨3, 0⟩)),
      (0x0035F49000100000 * 2 ^ 192, .callr 61 9 1)] : List (Nat × Instr)),
    decodeTableWord 256 p.1 = some p.2)

/-- For every well-formed slot instruction but the NOPs of the M, E and C slots, with every operand at every value, the 256 bits that encode it decode to it. (A bundle of NOPs reads as its V slot's NOP.)
(02 R52 to R60, R62.) -/
def Obligations.RoundTrip : Prop :=
  ∀ i : Instr, i.slot.isSome = true → WellFormed i → i ∉ [Instr.mnop, .enop, .cnop] → decodeTableWord 256 (encodeBundle i) = some i

/-- For every integer etype and element: VADD, VSUB, VMUL, VMAD, VNEG, VABS and VSHL give the exact value wrapped to the element width, or with sat clamped to the etype's range; VMULH the high half; VMIN, VMAX, VAVG (rounding up, or down with floor), VSHR, VSRA, VROT by the count modulo the width, VPOPC and VBREV as their definitions say.
(11 R214 (Table 11.2), R215, R217, R218.) -/
def Obligations.IntegerElements : Prop :=
  ∀ (et : Etype) (a b c : LaneVal) (i : Nat), et.isF = false → i < et.count →
    let w := et.width
    let el := fun (x : LaneVal) => x.extractLsb' (w * i) w
    let v := fun (x : LaneVal) => if et.isI then (el x).toInt else ((el x).toNat : Int)
    let lo : Int := if et.isI then -(2 ^ (w - 1)) else 0
    let hi : Int := if et.isI then 2 ^ (w - 1) - 1 else 2 ^ w - 1
    let n := (el b).toNat % w
    (∀ p ∈ [(fun sat => LaneFns.vadd et sat a b, v a + v b), (fun sat => LaneFns.vsub et sat a b, v a - v b), (fun sat => LaneFns.vmul et sat a b, v a * v b),
        (fun sat => LaneFns.vmad et sat a b c, v a * v b + v c), (fun sat => LaneFns.vneg et sat a, - v a), (fun sat => LaneFns.vabs et sat a, |v a|),
        (fun sat => LaneFns.vshl et sat a b, v a * 2 ^ n)],
      el (p.1 false) = BitVec.ofInt w p.2 ∧ v (p.1 true) = max lo (min hi p.2)) ∧
    el (LaneFns.vmulh et a b) = BitVec.ofInt w (v a * v b / 2 ^ w) ∧ v (LaneFns.vmin et a b) = min (v a) (v b) ∧ v (LaneFns.vmax et a b) = max (v a) (v b) ∧
    v (LaneFns.vavg et false a b) = (v a + v b + 1) / 2 ∧ v (LaneFns.vavg et true a b) = (v a + v b) / 2 ∧
    el (LaneFns.vshr et a b) = el a >>> n ∧ el (LaneFns.vsra et a b) = (el a).sshiftRight n ∧ el (LaneFns.vrot et a b) = (el a).rotateLeft n ∧
    (el (LaneFns.vpopc et a)).toNat = ((List.range w).countP fun j => (el a).getLsbD j) ∧
    (∀ j < w, (el (LaneFns.vbrev et a)).getLsbD j = (el a).getLsbD (w - 1 - j))

/-- F32 VFADD, VFSUB, VFMUL: a NaN operand gives the canonical NaN; Inf − Inf and Inf × 0 give it with NV; Inf with a finite operand gives Inf, or the largest finite with sat; −0 + +0 is −0 only when rounding down. And in each format, the bits of a nonzero finite number unpack to a value that packs, in every rounding mode, to the same bits with no flag.
(01 R13, R16 to R19.) -/
def Obligations.FloatSpecials : Prop :=
  (∀ (ctl : Nat) (r : Rnd) (a b : LaneVal),
    let nan := fun (x : LaneVal) => 0x7F800000 < x.toNat % 2 ^ 31
    let inf := fun (x : LaneVal) => x.toNat % 2 ^ 31 = 0x7F800000
    let fin := fun (x : LaneVal) => x.toNat % 2 ^ 31 < 0x7F800000
    (∀ sat : Bool, nan a ∨ nan b → (LaneFns.vfadd .f32 ctl sat r a b).1 = 0x7FC00000 ∧ (LaneFns.vfsub .f32 ctl sat r a b).1 = 0x7FC00000 ∧
      (LaneFns.vfmul .f32 ctl sat r a b).1 = 0x7FC00000) ∧
    (inf a → inf b → (a ≠ b → LaneFns.vfadd .f32 ctl false r a b = (0x7FC00000, 1) ∧ LaneFns.vfsub .f32 ctl false r a b = (a, 0)) ∧
      (a = b → LaneFns.vfadd .f32 ctl false r a b = (a, 0) ∧ LaneFns.vfsub .f32 ctl false r a b = (0x7FC00000, 1))) ∧
    (inf a → fin b → (LaneFns.vfadd .f32 ctl false r a b).1 = a ∧ (LaneFns.vfadd .f32 ctl true r a b).1 = a - 1 ∧
      (b.toNat % 2 ^ 31 = 0 → LaneFns.vfmul .f32 ctl false r a b = (0x7FC00000, 1)) ∧
      (0x00800000 ≤ b.toNat % 2 ^ 31 → LaneFns.vfmul .f32 ctl false r a b = (0x7F800000 ||| ((a ^^^ b) &&& 0x80000000), 0))) ∧
    (a.toNat = 0x80000000 → b.toNat = 0 → (LaneFns.vfadd .f32 ctl false r a b).1 = (if r = .rd then 0x80000000 else 0))) ∧
  (∀ (f : Num.Fmt) (b : Nat) (r : Rnd) (s : Bool) (m : Nat) (e : Int), b < 2 ^ f.w → Num.unpack f b = .num s m e → m ≠ 0 → Num.pack f r false false s m e = (b, 0))

/-- VFKEY runs at latency 2, raises no flag and flushes nothing, whatever rnd and sat; each element's key is 0 for a NaN, the bits with the sign bit set for a positive and the inverted bits for a negative; the keys' unsigned order is the numeric order, with −0 below +0 and the infinities at the ends; the key of −Inf is the least of a number, 0x007FFFFF, 0x03FF or 0x007F.
(01 R31. Stated for the three etypes F32, F16X2, B16X2.) -/
def Obligations.FloatKeys : Prop :=
  (∀ (s : State) (h : VHead) (a : Opd), s.runsTo (.vfkey h a)
    (s.vOut 2 h.d (s.w.lanesS h.nm) fun l => LaneFns.vfkey h.et (s.w.opd h.et a l)).stepOn) ∧
  (∀ (f : Etype) (x y : LaneVal) (i j : Nat), f ∈ [Etype.f32, .f16x2, .b16x2] → i < f.count → j < f.count →
    let w := f.width
    let el := fun (z : LaneVal) (k : Nat) => (z.extractLsb' (w * k) w).toNat
    let key := fun (z : LaneVal) (k : Nat) => el (LaneFns.vfkey f z) k
    let is := fun (z : LaneVal) (k : Nat) => Num.unpack (LaneFns.fmtOf f) (el z k)
    let real := fun (s : Bool) (m : Nat) (e : Int) => (if s then -1 else 1 : ℚ) * m * 2 ^ e
    ((is x i).isNan = true → key x i = 0) ∧
    ((is x i).isNan = false → key x i = (if el x i < 2 ^ (w - 1) then el x i ||| 2 ^ (w - 1) else 2 ^ w - 1 - el x i) ∧ 0 < key x i) ∧
    (∀ s m e s' m' e', is x i = .num s m e → is y j = .num s' m' e' →
      (real s m e < real s' m' e' → key x i < key y j) ∧ (m = 0 → m' = 0 → s = true → s' = false → key x i < key y j)) ∧
    (∀ s m e, is x i = .num s m e → (is y j = .inf false → key x i < key y j) ∧ (is y j = .inf true → key y j < key x i)) ∧
    (is x i = .inf true → key x i = if f = .f32 then 0x007FFFFF else if f = .f16x2 then 0x03FF else 0x007F))

/-- VADD, VSUB, VNEG, VABS, VMIN, VMAX, VAVG, VMUL, VMULH, VMAD, VSAD, VDOT, VSHL, VSHR, VSRA, VROT, VAND, VOR, VXOR, VANDN, VNOT, VCLZ, VPOPC, VBREV, VBFX, VBFI run to: in each lane of S the value computed from the operands as they stood at issue is put in flight, to v[vd] (unless wbs) and to the latch (with le), at latency 2 or 4; nothing else changes but the boundary.
(11 R209, R210, R214 to R219; 02 R61.) -/
def Obligations.VectorIntegerOps : Prop :=
  (∀ s : State,
    (∀ (h : VHead) (a b : Opd) (sat : Bool), s.runsTo (.vadd h a b sat)
      (s.vOut 2 h.d (s.w.lanesS h.nm) fun l => LaneFns.vadd h.et sat (s.w.opd h.et a l) (s.w.opd h.et b l)).stepOn) ∧
    (∀ (h : VHead) (a b : Opd) (sat : Bool), s.runsTo (.vsub h a b sat)
      (s.vOut 2 h.d (s.w.lanesS h.nm) fun l => LaneFns.vsub h.et sat (s.w.opd h.et a l) (s.w.opd h.et b l)).stepOn) ∧
    (∀ (h : VHead) (a : Opd) (sat : Bool), s.runsTo (.vneg h a sat)
      (s.vOut 2 h.d (s.w.lanesS h.nm) fun l => LaneFns.vneg h.et sat (s.w.opd h.et a l)).stepOn) ∧
    (∀ (h : VHead) (a : Opd) (sat : Bool), s.runsTo (.vabs h a sat)
      (s.vOut 2 h.d (s.w.lanesS h.nm) fun l => LaneFns.vabs h.et sat (s.w.opd h.et a l)).stepOn) ∧
    (∀ (h : VHead) (a b : Opd), s.runsTo (.vmin h a b)
      (s.vOut 2 h.d (s.w.lanesS h.nm) fun l => LaneFns.vmin h.et (s.w.opd h.et a l) (s.w.opd h.et b l)).stepOn) ∧
    (∀ (h : VHead) (a b : Opd), s.runsTo (.vmax h a b)
      (s.vOut 2 h.d (s.w.lanesS h.nm) fun l => LaneFns.vmax h.et (s.w.opd h.et a l) (s.w.opd h.et b l)).stepOn) ∧
    (∀ (h : VHead) (a b : Opd) (fl : Bool), s.runsTo (.vavg h a b fl)
      (s.vOut 2 h.d (s.w.lanesS h.nm) fun l => LaneFns.vavg h.et fl (s.w.opd h.et a l) (s.w.opd h.et b l)).stepOn)) ∧
  (∀ s : State,
    (∀ (h : VHead) (a b : Opd) (sat : Bool), s.runsTo (.vmul h a b sat)
      (s.vOut 4 h.d (s.w.lanesS h.nm) fun l => LaneFns.vmul h.et sat (s.w.opd h.et a l) (s.w.opd h.et b l)).stepOn) ∧
    (∀ (h : VHead) (a b : Opd), s.runsTo (.vmulh h a b)
      (s.vOut 4 h.d (s.w.lanesS h.nm) fun l => LaneFns.vmulh h.et (s.w.opd h.et a l) (s.w.opd h.et b l)).stepOn) ∧
    (∀ (h : VHead) (a b c : Opd) (sat : Bool), s.runsTo (.vmad h a b c sat)
      (s.vOut 4 h.d (s.w.lanesS h.nm) fun l => LaneFns.vmad h.et sat (s.w.opd h.et a l) (s.w.opd h.et b l) (s.w.opd h.et c l)).stepOn) ∧
    (∀ (h : VHead) (a b c : Opd) (sat : Bool), s.runsTo (.vsad h a b c sat)
      (s.vOut 4 h.d (s.w.lanesS h.nm) fun l => LaneFns.vsad h.et sat (s.w.opd h.et a l) (s.w.opd h.et b l) (s.w.opd .n32 c l)).stepOn) ∧
    (∀ (h : VHead) (a b c : Opd) (sat : Bool), s.runsTo (.vdot h a b c sat)
      (s.vOut 4 h.d (s.w.lanesS h.nm) fun l => LaneFns.vdot h.et sat (s.w.opd h.et a l) (s.w.opd h.et b l) (s.w.opd .i32 c l)).stepOn)) ∧
  (∀ s : State,
    (∀ (h : VHead) (a b : Opd) (sat : Bool), s.runsTo (.vshl h a b sat)
      (s.vOut 2 h.d (s.w.lanesS h.nm) fun l => LaneFns.vshl h.et sat (s.w.opd h.et a l) (s.w.opd h.et b l)).stepOn) ∧
    (∀ (h : VHead) (a b : Opd), s.runsTo (.vshr h a b)
      (s.vOut 2 h.d (s.w.lanesS h.nm) fun l => LaneFns.vshr h.et (s.w.opd h.et a l) (s.w.opd h.et b l)).stepOn) ∧
    (∀ (h : VHead) (a b : Opd), s.runsTo (.vsra h a b)
      (s.vOut 2 h.d (s.w.lanesS h.nm) fun l => LaneFns.vsra h.et (s.w.opd h.et a l) (s.w.opd h.et b l)).stepOn) ∧
    (∀ (h : VHead) (a b : Opd), s.runsTo (.vrot h a b)
      (s.vOut 2 h.d (s.w.lanesS h.nm) fun l => LaneFns.vrot h.et (s.w.opd h.et a l) (s.w.opd h.et b l)).stepOn) ∧
    (∀ (h : VHead) (a b : Opd), s.runsTo (.vand h a b)
      (s.vOut 2 h.d (s.w.lanesS h.nm) fun l => (s.w.opd h.et a l) &&& (s.w.opd h.et b l)).stepOn) ∧
    (∀ (h : VHead) (a b : Opd), s.runsTo (.vor h a b)
      (s.vOut 2 h.d (s.w.lanesS h.nm) fun l => (s.w.opd h.et a l) ||| (s.w.opd h.et b l)).stepOn) ∧
    (∀ (h : VHead) (a b : Opd), s.runsTo (.vxor h a b)
      (s.vOut 2 h.d (s.w.lanesS h.nm) fun l => (s.w.opd h.et a l) ^^^ (s.w.opd h.et b l)).stepOn) ∧
    (∀ (h : VHead) (a b : Opd), s.runsTo (.vandn h a b)
      (s.vOut 2 h.d (s.w.lanesS h.nm) fun l => (s.w.opd h.et a l) &&& ~~~(s.w.opd h.et b l)).stepOn) ∧
    (∀ (h : VHead) (a : Opd), s.runsTo (.vnot h a)
      (s.vOut 2 h.d (s.w.lanesS h.nm) fun l => ~~~(s.w.opd h.et a l)).stepOn) ∧
    (∀ (h : VHead) (a : Opd), s.runsTo (.vclz h a)
      (s.vOut 2 h.d (s.w.lanesS h.nm) fun l => LaneFns.vclz h.et (s.w.opd h.et a l)).stepOn) ∧
    (∀ (h : VHead) (a : Opd), s.runsTo (.vpopc h a)
      (s.vOut 2 h.d (s.w.lanesS h.nm) fun l => LaneFns.vpopc h.et (s.w.opd h.et a l)).stepOn) ∧
    (∀ (h : VHead) (a : Opd), s.runsTo (.vbrev h a)
      (s.vOut 2 h.d (s.w.lanesS h.nm) fun l => LaneFns.vbrev h.et (s.w.opd h.et a l)).stepOn) ∧
    (∀ (h : VHead) (a b : Opd), s.runsTo (.vbfx h a b)
      (s.vOut 2 h.d (s.w.lanesS h.nm) fun l => LaneFns.vbfx h.et (s.w.opd h.et a l) (s.w.opd .n32 b l)).stepOn) ∧
    (∀ (h : VHead) (a b c : Opd), s.runsTo (.vbfi h a b c)
      (s.vOut 2 h.d (s.w.lanesS h.nm) fun l => LaneFns.vbfi (s.w.opd h.et a l) (s.w.opd .n32 b l) (s.w.opd h.et c l)).stepOn))

/-- VSEL, VMOV, VPRM, VLANE, VADDI, VANDI, VORI, VXORI, VIMM, VFKEY at latency 2 and VFCLASS at 3 put their lane values in flight; VCMP and VFCMP the mask of the lanes of S where the condition holds, to s[vd] at latency 3, VFCMP raising its flags in FPSTAT; VGET one lane's value to s[vd] at latency 4, zero where the lane is out of AM.
(11 R220 to R224; 12 R230, R231, R241. That VFCMP's flags are set at issue is log 14.) -/
def Obligations.VectorMoves : Prop :=
  (∀ s : State,
    (∀ (h : VHead) (a b c : Opd), s.runsTo (.vsel h a b c)
      (s.vOut 2 h.d (s.w.lanesS h.nm) fun l => if (s.w.selMask c).getLsbD l then (s.w.opd h.et a l) else (s.w.opd h.et b l)).stepOn) ∧
    (∀ (h : VHead) (a : Opd), s.runsTo (.vmov h a)
      (s.vOut 2 h.d (s.w.lanesS h.nm) fun l => (s.w.opd h.et a l)).stepOn) ∧
    (∀ (h : VHead) (a b c : Opd), s.runsTo (.vprm h a b c)
      (s.vOut 2 h.d (s.w.lanesS h.nm) fun l => LaneFns.vprm (s.w.opd h.et a l) (s.w.opd h.et b l) (s.w.opd h.et c l)).stepOn) ∧
    (∀ (h : VHead) (m : LaneMode), s.runsTo (.vlane h m)
      (s.vOut 2 h.d (s.w.lanesS h.nm) fun l => match m with
        | .lane => BitVec.ofNat 32 l
        | .sub => BitVec.ofNat 32 (l % s.w.sgw)
        | .grp => BitVec.ofNat 32 (l / s.w.sgw)).stepOn) ∧
    (∀ (h : VImm) (a : Sel) (imm : BitVec 32), s.runsTo (.vaddi h a imm)
      (s.vOut 2 h.d s.w.em fun l => LaneFns.vadd h.et false (s.w.sel h.et a l) imm).stepOn) ∧
    (∀ (h : VImm) (a : Sel) (imm : BitVec 32), s.runsTo (.vandi h a imm)
      (s.vOut 2 h.d s.w.em fun l => s.w.sel h.et a l &&& imm).stepOn) ∧
    (∀ (h : VImm) (a : Sel) (imm : BitVec 32), s.runsTo (.vori h a imm)
      (s.vOut 2 h.d s.w.em fun l => s.w.sel h.et a l ||| imm).stepOn) ∧
    (∀ (h : VImm) (a : Sel) (imm : BitVec 32), s.runsTo (.vxori h a imm)
      (s.vOut 2 h.d s.w.em fun l => s.w.sel h.et a l ^^^ imm).stepOn) ∧
    (∀ (h : VImm) (imm : BitVec 32), s.runsTo (.vimm h imm) (s.vOut 2 h.d s.w.em fun _ => imm).stepOn) ∧
    (∀ (h : VHead) (a : Opd), s.runsTo (.vfclass h a)
      (s.vOut 3 h.d (s.w.lanesS h.nm) fun l => LaneFns.vfclass h.et (s.w.opd h.et a l)).stepOn) ∧
    (∀ (h : VHead) (a : Opd), s.runsTo (.vfkey h a)
      (s.vOut 2 h.d (s.w.lanesS h.nm) fun l => LaneFns.vfkey h.et (s.w.opd h.et a l)).stepOn)) ∧
  (∀ s : State,
    (∀ (h : VHead) (a b : Opd) (cc : Cmp), s.runsTo (.vcmp h a b cc)
      (s.sOut 3 h.d (maskBy fun l => (s.w.lanesS h.nm).getLsbD l && LaneFns.cmp 32 cc (s.w.opd h.et a l).toNat (s.w.opd h.et b l).toNat)).stepOn) ∧
    (∀ (h : VHead) (a b : Opd) (cc : FCmp), s.runsTo (.vfcmp h a b cc)
      ((s.sOut 3 h.d (maskBy fun l => (s.w.lanesS h.nm).getLsbD l && (LaneFns.vfcmp h.et s.w.ctl cc (s.w.opd h.et a l) (s.w.opd h.et b l)).1)).raise
        ((lanesOf (s.w.lanesS h.nm)).foldl (fun f l => f ||| (LaneFns.vfcmp h.et s.w.ctl cc (s.w.opd h.et a l) (s.w.opd h.et b l)).2) 0)).stepOn) ∧
    (∀ (h : VHead) (a b : Opd), s.runsTo (.vget h a b)
      (s.sOut 4 h.d (match s.w.oneAm b with
        | some i => if h.et.isI then (s.w.opd h.et a i).signExtend 64 else (s.w.opd h.et a i).setWidth 64
        | none => 0)).stepOn))

/-- VFADD, VFSUB, VFMUL, VFMA, VFNMA, VFMIN, VFMAX, VFSCL, VFDOT2, VFRND, VCVT, VPACK, VUNPK, VBEXP, VBQ, VBDQ, VRCP, VRSQ, VSQRT, VEXP2, VLOG2, VSINP, VCOSP and VTANH put each lane's value in flight at latency 4, 6 or 12 and raise the flags of the lanes of S in FPSTAT. An SFU value that the manual does not fix is free.
(12 R226 to R237; 01 R16 to R37. The flags are set at issue (log 14); the free SFU values are log 10.) -/
def Obligations.VectorFloats : Prop :=
  (∀ s : State,
    (∀ (h : VHead) (a b : Opd) (sat : Bool) (r : Rnd), s.runsTo (.vfadd h a b sat r)
      (s.vfOut 4 h.d (s.w.lanesS h.nm) fun l => LaneFns.vfadd h.et s.w.ctl sat r (s.w.opd h.et a l) (s.w.opd h.et b l)).stepOn) ∧
    (∀ (h : VHead) (a b : Opd) (sat : Bool) (r : Rnd), s.runsTo (.vfsub h a b sat r)
      (s.vfOut 4 h.d (s.w.lanesS h.nm) fun l => LaneFns.vfsub h.et s.w.ctl sat r (s.w.opd h.et a l) (s.w.opd h.et b l)).stepOn) ∧
    (∀ (h : VHead) (a b : Opd) (sat : Bool) (r : Rnd), s.runsTo (.vfmul h a b sat r)
      (s.vfOut 4 h.d (s.w.lanesS h.nm) fun l => LaneFns.vfmul h.et s.w.ctl sat r (s.w.opd h.et a l) (s.w.opd h.et b l)).stepOn) ∧
    (∀ (h : VHead) (a b c : Opd) (sat : Bool) (r : Rnd), s.runsTo (.vfma h a b c sat r)
      (s.vfOut 4 h.d (s.w.lanesS h.nm) fun l => LaneFns.vfma h.et s.w.ctl sat r false (s.w.opd h.et a l) (s.w.opd h.et b l) (s.w.opd h.et c l)).stepOn) ∧
    (∀ (h : VHead) (a b c : Opd) (sat : Bool) (r : Rnd), s.runsTo (.vfnma h a b c sat r)
      (s.vfOut 4 h.d (s.w.lanesS h.nm) fun l => LaneFns.vfma h.et s.w.ctl sat r true (s.w.opd h.et a l) (s.w.opd h.et b l) (s.w.opd h.et c l)).stepOn) ∧
    (∀ (h : VHead) (a b : Opd), s.runsTo (.vfmin h a b)
      (s.vfOut 4 h.d (s.w.lanesS h.nm) fun l => LaneFns.vfminmax h.et s.w.ctl false (s.w.opd h.et a l) (s.w.opd h.et b l)).stepOn) ∧
    (∀ (h : VHead) (a b : Opd), s.runsTo (.vfmax h a b)
      (s.vfOut 4 h.d (s.w.lanesS h.nm) fun l => LaneFns.vfminmax h.et s.w.ctl true (s.w.opd h.et a l) (s.w.opd h.et b l)).stepOn) ∧
    (∀ (h : VHead) (a b : Opd) (sat : Bool) (r : Rnd), s.runsTo (.vfscl h a b sat r)
      (s.vfOut 4 h.d (s.w.lanesS h.nm) fun l => LaneFns.vfscl h.et s.w.ctl sat r (s.w.opd h.et a l) (s.w.opd h.et.countType b l)).stepOn) ∧
    (∀ (h : VHead) (a b c : Opd) (sat : Bool) (r : Rnd), s.runsTo (.vfdot2 h a b c sat r)
      (s.vfOut 4 h.d (s.w.lanesS h.nm) fun l => LaneFns.vfdot2 h.et s.w.ctl sat r (s.w.opd h.et a l) (s.w.opd h.et b l) (s.w.opd .f32 c l)).stepOn) ∧
    (∀ (h : VHead) (a : Opd) (r : Rnd), s.runsTo (.vfrnd h a r)
      (s.vfOut 4 h.d (s.w.lanesS h.nm) fun l => LaneFns.vfrnd h.et s.w.ctl r (s.w.opd h.et a l)).stepOn)) ∧
  (∀ s : State,
    (∀ (h : VHead) (a : Opd) (src : Etype) (sat : Bool) (r : Rnd), s.runsTo (.vcvt h a src sat r)
      (s.vfOut 4 h.d (s.w.lanesS h.nm) fun l => LaneFns.vcvt src h.et s.w.ctl sat r (s.w.opd src a l)).stepOn) ∧
    (∀ (h : VHead) (a b : Opd) (src : Etype) (sat : Bool) (r : Rnd), s.runsTo (.vpack h a b src sat r)
      (s.vfOut 4 h.d (s.w.lanesS h.nm) fun l => LaneFns.vpack src h.et s.w.ctl sat r (s.w.opd src a l) (s.w.opd src b l)).stepOn) ∧
    (∀ (h : VHead) (a : Opd) (src : Etype), s.runsTo (.vunpk h a src)
      (s.vfOut 4 h.d (s.w.lanesS h.nm) fun l => LaneFns.vunpk src h.et s.w.ctl (s.w.opd src a l)).stepOn) ∧
    (∀ (h : VHead) (a : Opd), s.runsTo (.vbexp h a)
      (s.vfOut 6 h.d (s.w.lanesS h.nm) fun l => (BitVec.ofNat 32 (Num.blockExp (s.w.block h.et (s.w.lanesS h.nm) a l)), idFlags (laneElems h.et s.w.ctl (s.w.opd h.et a l)))).stepOn) ∧
    (∀ (h : VHead) (a : Opd), s.runsTo (.vbq h a)
      (s.vfOut 6 h.d (s.w.lanesS h.nm) fun l => ((LaneFns.vbqLane h.et (Num.blockExp (s.w.block h.et (s.w.lanesS h.nm) a l)) ((laneElems h.et s.w.ctl (s.w.opd h.et a l)).map Prod.fst)).1,
        (LaneFns.vbqLane h.et (Num.blockExp (s.w.block h.et (s.w.lanesS h.nm) a l)) ((laneElems h.et s.w.ctl (s.w.opd h.et a l)).map Prod.fst)).2 |||
          idFlags (laneElems h.et s.w.ctl (s.w.opd h.et a l)))).stepOn) ∧
    (∀ (h : VHead) (a : Opd) (sat : Bool) (r : Rnd), s.runsTo (.vbdq h a sat r)
      (s.vfOut 6 h.d (s.w.lanesS h.nm) fun l => LaneFns.vbdq h.et s.w.ctl sat r (s.w.opd .n32 a l)).stepOn)) ∧
  (∀ s : State,
    (∀ (h : VHead) (a : Opd) (sat : Bool), s.runsTo (.vrcp h a sat)
      (s.vfOut 12 h.d (s.w.lanesS h.nm) fun l => LaneFns.vsfu h.et 0x50 s.w.ctl sat (s.w.opd h.et a l)).stepOn) ∧
    (∀ (h : VHead) (a : Opd) (sat : Bool), s.runsTo (.vrsq h a sat)
      (s.vfOut 12 h.d (s.w.lanesS h.nm) fun l => LaneFns.vsfu h.et 0x51 s.w.ctl sat (s.w.opd h.et a l)).stepOn) ∧
    (∀ (h : VHead) (a : Opd) (sat : Bool), s.runsTo (.vsqrt h a sat)
      (s.vfOut 12 h.d (s.w.lanesS h.nm) fun l => LaneFns.vsfu h.et 0x52 s.w.ctl sat (s.w.opd h.et a l)).stepOn) ∧
    (∀ (h : VHead) (a : Opd) (sat : Bool), s.runsTo (.vexp2 h a sat)
      (s.vfOut 12 h.d (s.w.lanesS h.nm) fun l => LaneFns.vsfu h.et 0x53 s.w.ctl sat (s.w.opd h.et a l)).stepOn) ∧
    (∀ (h : VHead) (a : Opd) (sat : Bool), s.runsTo (.vlog2 h a sat)
      (s.vfOut 12 h.d (s.w.lanesS h.nm) fun l => LaneFns.vsfu h.et 0x54 s.w.ctl sat (s.w.opd h.et a l)).stepOn) ∧
    (∀ (h : VHead) (a : Opd) (sat : Bool), s.runsTo (.vsinp h a sat)
      (s.vfOut 12 h.d (s.w.lanesS h.nm) fun l => LaneFns.vsfu h.et 0x55 s.w.ctl sat (s.w.opd h.et a l)).stepOn) ∧
    (∀ (h : VHead) (a : Opd) (sat : Bool), s.runsTo (.vcosp h a sat)
      (s.vfOut 12 h.d (s.w.lanesS h.nm) fun l => LaneFns.vsfu h.et 0x56 s.w.ctl sat (s.w.opd h.et a l)).stepOn) ∧
    (∀ (h : VHead) (a : Opd) (sat : Bool), s.runsTo (.vtanh h a sat)
      (s.vfOut 12 h.d (s.w.lanesS h.nm) fun l => LaneFns.vsfu h.et 0x57 s.w.ctl sat (s.w.opd h.et a l)).stepOn))

/-- VSHFL, VSHFLR and VBCST give each lane of S the value of the lane they name (its own where that lane is undefined, outside its sub-group or outside AM), at latency 4; VSCAN and VRED combine within each subgroup and raise their flags, and VCOMP packs the values of the lanes of S to the low lanes of each subgroup, all at latency 8; VINS writes one lane of AM at latency 4, and where its index names none only goes on.
(12 R238 to R241. That VSCAN and VRED set their flags at issue is log 14.) -/
def Obligations.VectorCross : Prop :=
  ∀ s : State,
    (∀ (h : VHead) (a b : Opd), s.runsTo (.vshfl h a b)
      (s.vOut 4 h.d (s.w.lanesS h.nm) fun l => s.w.fromLane h.et a l (s.w.inGroup l (s.w.opd .n32 b l).toNat)).stepOn) ∧
    (∀ (h : VHead) (a b : Opd) (m : ShflMode), s.runsTo (.vshflr h a b m)
      (s.vOut 4 h.d (s.w.lanesS h.nm) fun l => s.w.fromLane h.et a l (s.w.shflSrc m l (s.w.sgw / 2 ^ ((s.w.opd .n32 b l).toNat % 8)))).stepOn) ∧
    (∀ (h : VHead) (a b : Opd), s.runsTo (.vbcst h a b)
      (s.vOut 4 h.d (s.w.lanesS h.nm) fun l => s.w.fromLane h.et a l (s.w.inGroup l (s.w.opd .n32 b l).toNat)).stepOn) ∧
    (∀ (h : VHead) (a : Opd) (sat : Bool) (r : Rnd) (op : RedOp) (ex : Bool), s.runsTo (.vscan h a sat r op ex)
      ((s.flyAll (vFlights (s.now + 8) h.d (s.w.lanesS h.nm) (byGroup s.w (s.w.scanGroup h a sat r op ex)).1)).raise
        (byGroup s.w (s.w.scanGroup h a sat r op ex)).2).stepOn) ∧
    (∀ (h : VHead) (a : Opd) (sat : Bool) (r : Rnd) (op : RedOp), s.runsTo (.vred h a sat r op)
      ((s.flyAll (vFlights (s.now + 8) h.d (s.w.lanesS h.nm) (byGroup s.w (s.w.redGroup h a sat r op)).1)).raise
        (byGroup s.w (s.w.redGroup h a sat r op)).2).stepOn) ∧
    (∀ (h : VHead) (a : Opd), s.runsTo (.vcomp h a)
      (s.flyAll (vFlights (s.now + 8) h.d (BitVec.allOnes 64) (byGroup s.w fun base =>
        ((s.w.groupOf base).zip (((s.w.groupOf base).filter fun l => (s.w.lanesS h.nm).getLsbD l).map fun l => s.w.opd h.et a l), 0)).1)).stepOn) ∧
    (∀ (h : VHead) (a b : Opd), s.runsTo (.vins h a b) (match s.w.oneAm b with
        | some i => (s.flyAll (vFlights (s.now + 4) h.d (BitVec.ofNat 64 (2 ^ i)) (mkLanes fun _ => s.w.opd h.et a i))).stepOn
        | none => s.stepOn))

/-- A bundle whose four opcode fields are 0, whatever its other bits, at an undisturbed boundary does nothing but go on: the loop-end action, the next bundle gap + 1 cycles on, and with ys set the scheduler's choice. The all-zero bundle has gap 0 and is not yield-safe. VNOP, MNOP, ENOP and CNOP run so.
(02 R41.) -/
def Obligations.NopBundles : Prop :=
  ∀ s : State,
    (∀ n : Nat, s.calm = true → fld n 56 8 = 0 → fld n 120 8 = 0 → fld n 184 8 = 0 → fld n 240 8 = 0 →
      let t := s.goOn (s.w.loopEnd s.w.pc).1 ((s.w.loopEnd s.w.pc).2.getD (s.w.pc + 32)) (fld n 253 3 + 1)
      (fld n 252 1 = 0 → (readBun n).issue s = .next t) ∧ (fld n 252 1 = 1 → (readBun n).issue s = .next (t.schedule true false))) ∧
    (s.calm = true → (readBun 0).issue s = .next s.stepOn) ∧
    s.runsTo .vnop s.stepOn ∧ s.runsTo .mnop s.stepOn ∧ s.runsTo .enop s.stepOn ∧ s.runsTo .cnop s.stepOn

/-- A C syllable with one of the listed opcodes is rejected with detail 1, and one with opcode 0 is CNOP, whatever its other bits; a bundle that holds such a syllable alone, issued at an undisturbed boundary outside handler mode, takes the ILLOP trap with detail 1 and the C slot's bit.
(16 R332.) -/
def Obligations.UndefinedControlOpcodes : Prop :=
  (∀ w : Nat, let op := fld w 48 8
    (op ∈ [0x17, 0x22, 0x23] ∨ 0x28 ≤ op ∧ op ≤ 0x2F ∨ 0x3B ≤ op ∧ op ≤ 0x3F ∨ 0x49 ≤ op ∧ op ≤ 0x4F ∨ 0x56 ≤ op → decodeSlot .C w = .error 1) ∧
    (op = 0 → decodeSlot .C w = .ok .cnop)) ∧
  (∀ (s : State) (w : Nat), w < 2 ^ 64 → decodeSlot .C w = .error 1 → s.calm = true → s.w.hm = false →
    (readBun (w * 2 ^ 192)).issue s = .next (s.trapNow 2 1 8 s.w.pc 0))

/-- SADD, SSUB, SAND, SOR, SXOR, SANDN, SSHL, SSHR, SSRA (and the immediate shifts), SMIN, SMAX, SCMP, SSEL, SPOPC, SCLZ, SCTZ write the result of Table 16.2 to sd as the next bundle issues, SMUL and SMULH at latency 3; no flag is raised and FPCTL has no part.
(16 R306, Table 16.2.) -/
def Obligations.ScalarResults : Prop :=
  (∀ (s : State) (d a b : Reg),
    s.runsTo (.sadd d a b) (s.sNext d (s.w.rdS a.val + s.w.rdS b.val)) ∧
    s.runsTo (.ssub d a b) (s.sNext d (s.w.rdS a.val - s.w.rdS b.val)) ∧
    s.runsTo (.sand d a b) (s.sNext d (s.w.rdS a.val &&& s.w.rdS b.val)) ∧
    s.runsTo (.sor d a b) (s.sNext d (s.w.rdS a.val ||| s.w.rdS b.val)) ∧
    s.runsTo (.sxor d a b) (s.sNext d (s.w.rdS a.val ^^^ s.w.rdS b.val)) ∧
    s.runsTo (.sandn d a b) (s.sNext d (s.w.rdS a.val &&& ~~~s.w.rdS b.val))) ∧
  (∀ (s : State) (d a b : Reg),
    s.runsTo (.sshl d a b) (s.sNext d (s.w.rdS a.val <<< (s.w.rdS b.val &&& 63))) ∧
    s.runsTo (.sshr d a b) (s.sNext d (s.w.rdS a.val >>> (s.w.rdS b.val &&& 63))) ∧
    s.runsTo (.ssra d a b) (s.sNext d ((s.w.rdS a.val).sshiftRight' (s.w.rdS b.val &&& 63))) ∧
    (∀ n : Fin 64, s.runsTo (.sshli d a n) (s.sNext d (s.w.rdS a.val <<< n.val))) ∧
    (∀ n : Fin 64, s.runsTo (.sshri d a n false) (s.sNext d (s.w.rdS a.val >>> n.val))) ∧
    (∀ n : Fin 64, s.runsTo (.sshri d a n true) (s.sNext d ((s.w.rdS a.val).sshiftRight n.val)))) ∧
  (∀ (s : State) (d a b : Reg),
    s.runsTo (.smin d a b false) (s.sNext d (if (s.w.rdS b.val).slt (s.w.rdS a.val) then s.w.rdS b.val else s.w.rdS a.val)) ∧
    s.runsTo (.smin d a b true) (s.sNext d (if (s.w.rdS b.val).ult (s.w.rdS a.val) then s.w.rdS b.val else s.w.rdS a.val)) ∧
    s.runsTo (.smax d a b false) (s.sNext d (if (s.w.rdS a.val).slt (s.w.rdS b.val) then s.w.rdS b.val else s.w.rdS a.val)) ∧
    s.runsTo (.smax d a b true) (s.sNext d (if (s.w.rdS a.val).ult (s.w.rdS b.val) then s.w.rdS b.val else s.w.rdS a.val)) ∧
    (∀ c : Reg, s.runsTo (.ssel d a b c) (s.sNext d (if s.w.rdS a.val = 0 then s.w.rdS c.val else s.w.rdS b.val))) ∧
    (∀ cc : Cmp, s.runsTo (.scmp cc d a b) (s.sNext d (if (match cc with
        | .eq => s.w.rdS a.val == s.w.rdS b.val
        | .ne => s.w.rdS a.val != s.w.rdS b.val
        | .lt => (s.w.rdS a.val).slt (s.w.rdS b.val)
        | .le => (s.w.rdS a.val).sle (s.w.rdS b.val)
        | .gt => (s.w.rdS b.val).slt (s.w.rdS a.val)
        | .ge => (s.w.rdS b.val).sle (s.w.rdS a.val)
        | .ltn => (s.w.rdS a.val).ult (s.w.rdS b.val)
        | .len => (s.w.rdS a.val).ule (s.w.rdS b.val)
        | .gtn => (s.w.rdS b.val).ult (s.w.rdS a.val)
        | .gen => (s.w.rdS b.val).ule (s.w.rdS a.val)) then 1 else 0)))) ∧
  (∀ (s : State) (d a : Reg),
    s.runsTo (.spopc d a) (s.sNext d (BitVec.ofNat 64 ((List.range 64).countP fun i => (s.w.rdS a.val).getLsbD i))) ∧
    (∃ n ≤ 64, (∀ i, 64 - n ≤ i → (s.w.rdS a.val).getLsbD i = false) ∧ (n < 64 → (s.w.rdS a.val).getLsbD (63 - n) = true) ∧
      s.runsTo (.sclz d a) (s.sNext d (BitVec.ofNat 64 n))) ∧
    (∃ n ≤ 64, (∀ i < n, (s.w.rdS a.val).getLsbD i = false) ∧ (n < 64 → (s.w.rdS a.val).getLsbD n = true) ∧
      s.runsTo (.sctz d a) (s.sNext d (BitVec.ofNat 64 n)))) ∧
  (∀ (s : State) (d a b : Reg),
    s.runsTo (.smul d a b) (s.stepOn.flyAll (sFlights (s.now + 3) d (s.w.rdS a.val * s.w.rdS b.val))) ∧
    s.runsTo (.smulh d a b false) (s.stepOn.flyAll (sFlights (s.now + 3) d
      ((((s.w.rdS a.val).signExtend 128 * (s.w.rdS b.val).signExtend 128) >>> 64).setWidth 64))) ∧
    s.runsTo (.smulh d a b true) (s.stepOn.flyAll (sFlights (s.now + 3) d
      ((((s.w.rdS a.val).setWidth 128 * (s.w.rdS b.val).setWidth 128) >>> 64).setWidth 64))))

/-- SADDI, SANDI, SORI, SXORI combine with the sign-extended imm32, SLI writes it, SLIH writes it above the low half of a, SSHLI and SSHRI shift by imm32[5:0], SSHRI.A with the sign; each is written as the next bundle issues. A shift whose imm32[31:6] is nonzero, alone in its bundle outside handler mode, traps ILLOP with detail 4.
(16 R309.) -/
def Obligations.ScalarImmediates : Prop :=
  (∀ (s : State) (d a : Reg) (imm : BitVec 32),
    s.runsTo (.saddi d a imm) (s.sNext d (s.w.rdS a.val + imm.signExtend 64)) ∧
    s.runsTo (.sandi d a imm) (s.sNext d (s.w.rdS a.val &&& imm.signExtend 64)) ∧
    s.runsTo (.sori d a imm) (s.sNext d (s.w.rdS a.val ||| imm.signExtend 64)) ∧
    s.runsTo (.sxori d a imm) (s.sNext d (s.w.rdS a.val ^^^ imm.signExtend 64)) ∧
    s.runsTo (.sli d imm) (s.sNext d (imm.signExtend 64)) ∧
    s.runsTo (.slih d a imm) (s.sNext d ((imm.setWidth 64 <<< 32) ||| (s.w.rdS a.val &&& 0x00000000FFFFFFFF))) ∧
    (∀ n : Fin 64, s.runsTo (.sshli d a n) (s.sNext d (s.w.rdS a.val <<< n.val)) ∧
      s.runsTo (.sshri d a n false) (s.sNext d (s.w.rdS a.val >>> n.val)) ∧
      s.runsTo (.sshri d a n true) (s.sNext d ((s.w.rdS a.val).sshiftRight n.val)))) ∧
  (∀ (s : State) (w : Nat), w < 2 ^ 64 → fld w 48 8 ∈ [0x1E, 0x1F] → 64 ≤ fld w 0 32 → s.calm = true → s.w.hm = false →
    (readBun (w * 2 ^ 192)).issue s = .next (s.trapNow 2 4 8 s.w.pc 0))

/-- SBFX extracts the field at b[5:0] of length min(b[14:8], 64 − p), zero or sign extended (0 for length 0), and SBFI inserts it into c, leaving the bits outside.
(16 R308.) -/
def Obligations.ScalarBitFields : Prop :=
  ∀ (s : State) (d a b : Reg),
    let pos := (s.w.rdS b.val).toNat % 64
    let len := min ((s.w.rdS b.val).toNat / 256 % 128) (64 - pos)
    (∀ sx : Bool, ∃ x : Word,
      (∀ i < 64, x.getLsbD i =
        if i < len then (s.w.rdS a.val).getLsbD (pos + i) else sx && decide (0 < len) && (s.w.rdS a.val).getLsbD (pos + len - 1)) ∧
      s.runsTo (.sbfx d a b sx) (s.sNext d x)) ∧
    (∀ c : Reg, ∃ x : Word,
      (∀ i < 64, x.getLsbD i =
        if pos ≤ i ∧ i < pos + len then (s.w.rdS a.val).getLsbD (i - pos) else (s.w.rdS c.val).getLsbD i) ∧
      s.runsTo (.sbfi d a b c) (s.sNext d x))

/-- SDIV and SREM, signed and unsigned, round towards zero; division by zero gives all ones and a; −2^63 / −1 gives −2^63 and 0. Each holds the core for a number of cycles from 1 to 40 that the rule leaves open, and the result is there for the next bundle.
(16 R307. The number of held cycles is a free value (log 15).) -/
def Obligations.ScalarDivide : Prop :=
  ∀ (s : State) (d a b : Reg) (u : Bool), ∃ n, 1 ≤ n ∧ n ≤ 40 ∧
    s.runsTo (.sdiv d a b u) ((s.sNext d (if s.w.rdS b.val = 0 then BitVec.allOnes 64
      else if u then s.w.rdS a.val / s.w.rdS b.val else (s.w.rdS a.val).sdiv (s.w.rdS b.val))).divided n) ∧
    s.runsTo (.srem d a b u) ((s.sNext d (if s.w.rdS b.val = 0 then s.w.rdS a.val
      else if u then s.w.rdS a.val % s.w.rdS b.val else (s.w.rdS a.val).srem (s.w.rdS b.val))).divided n)

/-- EMSET, EMAND, EMGET move EM within AM; an EXIT that leaves lanes takes its lanes out of AM and EM and closes the sentence, and one without lanes only goes on; one that takes the last lane retires the warp; SGET puts the special register as it stands in flight at latency 2, SSET writes it, in handler mode for the privileged ones.
(16 R310 to R312; 02 R63 to R65.) -/
def Obligations.MasksExitsSpecials : Prop :=
  (∀ (s : State) (d a : Reg),
    s.runsTo (.emset a) (s.stepOn.onW fun w => { w with em := s.w.rdS a.val &&& w.am }) ∧
    s.runsTo (.emand d a) ((s.sNext d s.w.em).onW fun w => { w with em := s.w.em &&& s.w.rdS a.val }) ∧
    s.runsTo (.emget d) (s.sNext d s.w.em)) ∧
  (∀ (s : State) (m : Option Reg),
    let L := match m with
      | some r => s.w.rdS r.val &&& s.w.em
      | none => s.w.em
    (L = 0 → s.w.am ≠ 0 → s.runsTo (.exit m) s.stepOn) ∧
    (L ≠ 0 → s.w.am &&& ~~~L ≠ 0 → s.runsTo (.exit m)
      (s.stepOn.onW fun w => { w with am := w.am &&& ~~~L, em := w.em &&& ~~~L, sepc := 0 }))) ∧
  (∀ (s : State) (m : Option Reg),
    let L := match m with
      | some r => s.w.rdS r.val &&& s.w.em
      | none => s.w.em
    s.w.am &&& ~~~L = 0 → (∀ w ∈ s.warps, w.id ≠ s.w.id) → s.calm = true → s.admits (.exit m) = true →
      ∃ t, exec (.exit m) s = .next t ∧ ∀ w ∈ t.allWarps, w.id = s.w.id → w.run = .retired ∧ w.am = 0 ∧ w.em = 0) ∧
  (∀ (s : State) (d : Reg) (n : BitVec 8), (specialPR n.toNat = true → s.w.hm = true) →
    s.runsTo (.sget d n) ((s.stepOn.flyAll (sFlights (s.now + 2) d (s.special n.toNat))).onW fun w =>
      { w with causeRead := w.causeRead || n == 0x21 })) ∧
  (∀ (s : State) (n : BitVec 8) (a : Reg), (specialP n.toNat = true → s.w.hm = true) →
    s.runsTo (.sset n a) (s.stepOn.onW fun w => w.setSpecial n.toNat (s.w.rdS a.val)))

/-- BR, BC and BZM go to the bundle address + 32 × offset when taken, three cycles on; CALL and CALLR write the link; JR, CALLR and RET go to an aligned register target and owe a landing pad of their kind; LOOP, LOOPI and LOOPX set a level, a count of 0 transfers past its end; a bundle at an active level's end performs the loop-end action.
(16 R313 to R318.) -/
def Obligations.Transfers : Prop :=
  (∀ (s : State) (off : BitVec 32),
    let t := s.w.pc + 32 * off.signExtend 64
    s.runsTo (.br off) (s.jumpTo t) ∧
    (∀ (cc : BCond) (cr : Reg), s.runsTo (.bc cc cr off) (if (match cc with
        | .eqz => s.w.rdS cr.val == 0
        | .nez => s.w.rdS cr.val != 0
        | .ltz => (s.w.rdS cr.val).slt 0
        | .gez => (0 : Word).sle (s.w.rdS cr.val)
        | .gtz => (0 : Word).slt (s.w.rdS cr.val)
        | .lez => (s.w.rdS cr.val).sle 0) then s.jumpTo t else s.stepOn)) ∧
    s.runsTo (.bzm off) (if s.w.em = 0 then s.jumpTo t else s.stepOn)) ∧
  (∀ (s : State) (d a : Reg) (kind : Fin 16) (off : BitVec 32),
    s.runsTo (.call d off) ((s.flyAll (sFlights (s.now + 1) d (s.w.pc + 32))).jumpTo (s.w.pc + 32 * off.signExtend 64)) ∧
    ((s.w.rdS a.val).toNat % 32 = 0 →
      s.runsTo (.jr a kind) ((s.jumpTo (s.w.rdS a.val)).onW fun w => { w with owed := some { kind := kind.val, src := s.w.pc } }) ∧
      s.runsTo (.callr d a kind) (((s.flyAll (sFlights (s.now + 1) d (s.w.pc + 32))).jumpTo (s.w.rdS a.val)).onW fun w =>
        { w with owed := some { kind := kind.val, src := s.w.pc } }) ∧
      s.runsTo (.ret a) ((s.jumpTo (s.w.rdS a.val)).onW fun w => { w with owed := some { kind := 2, src := s.w.pc } }))) ∧
  (∀ (s : State) (lvl : Fin 2),
    (∀ (cr : Reg) (off : BitVec 32),
      let fin := s.w.pc + 32 * off.signExtend 64
      s.runsTo (.loop lvl cr off) ((if s.w.rdS cr.val = 0 then s.jumpTo (fin + 32) else s.stepOn).onW fun w =>
        w.setLoop lvl (s.w.pc + 32) fin (s.w.rdS cr.val))) ∧
    (∀ cnt fin : BitVec 16,
      let e := s.w.pc + 32 * fin.setWidth 64
      s.runsTo (.loopi lvl cnt fin) ((if cnt = 0 then s.jumpTo (e + 32) else s.stepOn).onW fun w =>
        w.setLoop lvl (s.w.pc + 32) e (cnt.setWidth 64))) ∧
    s.runsTo (.loopx lvl) (s.stepOn.onW fun w => if lvl = 0 then { w with lpc0 := 0, lpc1 := 0 } else { w with lpc1 := 0 })) ∧
  (∀ s : State, s.calm = true → ∃ t, exec .cnop s = .next t ∧
    (let at1 := s.w.lpc1 ≠ 0 ∧ s.w.pc = s.w.lpe1
     let at0 := s.w.lpc0 ≠ 0 ∧ s.w.pc = s.w.lpe0
     (at1 → s.w.lpc1 ≠ 1 → t.w.pc = s.w.lps1 &&& ~~~31 ∧ t.w.lpc1 = s.w.lpc1 - 1 ∧ t.w.lpc0 = s.w.lpc0) ∧
     (at1 → s.w.lpc1 = 1 → t.w.lpc1 = 0) ∧
     (¬ at1 → t.w.lpc1 = s.w.lpc1) ∧
     (¬ (at1 ∧ s.w.lpc1 ≠ 1) → at0 → s.w.lpc0 ≠ 1 → t.w.pc = s.w.lps0 &&& ~~~31 ∧ t.w.lpc0 = s.w.lpc0 - 1) ∧
     (¬ (at1 ∧ s.w.lpc1 ≠ 1) → at0 → s.w.lpc0 = 1 → t.w.pc = s.w.pc + 32 ∧ t.w.lpc0 = 0) ∧
     (¬ (at1 ∧ s.w.lpc1 ≠ 1) → ¬ at0 → t.w.pc = s.w.pc + 32 ∧ t.w.lpc0 = s.w.lpc0)))

/-- WAITF goes on when the flag's count is at most the threshold, or all are zero, and waits otherwise; YIELD switches to another eligible warp if there is one, and else goes on, with the quantum begun again where it had ended; BJOIN, BLEAVE and BARV change members and arrivals; BWAIT and BSYNC wait while the warp's phase is not over.
(16 R319 to R323; the quantum is 17 R346 (log 17).) -/
def Obligations.WaitsAndBarriers : Prop :=
  (∀ s : State,
    (∀ a : WaitArg, s.runsTo (.waitf (some a)) (s.stepOn.onW fun w =>
      { w with run := if s.w.rdFlag a.f.val ≤ a.n.val then .ready else .waitF a.f.val a.n.val })) ∧
    s.runsTo (.waitf none) (s.stepOn.onW fun w => { w with run := if s.w.flagsZero then .ready else .waitAll }) ∧
    ((s.stepOn.eligible.filter fun w => w.id != s.w.id) = [] → s.runsTo .yield
      (if s.core.switchReq = true ∨ s.core.qstart + s.w.quant.toNat ≤ s.now then s.stepOn.onCore fun c => { c with qstart := s.now + 1, switchReq := false }
       else s.stepOn)) ∧
    ((s.stepOn.eligible.filter fun w => w.id != s.w.id) ≠ [] → s.calm = true → s.admits .yield = true →
      ∃ t, exec .yield s = .next t ∧ t.w.id ≠ s.w.id ∧ t.core.running = some t.w.id)) ∧
  (∀ (s : State) (a : Reg) (imm : BitVec 32),
    let b := (s.w.rdS a.val + imm.setWidth 64).toNat
    b < s.co.nbars →
    s.runsTo (.bjoin a imm) (s.onBar b fun x => x.join s.w.warpIdx).stepOn ∧
    s.runsTo (.bleave a imm) (s.onBar b fun x => x.leave s.w.warpIdx).stepOn ∧
    (s.w.warpIdx ∈ (s.barAt b).mem → s.runsTo (.barv a imm) (s.onBar b s.arriveAt).stepOn)) ∧
  (∀ (s : State) (a : Reg) (imm : BitVec 32),
    let b := (s.w.rdS a.val + imm.setWidth 64).toNat
    b < s.co.nbars → s.co.cid = s.w.cid → s.co.cid ≠ 0 →
    s.runsTo (.bwait a imm) (s.waitAt b) ∧
    (s.w.warpIdx ∈ (s.barAt b).mem → s.runsTo (.bsync a imm) ((s.onBar b s.arriveAt).waitAt b)))

/-- SENT records SEPC, EM, AM and the loop registers after its loop-end action, with count 0; SENT.CLOSE makes SEPC 0; STEP raises the context's step to the greater; TFRD and TFWR reach the frame word in handler mode, words from 801 on read zero and are not written; HALTW halts the warp and tells Caddy its address.
(16 R325, R327, R330, R331. That word 1 keeps only its defined fields is log 26.) -/
def Obligations.SentencesFrameHalt : Prop :=
  (∀ s : State,
    s.runsTo .sent (s.stepOn.onW fun w =>
      { w with
        sepc := (s.w.loopEnd s.w.pc).2.getD (s.w.pc + 32),
        sent := { em := w.em, am := w.am, lps0 := w.lps0, lpe0 := w.lpe0, lpc0 := w.lpc0, lps1 := w.lps1, lpe1 := w.lpe1,
                  lpc1 := w.lpc1, count := 0 } }) ∧
    s.runsTo .sentClose (s.stepOn.onW fun w => { w with sepc := 0 }) ∧
    (∀ a : Reg, s.runsTo (.step a) (s.onXl fun x =>
      { x with
        ctxs := upd (·.id == s.w.ctx) (fun c => { c with stepc := if c.stepc.ult (s.w.rdS a.val) then s.w.rdS a.val else c.stepc }) x.ctxs }).stepOn)) ∧
  (∀ s : State, (∀ w ∈ s.warps, w.id ≠ s.w.id) → s.calm = true → s.admits .haltw = true →
    ∃ t, exec .haltw s = .next t ∧ (∀ w ∈ t.allWarps, w.id = s.w.id → w.run = .halted) ∧
      t.host.notes = s.host.notes ++ [.halted s.w.id s.w.pc.toNat]) ∧
  (∀ (s : State) (d a : Reg) (imm : BitVec 32), s.w.hm = true →
    let ix := (s.w.rdS a.val + imm.setWidth 64).toNat
    s.runsTo (.tfrd d a imm) ((s.stepOn.flyAll (sFlights (s.now + 2) d (if ix < 801 then tget 0 s.w.frame ix else 0))).onW fun w =>
      { w with causeRead := w.causeRead || ix == 1 }) ∧
    s.runsTo (.tfwr d a imm) (s.stepOn.onW fun w =>
      if ix < 801 then { w with frame := tset 0 w.frame ix (if ix = 1 then s.w.rdS d.val &&& 0x001FFFFFFFFF0FFF else s.w.rdS d.val) } else w))

/-- LLD, LST, LLDS and LSTS run on aligned offsets in the local space, with no bank in transition and no soft error in the banks, and hold the core for the conflicts of their banks; a store lands four cycles later, byte by byte, the highest lane winning, and no other byte of scratch changes; PHASE reconfigures a sum that fits and counts the FIFO records it discards, L1INV empties the L1, GLDC and SLDC whose lines stand in the L1 give the line's bytes at latency 24.
(08 R146 to R150, R153, R157; 06 R110 to R119.) -/
def Obligations.LocalAccessAndL1 : Prop :=
  (∀ (s : State) (d : Reg) (w : Width), s.co.drain = none → s.co.bad = [] →
    (∀ a : LAddr, (∀ p ∈ s.w.laneAddrs a, p.va.toNat % wBytes w = 0 ∧ p.va.toNat + wBytes w ≤ 16384 * s.co.ns) →
      (∀ (le : Bool) (xn : Fin 8), s.runsTo (.lld d w a le xn)
        ((s.vLoad 6 d w le xn s.w.em fun l => leNat (tgets 0 s.co.scratch (s.w.laneAddr a l).toNat (wBytes w))).heldFor
          (conflict false (wBytes w) (s.w.laneAddrs a) - 1)).stepOn) ∧
      s.runsTo (.lst d w a)
        ((s.store (storeBytes (wBytes w) (s.w.laneAddrs a) (s.w.laneBytes d.val (regCount w)))).heldFor
          (conflict false (wBytes w) (s.w.laneAddrs a) - 1)).stepOn) ∧
    (∀ (sb : Reg) (imm : BitVec 16),
      let o := (s.w.rdS sb.val + imm.signExtend 64).toNat
      o % wBytes w = 0 → o + wBytes w ≤ 16384 * s.co.ns →
      s.runsTo (.llds d w sb imm) (s.flyAll (sFlights (s.now + 6) d (BitVec.ofNat 64 (leNat (tgets 0 s.co.scratch o (wBytes w)))))).stepOn ∧
      s.runsTo (.lsts d w sb imm) (s.store ((leBytes (wBytes w) (s.w.rdS d.val).toNat).zipIdx.map fun q => (o + q.2, q.1))).stepOn)) ∧
  (∀ (s : State) (d : Reg) (w : Width) (a : LAddr), s.co.drain = none → tok 0 s.co.scratch = true →
    let ws := storeBytes (wBytes w) (s.w.laneAddrs a) (s.w.laneBytes d.val (regCount w))
    let co := (s.store ws).co
    (∀ x, tget 0 co.scratch x = tget 0 s.co.scratch x) ∧
    (s.co.stores = [] → ∀ x,
      ((∀ p ∈ s.w.laneAddrs a, ¬ (p.va.toNat ≤ x ∧ x < p.va.toNat + wBytes w)) →
        tget 0 (co.applyStores (s.now + 4)).scratch x = tget 0 s.co.scratch x) ∧
      (∀ p ∈ s.w.laneAddrs a, ∀ i < wBytes w, x = p.va.toNat + i →
        (∀ q ∈ s.w.laneAddrs a, q.va.toNat ≤ x → x < q.va.toNat + wBytes w → q.lane ≤ p.lane) →
        tget 0 (co.applyStores (s.now + 4)).scratch x =
          BitVec.ofNat 8 (s.w.laneBytes d.val (regCount w) p.lane / 256 ^ i)))) ∧
  (∀ s : State,
    (∀ imm : BitVec 16,
      let ns := imm.toNat % 32
      let nf := imm.toNat / 32 % 32
      let nl := imm.toNat / 1024 % 32
      ns + nf + nl = s.co.banks → s.co.drain = none →
      s.runsTo (.phase imm) ((s.onCore fun c => { c with ctr := { c.ctr with fifoLost := c.ctr.fifoLost + s.co.discarded ns nf } }).onCo fun co =>
        co.reconfigure ns nf nl s.now).stepOn) ∧
    s.runsTo .l1inv (s.onCo fun co => { co with l1 := [], bad := co.bad.filter outsideL1 }).stepOn) ∧
  (∀ (s : State) (k : MHead) (d : Reg) (w : Width),
    (∀ l : List LaneAt, (∀ p ∈ l, s.l1Hit (wBytes w) p.va) → s.core.fenced s.w.id k.cls.val s.nextId false = false →
      s.core.classBusy s.w.id k.cls.val s.nextId = false → s.co.drain = none → s.co.bad = [] →
      (∀ (a : LAddr) (le : Bool) (xn : Fin 8), l = s.w.laneAddrs a → s.runsTo (.gldc k d w a le xn)
        ((s.fillLanes l).vLoad 24 d w le xn s.w.em fun i => if s.w.em.getLsbD i then s.l1Value (wBytes w) (s.w.laneAddr a i) else 0).stepOn) ∧
      (∀ (sb : Reg) (imm : BitVec 16), l = [{ lane := 0, va := s.w.rdS sb.val + imm.signExtend 64 }] → s.runsTo (.sldc k d w sb imm)
        ((s.fillLanes l).flyAll (sFlights (s.now + 24) d (BitVec.ofNat 64 (s.l1Value (wBytes w) (s.w.rdS sb.val + imm.signExtend 64))))).stepOn)))

/-- LATOM and LCAS give each lane the old value and perform in lane order; with no bank in transition QENQ appends the granules of its lanes, QDEQ takes the oldest at latency 6, QSTAT gives the count and OVF and clears OVF; a QENQ that does not fit or a QDEQ of too little holds the bundle with code 7 and commits nothing.
(08 R147, R148; 06 R116 to R118; 17 R348. That a QENQ's block stands in the FIFO from its issue is log 56.) -/
def Obligations.LocalAtomicsAndFifos : Prop :=
  (∀ (s : State) (d : Reg) (w : Width) (a : GAddr),
    (∀ p ∈ s.w.laneAddrs (fullAddr a), p.va.toNat % wBytes w = 0 ∧ p.va.toNat + wBytes w ≤ 16384 * s.co.ns) →
    (∀ op : Aop, s.runsTo (.latom d w a op) (s.localAtomic d w a fun i old =>
      some (aopVal op (8 * wBytes w) old (s.w.laneBytes d.val (regCount w) i))).stepOn) ∧
    s.runsTo (.lcas d w a) (s.localAtomic d w a fun i old =>
      if old = s.w.laneBytes d.val (regCount w) i then some (s.w.laneBytes (d.val + regCount w) (regCount w) i) else none).stepOn) ∧
  (∀ (s : State) (d : Reg) (w : Width) (sb : Reg) (imm : BitVec 16), s.co.drain = none → s.co.bad = [] →
    let q := (s.w.rdS sb.val + imm.signExtend 64).toNat
    let f := s.co.fifo q
    q < s.co.nf →
    (f.q.length + wBytes w ≤ 256 → s.runsTo (.qenq d w sb imm) (s.onCo fun co => co.setFifo q
      { f with q := f.q ++ granulesOf (wBytes w) ((List.range 64).flatMap fun l =>
          leBytes (wBytes w) (if s.w.em.getLsbD l then s.w.laneBytes d.val (regCount w) l else 0)) }).stepOn) ∧
    (∀ (le : Bool) (xn : Fin 8), wBytes w ≤ f.q.length → s.runsTo (.qdeq d w sb imm le xn)
      ((s.vLoad 6 d w le xn s.w.em fun l => leNat (((f.q.take (wBytes w)).flatten.drop (l * wBytes w)).take (wBytes w))).onCo fun co =>
        co.setFifo q { f with q := f.q.drop (wBytes w) }).stepOn) ∧
    s.runsTo (.qstat d sb imm) ((s.flyAll (sFlights (s.now + 6) d (BitVec.ofNat 64 (f.q.length + 65536 * f.ovf.toNat)))).onCo fun co =>
      co.setFifo q { f with ovf := false }).stepOn) ∧
  (∀ (s : State) (d : Reg) (w : Width) (sb : Reg) (imm : BitVec 16) (le : Bool) (xn : Fin 8),
    let q := (s.w.rdS sb.val + imm.signExtend 64).toNat
    let held := { s with core := { s.core with hold := some { code := 7, len := 1, wid := s.w.id, pc := s.w.pc }, held := s.core.held + 1 } }
    s.calm = true → s.core.hold = none → s.core.paused = none → s.co.drain = none → q < s.co.nf →
    (256 < (s.co.fifo q).q.length + wBytes w → s.admits (.qenq d w sb imm) = true → exec (.qenq d w sb imm) s = .next held) ∧
    ((s.co.fifo q).q.length < wBytes w → s.admits (.qdeq d w sb imm le xn) = true → exec (.qdeq d w sb imm le xn) s = .next held))

/-- GLD, GST, GATOM, GRED, GCAS, SGLD, SGST and SIGNAL, where every lane is aligned and its translation stands in the core's TLB and permits the access, count their flag and become an operation of the core with each lane's place and data; one without lanes becomes an empty operation that only counts its flag.
(08 R141 to R145, R149, R151, R152, R158.) -/
def Obligations.GlobalAccessIssues : Prop :=
  ∀ (s : State) (k : MHead) (d : Reg) (w : Width),
    (∀ a : GAddr,
      let l := s.w.laneAddrs (fullAddr a)
      let data := fun i => s.w.laneBytes d.val (regCount w) i % 2 ^ (8 * wBytes w)
      ((∀ p ∈ l, s.canReach (wBytes w) [1] p.va) → ∀ f : FlagNo, s.flagRoom (some f) →
        s.runsTo (.gld k f d w a) (s.issues (.load d.val false) k (some f) w [1] l (fun _ => 0) fun _ => 0).stepOn) ∧
      ((∀ p ∈ l, s.canReach (wBytes w) [2] p.va) → ∀ f : Option FlagNo, s.flagRoom f →
        s.runsTo (.gst k f d w a) (s.issues .store k f w [2] l data fun _ => 0).stepOn) ∧
      ((∀ p ∈ l, s.canReach (wBytes w) [1, 2, 3] p.va) →
        (∀ (f : FlagNo) (op : Aop), s.flagRoom (some f) →
          s.runsTo (.gatom k f d w a op) (s.issues (.atom op (some d.val)) k (some f) w [1, 2, 3] l data fun _ => 0).stepOn) ∧
        (∀ (f : Option FlagNo) (op : Aop), s.flagRoom f →
          s.runsTo (.gred k f d w a op) (s.issues (.atom op none) k f w [1, 2, 3] l data fun _ => 0).stepOn) ∧
        (∀ f : FlagNo, s.flagRoom (some f) →
          s.runsTo (.gcas k f d w a) (s.issues (.cas d.val) k (some f) w [1, 2, 3] l (fun i => s.w.laneBytes d.val (regCount w) i)
            fun i => s.w.laneBytes (d.val + regCount w) (regCount w) i).stepOn))) ∧
    (∀ (sb : Reg) (imm : BitVec 16),
      let va := s.w.rdS sb.val + imm.signExtend 64
      let l : List LaneAt := [{ lane := 0, va := va }]
      (s.canReach (wBytes w) [1] va → ∀ f : FlagNo, s.flagRoom (some f) →
        s.runsTo (.sgld k f d w sb imm) (s.issues (.load d.val true) k (some f) w [1] l (fun _ => 0) fun _ => 0).stepOn) ∧
      (s.canReach (wBytes w) [2] va → ∀ f : Option FlagNo, s.flagRoom f →
        s.runsTo (.sgst k f d w sb imm)
          (s.issues .store k f w [2] l (fun _ => (s.w.rdS d.val).toNat % 2 ^ (8 * wBytes w)) fun _ => 0).stepOn) ∧
      (s.canReach 8 [1, 2, 3] va → ∀ (f : Option FlagNo) (op : Aop), s.flagRoom f →
        s.runsTo (.signal k f d sb imm op) (s.issues (.signal op) k f .w64 [1, 2, 3] l (fun _ => (s.w.rdS d.val).toNat) fun _ => 0).stepOn))

/-- FENCE, WCFL, QUIET, PGFETCH, LAUNCH, HINT and XINV count their flag and become an operation with their operands, a FENCE marking the lane stores before it and waiting for what the warp's barriers ordered before it; SARM arms a free slot on a mapped word, SARM_OFF frees, SACK retires the oldest pending record of the warp's cohort or counts a stray; PREF issues for the lanes that can be fetched and drops the others.
(08 R154 to R166; 07 R127, R133; 16 R324. That a misaligned lane of PREF is dropped is log 53; that a warp-scope FENCE of any kind marks the lane stores is log 23.) -/
def Obligations.OrderingAndSignals : Prop :=
  (∀ (s : State) (f : FlagNo) (o : Option FlagNo) (d sb : Reg) (imm : BitVec 16),
    let va := s.w.rdS sb.val + imm.signExtend 64
    (s.flagRoom o → ∀ (kind : FenceKind) (sc : Scope),
      s.runsTo (.fence kind sc o imm) (((s.flagUp o).fenceStores sc).addOp
        { s.newOp (.fence kind imm) 0 sc o .w32 [] with waits := if sc = .warp then [] else s.w.syncs }).stepOn) ∧
    (s.flagRoom (some f) →
      s.runsTo (.wcfl f) ((s.flagUp (some f)).addOp (s.newOp .wcfl 0 .fab (some f) .w32 [])).stepOn ∧
      s.runsTo (.quiet f d) ((s.flagUp (some f)).addOp (s.newOp (.quiet d.val) 0 .fab (some f) .w64 [])).stepOn ∧
      (s.w.hm = true → ∀ kind : PgKind,
        s.runsTo (.pgfetch f kind d sb imm) ((s.flagUp (some f)).addOp (s.newOp (.pgfetch d.val kind va.toNat) 0 .fab (some f) .w64 [])).stepOn) ∧
      (va.toNat % 64 = 0 → va.toNat + 64 ≤ 16384 * s.co.ns → s.co.drain = none → s.co.bad = [] →
        s.runsTo (.launch f d sb imm) ((s.flagUp (some f)).addOp (s.newOp (.launch d.val (s.w.rdS d.val).toNat
          ((List.range 8).map fun i => BitVec.ofNat 64 (leNat (tgets 0 (s.co.seen s.now).scratch (va.toNat + 8 * i) 8)))) 0 .fab (some f) .w64 [])).stepOn)) ∧
    (s.flagRoom o →
      (∀ sh : Reg, s.runsTo (.hint o d sb sh imm) ((s.flagUp o).addOp (s.newOp (.hint va.toNat (s.w.rdS d.val).toNat
        ((s.w.rdS sh.val).toNat / 2 ^ 61) ((s.w.rdS sh.val).toNat % 2 ^ 61)) 0 .fab o .w64 [])).stepOn) ∧
      (s.w.hm = true →
        s.runsTo (.xinv o d sb imm) ((s.flagUp o).addOp (s.newOp (.xinv va.toNat (s.w.rdS d.val).toNat) 0 .fab o .w64 [])).stepOn))) ∧
  (∀ (s : State) (sb : Reg) (imm : BitVec 16),
    let va := s.w.rdS sb.val + imm.signExtend 64
    let own := s.ownSig va.toNat
    (∀ (q : Fin 16) (pa : Nat) (v : Word), va.toNat % 8 = 0 → s.xlate s.w.ctx va.toNat [] = .ok (.main pa) v → q.val < s.co.nf →
      (∀ g ∈ s.allSigs, g.pa = some pa → g.cid = s.co.cid) → s.core.sigs.length < 16 → s.core.sigs.any own = false →
      s.runsTo (.sarm q sb imm) ((s.fillLanes [{ lane := 0, va := va }]).onCore fun c => { c with sigs := c.sigs ++
        [{ cid := s.co.cid, ctx := s.w.ctx, va := va.toNat, pa := some pa, q := q.val, wait := [], pend := [] }] }).stepOn) ∧
    s.runsTo (.sarmOff sb imm) (s.freeSigs own).stepOn ∧
    ((∀ g, s.core.sigs.find? own = some g → g.pend = []) → s.runsTo (.sack sb imm)
      (s.onCore fun c => { c with ctr := { c.ctr with straySack := c.ctr.straySack + 1 } }).stepOn) ∧
    (∀ (g : SigSlot) (j : Option Nat) (l : List (Option Nat)), s.core.sigs.find? own = some g → g.pend = j :: l → s.runsTo (.sack sb imm)
      ((s.onCore fun c => { c with sigs := upd own (fun g => { g with pend := g.pend.tail }) c.sigs }).addOp
        (s.newOp (.sack j) 0 .fab none .w64 [])).stepOn) ∧
    (∀ (w : Width) (a : LAddr),
      let l := s.prefLanes w (s.w.laneAddrs a)
      (l = [] → s.runsTo (.pref w a) s.stepOn) ∧ (l ≠ [] → s.runsTo (.pref w a) (s.addOp (s.newOp .pref 0 .dev none w l)).stepOn)))

/-- CPYGL, CPYLG, CPYLL, CPYGG, CPYFIL in both forms and CPYP, where the warp has fewer than 4 copies and the core fewer than 16 active ones and the operands pass the checks at issue, count their flag and add one active copy with nothing moved.
(09 R168, R173 to R190.) -/
def Obligations.CopiesStart : Prop :=
  ∀ (s : State) (k : MHead) (f : FlagNo) (sa sd sg sx : Reg),
    s.flagRoom (some f) → (s.core.copies.filter fun c => c.susp.isNone).length < 16 →
    (s.core.copies.filter fun c => c.wid == s.w.id).length < 4 →
    let fine := fun c : Copy => c.misalign = none ∧ c.beyond (16384 * s.co.ns) = none ∧ c.badGeo = false
    let after := fun c : Copy => ((s.flagUp (some f)).onCore fun q => { q with copies := q.copies ++ [c] }).bump.stepOn
    let gl := s.theCopy .gl k f sa sd sg sx 0
    let lg := s.theCopy .lg k f sa sd sg sx 0
    let ll := s.theCopy .ll { cls := 0, sc := .core } f sa sd sg sx 0
    (fine gl → s.runsTo (.cpygl k f sa sd sg sx) (after gl)) ∧
    (fine lg → s.runsTo (.cpylg k f sa sd sg sx) (after lg)) ∧
    (fine ll → s.runsTo (.cpyll f sa sd sg sx) (after ll)) ∧
    (∀ pk : Bool, let c := s.theCopy (.gg pk) k f sa sd sg sx 0
      fine c → s.runsTo (.cpygg k f sa sd sg sx pk) (after c)) ∧
    (∀ (imm : BitVec 16) (hi : Bool),
      (let c := s.theCopy (.fil true hi) k f 0 sd sg sx imm
       fine c → s.runsTo (.cpyfil f sd sg imm hi (some { k := k, sx := sx })) (after c)) ∧
      (let c := s.theCopy (.fil false hi) { cls := 0, sc := .core } f 0 sd sg 0 imm
       fine c → s.runsTo (.cpyfil f sd sg imm hi none) (after c))) ∧
    (∀ (g : Gang) (n : BitVec 16) (ch : Channel), s.sch.gangs.find? (fun x => x.uid == s.co.gang) = some g →
      g.chans[n.toNat]? = some ch → ch.src < g.size → ch.dst < g.size → ch.src = s.co.idx →
      let c := s.theCopy (.p n.toNat) { cls := 0, sc := .core } f sa 0 sg 0 0
      fine c → s.runsTo (.cpyp f sa sg n) (after c))

/-- TALLOC answers its status and binds one of the free slots two cycles on; TFREE, TDESC, TSETD and THAND act on a bound handle, TTAKE on an unbound one; of the instructions that need a bound handle those that the statement lists trap on an unbound one; VTRD reads words of the slot, VTWR writes them four cycles on; TLD and TST enter the queue.
(10 R196 to R208; 12 R242; 14 R265 to R267. Which free slot TALLOC takes is a free choice (log 25).) -/
def Obligations.HandlesAndTiles : Prop :=
  (∀ (s : State) (hd a st : Reg),
    let x := s.w.rdS a.val
    let answer := fun n : Nat => s.flyAll (sFlights (s.now + 2) st (BitVec.ofNat 64 n))
    let later := fun (t : State) (n : Nat) (act : HAct) => t.onW fun w => { w with hpend := w.hpend ++ [{ due := s.now + n, act := act }] }
    ((s.w.slotOf hd.val).isNone = true → s.w.binding hd.val = false →
      let d := descOf x
      (d.wellFormed = false → s.runsTo (.talloc hd a st) (answer 3).stepOn) ∧
      (d.wellFormed = true → d.fits = false → s.runsTo (.talloc hd a st) (answer 2).stepOn) ∧
      (d.wellFormed = true → d.fits = true → s.freeSlots d.acc = [] → s.runsTo (.talloc hd a st) (answer 0).stepOn) ∧
      (d.wellFormed = true → d.fits = true → s.freeSlots d.acc ≠ [] → ∃ n ∈ s.freeSlots d.acc,
        s.runsTo (.talloc hd a st) { later ((answer 1).onCore fun c =>
          { c with slots := tset TSlot.free c.slots n { tget TSlot.free c.slots n with taken := true, desc := x } }) 2 (.bind hd.val n) with
            freeCtr := s.freeCtr + 1 }.stepOn) ∧
      (let n := tget 0 s.w.mail (x.toNat % 16)
       (n = 0 → s.runsTo (.ttake hd a st) (answer 0).stepOn) ∧
       (n ≠ 0 → s.runsTo (.ttake hd a st)
        (later ((answer 1).onW fun w => { w with mail := tset 0 w.mail (x.toNat % 16) 0 }) 2 (.bind hd.val (n - 1))).stepOn))) ∧
    (∀ n : Nat, s.w.slotOf hd.val = some n →
      s.runsTo (.tfree hd) ((later s 1 (.unbind hd.val)).onCore fun c => c.release (s.now + 1) n).stepOn ∧
      s.runsTo (.tdesc hd st) (s.flyAll (sFlights (s.now + 2) st (s.slotAt n).desc)).stepOn ∧
      (let d := descOf x
       d.wellFormed = true → d.fits = true → d.acc = (descOf (s.slotAt n).desc).acc → s.busy n = false →
        s.runsTo (.tsetd hd a) (later s 2 (.setDesc n x)).stepOn) ∧
      (∀ p : Warp, s.peer (x.toNat % 16) = some p → tget 0 p.mail (x.toNat / 256 % 16) = 0 →
        s.runsTo (.thand hd a) ((later s 1 (.unbind hd.val)).mapWarps
          (fun w => w.cid == s.w.cid && w.warpIdx == x.toNat % 16)
          fun w => { w with mail := tset 0 w.mail (x.toNat / 256 % 16) (n + 1) }).stepOn))) ∧
  (∀ (s : State) (hd a b : Reg) (h : VHead) (o p : Opd),
    s.w.slotOf hd.val = none → s.w.hm = false → s.calm = true →
    (∀ i ∈ [Instr.tfree hd, .tdesc hd a, .tsetd hd a, .thand hd a, .mzero none hd, .msca none hd a, .mcvt none .f16 hd a,
        .tld none hd a b false], s.admits i = true → exec i s = .next (s.trapNow 8 1 4 (BitVec.ofNat 64 hd.val) 0)) ∧
    (s.admits (.vtrd h hd o) = true → exec (.vtrd h hd o) s = .next (s.trapNow 8 1 1 (BitVec.ofNat 64 hd.val) 0)) ∧
    (h.d.reg = hd → s.admits (.vtwr h o p) = true → exec (.vtwr h o p) s = .next (s.trapNow 8 1 1 (BitVec.ofNat 64 hd.val) 0))) ∧
  (∀ (s : State) (h : VHead) (hd : Reg) (a b : Opd) (n : Nat),
    s.w.slotOf hd.val = some n → (s.w.lanesS h.nm = 0 ∨ s.busy n = false) → (s.slotAt n).bad = [] →
    s.runsTo (.vtrd h hd b) (s.vOut 6 h.d (s.w.lanesS h.nm) fun l =>
      BitVec.ofNat 32 (leNat (tgets 0 (s.slotAt n).bytes (4 * (((s.w.opd .n32 b l).toNat + l) % 1024)) 4))).stepOn ∧
    (h.d.reg = hd → s.runsTo (.vtwr h a b)
      (if s.w.lanesS h.nm = 0 then s
       else s.onCore fun c => { c with vtw := c.vtw ++ [{ due := s.now + 4, slot := n, words := (lanesOf (s.w.lanesS h.nm)).map fun l =>
        (((s.w.opd .n32 b l).toNat + l) % 1024, s.w.opd h.et a l) }] }).stepOn)) ∧
  (∀ (s : State) (f : Option FlagNo) (g : FlagNo) (hd base pit : Reg) (tr : Bool) (d : Desc),
    s.descOfH hd = some d → s.core.mxq.length < 8 →
    let b := (s.w.rdS base.val).toNat
    let rp := (s.w.rdS pit.val).toNat % 2 ^ 32
    let so := (s.w.rdS pit.val).toNat / 2 ^ 32
    b % d.esz = 0 → rp % d.esz = 0 → ¬ (tr = true ∧ d.fmt = 4) → tileBeyond d b rp so tr (16384 * s.co.ns) = none →
    (s.flagRoom f → s.runsTo (.tld f hd base pit tr)
      ((s.flagUp f).enqueue (s.newEntry (.tld f hd base pit tr) f (some hd.val) none none b (s.w.rdS pit.val))).stepOn) ∧
    (s.flagRoom (some g) → s.runsTo (.tst g hd base pit tr)
      ((s.flagUp (some g)).enqueue (s.newEntry (.tst g hd base pit tr) (some g) (some hd.val) none none b (s.w.rdS pit.val))).stepOn))

/-- MZERO, MHFA, MBMM, MSCA, MHAD, MDRN, MCVT, MADD, MSCL and MSETD, with handles bound to descriptors that fit the instruction and a queue with room, count their flag and add one entry with the slots, descriptors and budgets captured, MSETD with s[ha][15:0].
(13 R245 to R250; 14 R263 to R279.) -/
def Obligations.MatrixEntries : Prop :=
  ∀ (s : State) (f : Option FlagNo) (et : MType) (hd ha hb sa : Reg) (d a b : Desc),
    s.flagRoom f → s.core.mxq.length < 8 →
    s.descOfH hd = some d → s.descOfH ha = some a → s.descOfH hb = some b →
    let enters := fun (i : Instr) (h2 h3 : Option Nat) => s.runsTo i ((s.flagUp f).enqueue (s.newEntry i f (some hd.val) h2 h3 0 0)).stepOn
    let fmt := match et with
      | .f16 => 0
      | .b16 => 1
      | .f32 => 2
      | .i32 => 3
      | .block => 4
    let same := a.rows = d.rows ∧ a.cols = d.cols
    let inside := fun (win : Option Win) (m : Nat) => ∀ v ∈ win, a.halo = true ∧ 0 ≤ v.dx.toInt ∧ 0 ≤ v.dy.toInt ∧
      v.dx.toInt + a.ow - 1 < a.gw ∧ v.dy.toInt + ((m - 1) / a.ow : Nat) < (a.rows / a.gw : Nat)
    enters (.mzero f hd) none none ∧
    (d.fmt = fmt → (if d.kax then d.rows else d.cols) % 16 = 0 → enters (.mhad f et hd) none none) ∧
    (d.acc = true → d.fmt = 2 → a.acc = true → a.fmt = 3 → same → enters (.msca f hd ha) (some ha.val) none) ∧
    (∀ blk : Fin 16, d.fmt = 4 → d.kax = false → a.rows = d.rows → a.acc = true → a.fmt = 2 → 16 * blk.val + 15 < a.cols →
      enters (.mdrn f hd ha blk) (some ha.val) none) ∧
    (d.fmt = fmt → a.fmt ≠ 4 → same → enters (.mcvt f et hd ha) (some ha.val) none) ∧
    (d.acc = true → d.fmt = fmt → a.acc = true → a.fmt = fmt → same → enters (.madd f et hd ha) (some ha.val) none) ∧
    (∀ row : Bool, d.acc = true → d.fmt = 2 → a.acc = true → a.fmt = 2 →
      (if row then a.rows = d.rows ∧ a.cols = 1 else a.rows = 1 ∧ a.cols = d.cols) →
      enters (.mscl f hd ha row) (some ha.val) none) ∧
    (∀ (x32 : Bool) (win : Option Win), let m := if x32 then 32 else 16
      d.acc = true → d.fmt = 2 → m ≤ d.rows → m ≤ d.cols →
      a.fmt = fmt → a.kax = false → 16 ≤ a.cols → (win = none → m ≤ a.rows) → inside win m →
      b.fmt = fmt → b.kax = true → 16 ≤ b.rows → m ≤ b.cols →
      enters (.mhfa f et hd ha hb x32 win) (some ha.val) (some hb.val)) ∧
    (∀ (rg : RungSel) (win : Option Win), d.acc = true → d.fmt = 3 → d.rows ≤ 32 → d.cols ≤ 32 →
      a.fmt = 4 → a.kax = false → (win = none → d.rows ≤ a.rows) → inside win d.rows →
      b.fmt = 4 → b.kax = true → d.cols ≤ b.cols →
      enters (.mbmm f rg hd ha hb win) (some ha.val) (some hb.val)) ∧
    s.runsTo (.msetd f sa) ((s.flagUp f).enqueue (s.newEntry (.msetd f sa) f none none none ((s.w.rdS sa.val).toNat % 65536) 0)).stepOn

/-- Outside handler mode: RFT, TFRD, TFWR, PGFETCH, XINV and the privileged special registers trap PRIV; a misaligned register target traps CFLOW 1; a barrier beyond the cohort's traps PERM 8 and an arrival by a non-member PERM 9; a PHASE whose sum is wrong traps ILLOP 4; a FIFO operation beyond the banks traps PERM 5; a misaligned scalar access traps ALIGN with its address.
(02 R65; 16 R314, R321, R322; 06 R119; 08 R143, R148; 18 Table 18.1. Word 2 of PERM 9 is log 26.) -/
def Obligations.OperandChecksTrap : Prop :=
  (∀ s : State, s.w.hm = false → s.calm = true →
    let traps := fun (i : Instr) (slots : Nat) => s.admits i = true → exec i s = .next (s.trapNow 3 0 slots s.w.pc 0)
    (∀ (d a b : Reg) (imm : BitVec 32), traps (.tfrd d a imm) 8 ∧ traps (.tfwr b a imm) 8) ∧ traps .rft 8 ∧
    (∀ (d a : Reg) (n : BitVec 8), (n ∈ [0x25#8, 0x26#8, 0x2A#8] → traps (.sget d n) 8) ∧
      (n ∈ [0x25#8, 0x26#8, 0x27#8, 0x2A#8] → traps (.sset n a) 8)) ∧
    (∀ (f : FlagNo) (o : Option FlagNo) (k : PgKind) (d sb : Reg) (imm : BitVec 16),
      traps (.pgfetch f k d sb imm) 2 ∧ traps (.xinv o d sb imm) 2)) ∧
  (∀ s : State, s.w.hm = false → s.calm = true →
    let traps := fun (i : Instr) (code detail slots : Nat) (w2 : Word) => s.admits i = true → exec i s = .next (s.trapNow code detail slots w2 0)
    (∀ (a d : Reg) (k : Fin 16), (s.w.rdS a.val).toNat % 32 ≠ 0 →
      traps (.jr a k) 4 1 8 (s.w.rdS a.val) ∧ traps (.callr d a k) 4 1 8 (s.w.rdS a.val) ∧ traps (.ret a) 4 1 8 (s.w.rdS a.val)) ∧
    (∀ (a : Reg) (imm : BitVec 32), let b := s.w.rdS a.val + imm.setWidth 64
      (s.co.nbars ≤ b.toNat → ∀ i ∈ [Instr.bjoin a imm, .bleave a imm, .barv a imm, .bwait a imm, .bsync a imm], traps i 7 8 8 b) ∧
      (b.toNat < s.co.nbars → s.w.warpIdx ∉ (s.barAt b.toNat).mem → ∀ i ∈ [Instr.barv a imm, .bsync a imm], traps i 7 9 8 b)) ∧
    (∀ imm : BitVec 16, imm.toNat % 32 + imm.toNat / 32 % 32 + imm.toNat / 1024 % 32 ≠ s.co.banks → traps (.phase imm) 2 4 2 s.w.pc) ∧
    (∀ (d sb : Reg) (w : Width) (imm : BitVec 16) (le : Bool) (xn : Fin 8), let q := s.w.rdS sb.val + imm.signExtend 64
      s.co.nf ≤ q.toNat → ∀ i ∈ [Instr.qenq d w sb imm, .qdeq d w sb imm le xn, .qstat d sb imm], traps i 7 5 2 q)) ∧
  (∀ (s : State) (d : Reg) (w : Width) (sb : Reg) (imm : BitVec 16),
    let va := s.w.rdS sb.val + imm.signExtend 64
    va.toNat % wBytes w ≠ 0 → s.w.hm = false → s.calm = true →
    (va.toNat + wBytes w ≤ 16384 * s.co.ns →
      (s.admits (.llds d w sb imm) = true → exec (.llds d w sb imm) s = .next (s.trapNow 5 1 2 va 0)) ∧
      (s.admits (.lsts d w sb imm) = true → exec (.lsts d w sb imm) s = .next (s.trapNow 5 1 2 va 0))) ∧
    (∀ (k : MHead) (f : FlagNo), s.admits (.sgld k f d w sb imm) = true → exec (.sgld k f d w sb imm) s = .next (s.trapNow 5 1 2 va 0)) ∧
    (∀ (k : MHead) (f : Option FlagNo), s.admits (.sgst k f d w sb imm) = true → exec (.sgst k f d w sb imm) s = .next (s.trapNow 5 1 2 va 0)))

/-- A trap of the bundle under issue sets HM, puts the warp at TVEC three cycles on, makes EM := AM, clears the latches and loop counts, exchanges s62 and HSP and leaves the other scalars, and saves pc, cause word, details, EM, AM, WSW, the loop registers, SEPC, the latches and the count of results in flight in their frame words.
(18 R352, R355 to R357.) -/
def Obligations.TrapEntry : Prop :=
  ∀ (s : State) (code detail slots : Nat) (w2 w3 : Word), s.settle = s → fitsFrame s.w s.now = true → tok 0 s.w.s = true →
    let t := s.trapNow code detail slots w2 w3
    let f := fun n => tget 0 t.w.frame n
    t.w.hm = true ∧ t.w.pc = s.w.tvec &&& ~~~31 ∧ t.now = s.now + 3 ∧ t.w.nextIssue = s.now + 3 ∧
    t.w.em = s.w.am ∧ t.w.am = s.w.am ∧ (∀ k l, laneAt (t.w.rdX k) l = 0) ∧ t.w.lpc0 = 0 ∧ t.w.lpc1 = 0 ∧
    t.w.rdS 62 = s.w.hsp ∧ t.w.hsp = s.w.rdS 62 ∧ (∀ r, r ≠ 62 → t.w.rdS r = s.w.rdS r) ∧
    f 0 = s.w.pc ∧ f 1 = BitVec.ofNat 64 (code + slots * 2 ^ 8 + detail % 65536 * 2 ^ 32) ∧ f 2 = w2 ∧ f 3 = w3 ∧
    f 4 = s.w.em ∧ f 5 = s.w.am ∧ f 6 = { s.w with hm := false }.wsw ∧ f 7 = s.w.lps0 ∧ f 8 = s.w.lpe0 ∧ f 9 = s.w.lpc0 ∧
    f 10 = s.w.lps1 ∧ f 11 = s.w.lpe1 ∧ f 12 = s.w.lpc1 ∧ f 13 = s.w.sepc ∧
    (∀ k < 8, ∀ j < 32, f (16 + 32 * k + j) =
      BitVec.ofNat 64 ((laneAt (s.w.rdX k) (2 * j)).toNat + 2 ^ 32 * (laneAt (s.w.rdX k) (2 * j + 1)).toNat)) ∧
    f 272 = BitVec.ofNat 64 s.w.fly.length

/-- RFT in handler mode goes to word 0 with its low bits cleared, three cycles on, clears HM, restores AM and EM but for the lanes that have exited meanwhile, SS, PRIO, the loop registers, SEPC and the latches from the frame, and exchanges s62 and HSP, the other scalars unchanged; where no lane is left in AM the warp retires.
(16 R312, R329; that a lane which has exited does not come back is 18 R358.) -/
def Obligations.ReturnFromTrap : Prop :=
  ∀ s : State, s.w.hm = true → tok 0 s.w.s = true →
    let f := fun n => tget 0 s.w.frame n
    let t := s.rft (s.now + 3)
    (f 5 &&& s.w.am = 0 → (∀ v ∈ s.warps, v.id ≠ s.w.id) → s.calm = true → s.admits .rft = true →
      ∃ u v, exec .rft s = .next u ∧ v ∈ u.allWarps ∧ v.id = s.w.id ∧ v.run = .retired ∧ v.am = 0 ∧ v.em = 0) ∧
    (f 5 &&& s.w.am ≠ 0 →
    (t.asyncCauses = [] → s.runsTo .rft (t.goOn t.w (f 0 &&& ~~~31) 3)) ∧
    t.w.hm = false ∧ t.w.am = f 5 &&& s.w.am ∧ t.w.em = f 4 &&& f 5 &&& s.w.am ∧
    t.w.ss = (f 6).getLsbD 1 ∧ t.w.prio = (f 6).toNat / 16 % 8 ∧
    t.w.lps0 = f 7 ∧ t.w.lpe0 = f 8 ∧ t.w.lpc0 = f 9 ∧ t.w.lps1 = f 10 ∧ t.w.lpe1 = f 11 ∧ t.w.lpc1 = f 12 ∧ t.w.sepc = f 13 ∧
    t.w.rdS 62 = s.w.hsp ∧ t.w.hsp = s.w.rdS 62 ∧ (∀ r, r ≠ 62 → t.w.rdS r = s.w.rdS r) ∧
    (∀ k < 8, ∀ l < 64, laneAt (t.w.rdX k) l = BitVec.ofNat 32 ((f (16 + 32 * k + l / 2)).toNat / 2 ^ (32 * (l % 2)))))

/-- TRAP and BRK commit and then deliver SWTRAP or DEBUG at the next boundary with the detail and addresses the rule gives, or stay pending in handler mode; a misaligned LLDS in handler mode writes the second record, halts the warp and tells Caddy, and where the cause word was unread and the base is s62 wedges it, after which Fjody kills it; SLOTS C of TRAP and BRK is log 20.
(16 R328; 18 R360. That Fjody kills the wedged warp in the same step is log 44.) -/
def Obligations.TrapInstructions : Prop :=
  (∀ (s : State) (a : BitVec 16) (b : BitVec 12),
    let posted := fun (code detail : Nat) => s.stepOn.onW fun w =>
      { w with pend := w.pend ++ [{ code := code, detail := detail, w2 := s.w.pc, w3 := 0, slots := 8 }] }
    (s.w.hm = true → s.runsTo (.trap a) (posted 12 a.toNat) ∧ s.runsTo (.brk b) (posted 13 (4096 + b.toNat))) ∧
    (s.w.hm = false →
      let enters := fun (i : Instr) (code detail : Nat) => ∀ (n : Nat) (u : State), (posted code detail).fetch = .bits n u →
        (readBun n).causes u = [] → s.runsTo i ((u.unhold.onW fun w => { w with pend := [] }).takeTrap
          { code := code, detail := detail, w0 := s.stepOn.w.pc, w2 := s.w.pc, w3 := 0, slots := 8 } 0 none)
      enters (.trap a) 12 a.toNat ∧ enters (.brk b) 13 (4096 + b.toNat))) ∧
  (∀ (s : State) (d : Reg) (w : Width) (sb : Reg) (imm : BitVec 16),
    let va := s.w.rdS sb.val + imm.signExtend 64
    s.w.hm = true → s.calm = true → s.admits (.llds d w sb imm) = true →
    va.toNat % wBytes w ≠ 0 → va.toNat + wBytes w ≤ 16384 * s.co.ns →
    let t := (s.unhold.onW fun x =>
      { x with second := some { w0 := s.w.pc, w1 := BitVec.ofNat 64 (16 + 2 * 2 ^ 8 + 5 * 2 ^ 32), w2 := va, w3 := 0 },
               run := .halted, wedge := x.wedge || (!x.causeRead && sb.val == 62) }).onHost fun h =>
      { h with notes := h.notes ++ [.halted s.w.id s.w.pc.toNat] }
    exec (.llds d w sb imm) s = .next (if !s.w.causeRead && sb.val == 62 then t.kill .wedged else t))

/-- Outside handler mode, with a check owed, an LPAD of the kind settles it and goes on, one of another kind traps CFLOW 3 and every other slot instruction traps CFLOW 2 with the transferring bundle's address, before it commits; with none owed LPAD does nothing.
(16 R315. SLOTS is 0 in the cause of a failed check: log 20.) -/
def Obligations.LandingPads : Prop :=
  (∀ (s : State) (o : Owed), s.w.owed = some o →
    let u := s.onW fun w => { w with owed := none }
    let traps := fun (i : Instr) (detail : Nat) => s.w.hm = false →
      exec i s = .next (u.unhold.takeTrap
        { code := 4, detail := detail, w0 := s.w.pc, w2 := o.src, w3 := 0, slots := 0 } 0 none)
    u.calm = true →
    (∀ k : Fin 16, (k.val = o.kind → s.admits (.lpad k) = true → exec (.lpad k) s = .next u.stepOn) ∧ (k.val ≠ o.kind → traps (.lpad k) 3)) ∧
    (∀ i : Instr, i.slot.isSome = true → (∀ k, i ≠ .lpad k) → traps i 2)) ∧
  (∀ (s : State) (kind : Fin 16), s.runsTo (.lpad kind) s.stepOn)

/-- Where a scalar instruction of the C slot, or a V instruction but VTRD and VTWR, answers a next state at an undisturbed boundary, it changes beside the boundary only its destination: the other scalars, vectors, latches, flags, EM, AM, FPCTL, HM, TVEC, HSP, the frame, handles, pending causes, pc, the cohort, tile slots, operations, copies, matrix queue, the other warps, memory, fabric and dispatcher are as one bundle on; a new result in flight names the destination, and a V instruction only gains flags in FPSTAT.
(16 R303, R304; 11 R209 to R211; 01 R26.) -/
def Obligations.ResultFrames : Prop :=
  (∀ (s t : State) (i : Instr) (d : Reg), scalarDest i = some d → s.calm = true → s.admits i = true → tok 0 s.stepOn.w.s = true → exec i s = .next t →
    let u := s.stepOn
    (∀ r, r ≠ d.val → t.w.rdS r = u.w.rdS r) ∧ t.w.rdS 0 = 0 ∧ (∀ f ∈ t.w.fly, f ∈ u.w.fly ∨ f.dst = .s d.val) ∧
    t.w.v = u.w.v ∧ t.w.x = u.w.x ∧ t.w.flags = u.w.flags ∧ t.w.em = u.w.em ∧ t.w.am = u.w.am ∧ t.w.fpctl = u.w.fpctl ∧ t.w.fpstat = u.w.fpstat ∧
    t.w.hm = u.w.hm ∧ t.w.tvec = u.w.tvec ∧ t.w.hsp = u.w.hsp ∧ t.w.frame = u.w.frame ∧ t.w.h = u.w.h ∧ t.w.pend = u.w.pend ∧ t.w.pc = u.w.pc ∧
    t.co = u.co ∧ t.core.slots = u.core.slots ∧ t.core.ops = u.core.ops ∧ t.core.copies = u.core.copies ∧ t.core.mxq = u.core.mxq ∧
    t.warps = u.warps ∧ t.mem = u.mem ∧ t.fab = u.fab ∧ t.sch = u.sch) ∧
  (∀ (s t : State) (i : Instr) (d : Dst), vectorDest i = some d → s.calm = true → s.admits i = true → exec i s = .next t →
    let u := s.stepOn
    (∀ f ∈ t.w.fly, f ∈ u.w.fly ∨ s.now + 1 < f.due ∧ (f.dst = .v d.reg.val ∨ f.dst = .s d.reg.val ∨ f.dst = .x d.xn.val)) ∧
    t.w.v = u.w.v ∧ t.w.s = u.w.s ∧ t.w.x = u.w.x ∧ t.w.flags = u.w.flags ∧ t.w.em = u.w.em ∧ t.w.am = u.w.am ∧ t.w.fpctl = u.w.fpctl ∧
    u.w.fpstat &&& ~~~t.w.fpstat = 0 ∧ t.w.hm = u.w.hm ∧ t.w.tvec = u.w.tvec ∧ t.w.hsp = u.w.hsp ∧ t.w.frame = u.w.frame ∧ t.w.h = u.w.h ∧
    t.w.pend = u.w.pend ∧ t.w.pc = u.w.pc ∧ t.co = u.co ∧ t.core = u.core ∧ t.warps = u.warps ∧ t.mem = u.mem ∧ t.fab = u.fab ∧ t.sch = u.sch)

/-- Where nothing is in flight or pending, the machine one bundle on differs only in the loop registers and pc of the warp, its issue cycles, and the core's hold and cycle; with no loop active the pc is 32 on.
(02 R40; 16 R317.) -/
def Obligations.BundleLeavesRest : Prop :=
  ∀ s : State, s.w.fly = [] → s.w.hpend = [] → s.co.stores = [] → s.co.drain = none → s.core.vtw = [] → (∀ p ∈ s.core.slots, p.2.clearAt = none) →
    let t := s.stepOn
    t.now = s.now + 1 ∧ (s.w.lpc0 = 0 → s.w.lpc1 = 0 → t.w.pc = s.w.pc + 32) ∧
    t = { s with
      w := { (s.w.loopEnd s.w.pc).1 with pc := ((s.w.loopEnd s.w.pc).2).getD (s.w.pc + 32), nextIssue := s.now + 1, lastIssue := s.now + 1 },
      core := { s.coreOn 1 with cycle := s.now + 1 }, iss := Issue.idle }

/-- When a slot instruction other than GLDC and SLDC answers a next state, from a state where no set of the L2 is full, every byte of main memory, in the L2 and in the stacks, reads as before: stores and atomics perform later, as steps of the access path. (GLDC and SLDC may bring a line into the L2; where they hit, LocalAccessAndL1 gives their next state whole.)
(08 R145, R149; 05 R100.) -/
def Obligations.SlotsLeaveMemory : Prop :=
  ∀ (s t : State) (i : Instr), i.slot.isSome = true → (∀ k d w a le xn, i ≠ .gldc k d w a le xn) → (∀ k d w a imm, i ≠ .sldc k d w a imm) →
    (∀ line, (s.mem.setmates line).length < 16) → tok Sector.absent s.mem.l2 = true → exec i s = .next t →
    t.mem.bytes = s.mem.bytes ∧ ∀ a, t.mem.byte a = s.mem.byte a

/-- At an undisturbed boundary, where the same warp goes on, no slot instruction but RFT clears HM, and outside handler mode none changes TVEC, QUANT, the priority or the context.
(02 R63, R65; 16 R329.) -/
def Obligations.HandlerModeIsLeftByRft : Prop :=
  ∀ (s t : State) (i : Instr), i.slot.isSome = true → s.calm = true → s.admits i = true → exec i s = .next t → t.w.id = s.w.id →
    (s.w.hm = true → t.w.hm = false → i = .rft) ∧ (s.w.hm = false → t.w.tvec = s.w.tvec ∧ t.w.quant = s.w.quant ∧ t.w.prio = s.w.prio ∧ t.w.ctx = s.w.ctx)

/-- From every state whose memory has rising addresses and no entry equal to what an unlisted byte reads as, a step that answers a next state answers one whose memory has that form.
(The form is the model's (log 4).) -/
def Obligations.MemoryStaysCanonical : Prop :=
  ∀ s t : State, s.memOk → step s = .next t → t.memOk

/-- RESULT_WRITEBACK and INFLIGHT_REPLAY write the earliest result in flight, over its lanes, at its cycle and no other register; PHASE_DRAIN_END ends the drain; SLOT_CLEAR_DONE leaves a cleared slot; VTWR_COMMIT writes its words and no others.
(02 R47; 18 R358; 06 R119; 10 R193; 12 R242.) -/
def Obligations.ResultsFallDue : Prop :=
  ∀ (s : State) (core wid cid slot : Nat),
    (∀ (u : State) (i : Instr) (f : Flight) (l : List Flight),
      (u = s.focusCore core ∧ i = .resultWriteback core ∨ u = s.focus wid ∧ i = .inflightReplay wid) →
      u.w.fly = f :: l → u.now < f.due → u.reaches f.due = true → (∀ g ∈ l, f.due < g.due) → tok 0 u.w.s = true → tok zeroLanes u.w.v = true →
      ∃ t, exec i s = .next t ∧ t.now = f.due ∧ t.w.fly = l ∧
        (∀ r, f.dst = .s r → r ≠ 0 → t.w.rdS r = f.word) ∧ (∀ r, f.dst ≠ .s r → t.w.rdS r = u.w.rdS r) ∧
        (∀ r, f.dst = .v r → ∀ n < 64, laneAt (t.w.rdV r) n = if f.mask.getLsbD n then laneAt f.lanes n else laneAt (u.w.rdV r) n) ∧
        (∀ r, f.dst ≠ .v r → t.w.rdV r = u.w.rdV r)) ∧
    (let u := s.focusCo cid
     ∀ d : Drain, u.co.cid = cid → u.co.drain = some d → u.reaches d.endAt = true → ∃ t, exec (.phaseDrainEnd cid) s = .next t ∧ t.co.drain = none) ∧
    (let u := s.focusCore core
     (∀ c : Nat, (u.slotAt slot).clearAt = some c → u.reaches c = true → tok TSlot.free u.core.slots = true → u.core.vtw = [] →
       ∃ t, exec (.slotClearDone core slot) s = .next t ∧ t.slotAt slot = { TSlot.free with owner := (u.slotAt slot).owner }) ∧
     (∀ (v : Vtw) (k : Nat) (x : LaneVal), u.core.vtw = [v] → v.words = [(k, x)] → (u.slotAt v.slot).clearAt = none →
       u.reaches v.due = true → u.now < v.due → tok TSlot.free u.core.slots = true → tok 0 (u.slotAt v.slot).bytes = true →
       ∃ t, exec (.vtwrCommit core) s = .next t ∧ t.now = v.due ∧ t.core.vtw = [] ∧ (t.slotAt v.slot).word k = x ∧
         ∀ j, j ≠ k → (t.slotAt v.slot).word j = (u.slotAt v.slot).word j))

/-- BUNDLE_ISSUE of a core at issue is the decoded instruction; TRAP_DELIVERY takes a fetch fault; LANDING_PAD_CHECK settles a met check; SENTENCE_RESTART of a warp whose engines are idle restores EM, AM (but for exited lanes) and the loop registers at SEPC with flags and latches zero, and counts, while fewer than two restarts came before; with SEPC 0 and no disagreement it posts the UE cause of each consumed error instead; LOCKSTEP_DISAGREEMENT of a protected warp asks for a restart and is counted.
(16 R315, R326; 18 R353, R356; 19 R370, R373.) -/
def Obligations.BoundaryEvents : Prop :=
  ∀ (s : State) (core wid : Nat),
    let u := s.focus wid
    let b := u.boundary
    (∀ (n : Nat) (v : State) (i : Instr), let c := s.focusCore core
      c.atIssue = true → (c.boundary.w.restart = [] ∨ c.boundary.w.hm = true) → c.boundary.fetch = .bits n v → n / 2 ^ 252 = 0 →
      decodeTableWord 256 n = some i → exec (.bundleIssue core) s = exec i v ∧ (i = .vnop → v.calm = true → exec (.bundleIssue core) s = .next v.stepOn)) ∧
    (∀ c : Cause, u.atIssue = true → b.w.restart = [] → b.w.hm = false → b.asyncCauses = [] → b.fetch = .fault c →
      exec (.trapDelivery wid) s = .next (b.unhold.takeTrap c 0 b.w.owed)) ∧
    (∀ (o : Owed) (n : Nat) (v : State) (k : Fin 16), u.atIssue = true → b.w.restart = [] → u.w.owed = some o → v.w.owed = some o →
      b.fetch = .bits n v → decodeTableWord 256 n = some (.lpad k) → k.val = o.kind →
      exec (.landingPadCheck wid) s = .next (v.onW Warp.settled)) ∧
    (u.w.id = wid → u.w.restart ≠ [] → u.w.hm = false → u.w.run = .ready →
      (∀ r : Sentence, u.w.sent = r → u.w.sepc ≠ 0 → u.engineBusy wid = false → r.count < 2 → ∃ t, exec (.sentenceRestart wid) s = .next t ∧
        t.w.pc = (u.w.sepc &&& ~~~31) ∧ t.w.restart = [] ∧ t.w.flags = [] ∧ t.w.x = [] ∧ t.w.em = r.em &&& u.w.am ∧ t.w.am = r.am &&& u.w.am ∧ t.w.run = .ready ∧
        t.w.lps0 = r.lps0 ∧ t.w.lpe0 = r.lpe0 ∧ t.w.lpc0 = r.lpc0 ∧ t.w.lps1 = r.lps1 ∧ t.w.lpe1 = r.lpe1 ∧ t.w.lpc1 = r.lpc1 ∧
        t.w.errw.getLsbD 4 = true ∧ t.w.sent = { r with count := r.count + 1 } ∧ t.w.s = u.w.s ∧ t.w.v = u.w.v) ∧
      (u.w.sepc = 0 → .disagree ∉ u.w.restart → ∃ t, exec (.sentenceRestart wid) s = .next t ∧ t.w.restart = [] ∧
        t.w.pc = u.w.pc ∧ t.w.pend = u.w.pend ++ u.w.restart.filterMap fun q => match q with
          | .consumed _ a l => some { code := 9, detail := 0, w2 := a, w3 := l, slots := 0 }
          | .disagree => none)) ∧
    (u.w.id = wid → u.w.prot = true → u.w.lastIssue ≠ 0 → u.w.run ≠ .retired → ∃ t, exec (.lockstepDisagreement wid) s = .next t ∧
      t.w.restart = u.w.restart ++ [.disagree] ∧ t.w.errw = u.w.errw ||| 8 ∧ t.core.ctr.disagree = u.core.ctr.disagree + 1)

/-- WARP_SWITCH runs the one eligible warp, QUANTUM_EXPIRY asks for a switch, HOLDTMO of a QENQ held for room traps it with code 7, FIFO_OP_RESUME issues it when there is room, WAITF_WAKE readies a warp whose wait is over, whether another warp runs, it stalls the core itself or the core is idle (then at a boundary that is a free number of cycles on), BARRIER_RELEASE ends waits, WARP_RESOURCE_RELEASE frees a retired warp's slots when its flags are zero and nothing of it is outstanding.
(17 R344 to R348; 16 R312, R319, R323. When a stalled or idle core goes on is log 9.) -/
def Obligations.SchedulerEvents : Prop :=
  ∀ (s : State) (core wid cid b : Nat),
    (let u := s.focusCore core
     (∀ w : Warp, u.core.running = none → u.eligible = [w] → w ∈ u.allWarps → ∃ t, exec (.warpSwitch core) s = .next t ∧ t.core.running = some w.id) ∧
     (u.core.running = some u.w.id → u.core.qstart + u.w.quant.toNat ≤ u.now →
       exec (.quantumExpiry core) s = .next (u.onCore fun c => { c with switchReq := true })) ∧
     (∀ (h : Hold) (v : State) (n : Nat) (d sb : Reg) (w : Width) (imm : BitVec 16),
       let x := u.onCore fun c => { c with hold := some { h with len := max h.len Config.holdMax }, held := c.held + (Config.holdMax - h.len), want := [] }
       let q := (v.w.rdS sb.val + imm.signExtend 64).toNat
       u.core.hold = some h → u.core.debugStop = false → x.calm = true → x.fetch = .bits n v → n / 2 ^ 252 = 0 → decodeTableWord 256 n = some (.qenq d w sb imm) →
       v.calm = true → v.admits (.qenq d w sb imm) = true → v.w.hm = false → v.co.drain = none → v.core.hold = x.core.hold →
       h.wid = v.w.id → h.pc = v.w.pc →
       q < v.co.nf → 256 < (v.co.fifo q).q.length + wBytes w →
       exec (.holdtmo core) s = .next (v.trapNow 15 7 2 v.w.pc 0)) ∧
     (∀ (h : Hold) (v : State) (n : Nat) (d sb : Reg) (w : Width) (imm : BitVec 16),
       let q := (v.w.rdS sb.val + imm.signExtend 64).toNat
       let f := v.co.fifo q
       u.core.hold = some h → h.code = 7 → u.fetch = .bits n v → n / 2 ^ 252 = 0 → decodeTableWord 256 n = some (.qenq d w sb imm) →
       v.calm = true → v.admits (.qenq d w sb imm) = true → v.co.drain = none → q < v.co.nf → f.q.length + wBytes w ≤ 256 →
       exec (.fifoOpResume core) s = .next (v.onCo fun co => co.setFifo q
         { f with q := f.q ++ granulesOf (wBytes w) ((List.range 64).flatMap fun l =>
           leBytes (wBytes w) (if v.w.em.getLsbD l then v.w.laneBytes d.val (regCount w) l else 0)) }).stepOn)) ∧
    (let u := s.focus wid
     let wakes := fun t : State => exec (.waitfWake wid) s = .next (t.onW fun w => { w with run := .ready, nextIssue := max w.nextIssue t.now })
     u.w.id = wid → u.core.debugStop = false →
       ((∃ f n, u.w.run = .waitF f n ∧ u.w.rdFlag f ≤ n) ∨ (u.w.run = .waitAll ∧ u.w.flagsZero = true)) →
       ((∃ r, u.core.running = some r ∧ r ≠ wid) → wakes u) ∧
       ((u.core.running = none ∨ u.core.running = some wid) → ∃ k, wakes { u.advance (u.now + k) with freeCtr := u.freeCtr + 1 })) ∧
    (let u := s.focusCo cid
     let x := u.barAt b
     u.co.cid = cid → u.reaches x.relAt = true →
       exec (.barrierRelease cid b) s = .next ((u.advance x.relAt).mapWarps (fun w => w.cid == cid && match w.run with
          | .waitB c p => c == b && decide (p < x.phase)
          | _ => false) fun w => { u.synced x w with run := .ready, nextIssue := max w.nextIssue x.relAt })) ∧
    (let u := s.focus wid
     u.w.id = wid → wid ≠ 0 → u.w.run = .retired → u.w.flagsZero = true → u.outstanding wid = false → (∃ w ∈ u.warps, w.cid = u.co.cid) →
       ∃ t, exec (.warpResourceRelease wid) s = .next t ∧ t.w = Warp.blank ∧ t.warps = u.warps ∧ t.co = u.co ∧
        (∀ p ∈ u.w.h ++ u.w.mail, (tget TSlot.free u.core.slots (p.2 - 1)).clearAt = none → (t.slotAt (p.2 - 1)).releasing = true))

/-- On a core whose holds do not stop the matrix engine: MATRIX_ENTRY_START marks the next entry that can start, with the context's signs for MHAD and the rung for MBMM (given, or the destination's at AUTO), and an MSETD sets the signs and leaves the queue; MBMM_PASS_END repeats at the next rung past a budget below rung 8 and otherwise commits, exhausted at rung 8, and the entry leaves the queue at once; MATRIX_ENTRY_FINISH of MZERO, MHFA, MSCA, MHAD, MDRN, MCVT, MADD, MSCL, TLD and TST applies the operation to the slots (or the scratch), counts the flag down and takes the entry away. Their elements: MHAD transforms each segment of 16, MCVT converts each element to nearest even, MADD and MSCL add and multiply, MSCA keeps an element of a zero scale, MHFA accumulates 16 exact products rounded once, TLD puts the scratch bytes in the slot (a scale byte of 255 becomes 254), TST the slot's bytes in the scratch and nothing else there.
(13 R245 to R257, R259; 14 R266 to R278; 10 R198. Which holds stop the engine is 13 R246 and log 51; u.same: no pair of lockstep cores is compared.) -/
def Obligations.MatrixEvents : Prop :=
  (∀ (s : State) (core id : Nat),
    let u := s.focusCore core
    u.core.frozen matrixHolds = false →
    (∀ e : MxEntry, u.core.nextEntry = some e → u.core.canStart e = true →
      let starts := fun t : State => exec (.matrixEntryStart core) s = .next t
      let at' := fun rung : Nat => u.onEntry e.id fun x => { x with pass := some rung }
      (match e.op with
        | .msetd _ _ => starts (((at' 0).onCore fun c => { c with signs := tset 0 c.signs e.ctx (BitVec.ofNat 16 e.base) }).leaveQueue e)
        | .mhad _ _ _ => starts ((at' 0).onEntry e.id fun x => { x with base := (tget 0 u.core.signs e.ctx).toNat })
        | .mbmm _ (.at r) _ _ _ _ => starts (at' (rungCode r))
        | .mbmm _ .auto _ _ _ _ => ∀ n, e.hd = some n → starts (at' (u.slotAt n).rung)
        | _ => starts (at' 0))) ∧
    (∀ (e : MxEntry) (code : Nat), u.core.mxq.find? (·.id == id) = some e → e.ladder = true → e.pass = some code → u.same = true →
      let a := u.slotAt (e.ha.getD 0)
      let b := u.slotAt (e.hb.getD 0)
      e.ha.isSome = true → e.hb.isSome = true →
      let p := runPass (Num.rungW (rungOf code)) e.mcank (winOf e.op) (descOf e.dd) (descOf e.da) (descOf e.db) a b
      let past := e.msatb < p.sat ∨ e.munfb < p.unf ∨ e.mcanb < p.can
      let put := fun (ex : Bool) (n : Nat) => (u.entryBad e).onCore fun c =>
        { c with slots := tset TSlot.free c.slots n (commitPass p code ex (winOf e.op) (descOf e.dd) (descOf e.da) (descOf e.db) (u.slotAt n) a b) }
      (past → code < 4 → exec (.mbmmPassEnd core id) s = .next ((u.onWarp e.wid fun w => w.squashed code).onCore fun c =>
        { c with mxq := upd (·.id == id) (fun x => { x with pass := some (code + 1) }) c.mxq })) ∧
      (¬ past → ∀ n, e.hd = some n → exec (.mbmmPassEnd core id) s = .next ((put false n).leaveQueue e)) ∧
      (past → 4 ≤ code → ∀ n, e.hd = some n → exec (.mbmmPassEnd core id) s = .next (((put true n).onWarp e.wid Warp.exhausted).leaveQueue e))) ∧
    (∀ e : MxEntry, u.core.mxq.find? (·.id == id) = some e → e.pass.isSome = true →
      let dd := descOf e.dd
      let da := descOf e.da
      let db := descOf e.db
      let ends := fun f : State → State => exec (.matrixEntryFinish core id) s = .next ((u.both f).leaveQueue e)
      let gives := fun g : TSlot → TSlot → TSlot → TSlot =>
        ends fun v => (v.entryBad e).putSlot e.hd (g (v.readSlot e.hd) (v.readSlot e.ha) (v.readSlot e.hb))
      match e.op with
      | .mzero _ _ => ∀ n, e.hd = some n → dd.acc = true → ends fun v =>
          let x : TSlot := { v.slotAt n with bytes := [], ea := [], eb := [], exh := false, rung := 0, bad := [], badMeta := false }
          v.onCore fun c => { c with slots := tset TSlot.free c.slots n x }
      | .mhfa _ et _ _ _ x32 win => gives (runMhfa et (if x32 then 32 else 16) win dd da db)
      | .msca _ _ _ => gives fun d a _ => runMsca dd da d a
      | .mhad _ et _ => gives fun d _ _ => runMhad et e.base dd d
      | .mdrn _ _ _ blk => gives fun d a _ => runMdrn blk.val dd da d a
      | .mcvt _ _ _ _ => gives fun d a _ => runMcvt dd da d a
      | .madd _ et _ _ => gives fun d a _ => runMadd et dd da d a
      | .mscl _ _ _ row => gives fun d a _ => runMscl row dd da d a
      | .tld _ _ _ _ tr => ends fun v => v.runTld e tr
      | .tst _ _ _ _ tr => ends fun v => v.runTst e tr
      | _ => True)) ∧
  (∀ (dd da db : Desc) (d a b : TSlot) (r c : Nat), r < dd.rows → c < dd.cols → tok 0 d.bytes = true →
    let m := 2 ^ (8 * dd.esz)
    let fin := fun f v => rneOf f v
    (∀ signs et, (runMhad et signs dd d).elem dd r c =
      (hadSeg (fmtOfM et) signs ((List.range 16).map fun j => if dd.kax then d.elem dd (r / 16 * 16 + j) c else d.elem dd r (c / 16 * 16 + j))).getD
        (if dd.kax then r % 16 else c % 16) 0 % m) ∧
    (runMcvt dd da d a).elem dd r c = (LaneFns.cvtE (Machine.etypeOf da.fmt) (Machine.etypeOf dd.fmt) 0 false .rne (a.elem da r c)).1 % m ∧
    (runMadd .i32 dd da d a).elem dd r c = (d.elem dd r c + a.elem da r c) % 2 ^ 32 % m ∧
    (runMadd .f32 dd da d a).elem dd r c = (LaneFns.addE .f32 0 false .rne (d.elem dd r c) (a.elem da r c)).1 % m ∧
    (runMscl true dd da d a).elem dd r c = (LaneFns.mulE .f32 0 false .rne (d.elem dd r c) (a.elem da r 0)).1 % m ∧
    (runMscl false dd da d a).elem dd r c = (LaneFns.mulE .f32 0 false .rne (d.elem dd r c) (a.elem da 0 c)).1 % m ∧
    (tget 0 a.ea r = 0 ∨ tget 0 a.eb c = 0 → (runMsca dd da d a).elem dd r c = d.elem dd r c) ∧
    (∀ (et : MType) (k : Nat), k ≤ dd.rows → k ≤ dd.cols →
      let acc := Num.sumV .rne (Num.unpack .f32 (d.elem dd r c) :: (List.range 16).map fun j =>
        (Num.mulV (Num.unpack (fmtOfM et) (a.elem da r j)) (Num.unpack (fmtOfM et) (b.elem db j c))).1)
      (runMhfa et k none dd da db d a b).elem dd r c = if r < k ∧ c < k then fin .f32 acc.1 % m else d.elem dd r c)) ∧
  (∀ (u : State) (e : MxEntry) (tr : Bool) (n : Nat), e.hd = some n →
    let d := descOf e.dd
    let offs := tileOffs d e.base e.pitch tr
    let co := u.localOf e.cid
    (∀ o ∈ offs, o < co.localBytes) → co.drain = none → co.stores = [] → co.bad = [] → tok 0 co.scratch = true →
    (tok 0 (u.slotAt n).bytes = true → tok TSlot.free u.core.slots = true → ∀ k < offs.length, let x := tget 0 co.scratch (offs.getD k 0)
      tget 0 ((u.runTld e tr).slotAt n).bytes k = if d.rows * d.cols * d.esz ≤ k ∧ x = 255 then 254 else x) ∧
    (offs.Nodup → (∃ c ∈ u.allCohorts, c.cid = e.cid) →
      let after := (u.runTst e tr).localOf e.cid
      (∀ k < offs.length, tget 0 after.scratch (offs.getD k 0) = tget 0 (u.slotAt n).bytes k) ∧
      (∀ x, x ∉ offs → tget 0 after.scratch x = tget 0 co.scratch x)))

/-- On a core whose holds do not stop the access path, with the line free (no pin elsewhere, no earlier retry, room in its set, not poisoned): a line request of one lane in main memory reads the bytes into the operation, or writes the stored bytes and no other; an L2 atomic gives the old value and writes the new one; no other byte of memory changes.
(05 R100, R101, R103 to R105; 08 R149, R151.) -/
def Obligations.RequestsPerform : Prop :=
  ∀ (s : State) (core id : Nat) (o : Op) (x : LaneAcc) (pa : Nat),
    let u := s.focusCore core
    let n := wBytes o.w
    u.core.ops.find? (·.id == id) = some o → x.pl = .main pa → pa % 32 + n ≤ 32 → u.lineReady o [x] = true →
    u.core.frozen accessHolds = false → (u.warpAt o.wid).any Warp.prot = false →
    u.retried u.core.no (pa / 128) (.op u.core.no o.id) = false → (u.mem.setmates (pa / 128)).length < 16 →
    tok Sector.absent u.mem.l2 = true → (∀ p ∈ u.mem.l2, tok none p.2.bytes = true) → u.mem.poisoned (pa / 32) = false →
    let performed := fun v => upd (·.id == id) (fun p => p.onLanes (fun l => l.lane == x.lane) fun l => { l with sent := true, done := true, res := v }) u.core.ops
    (∀ d c, o.kind = .load d c → o.nextLine = [x] → ∃ t, exec (.lineRequest core id) s = .next t ∧
      t.core.ops = performed (leNat (u.mem.read pa n)) ∧ t.mem.bytes = u.mem.bytes ∧ (∀ a, t.mem.byte a = u.mem.byte a) ∧ t.w = u.w) ∧
    (o.kind = .store → o.nextLine = [x] → ∃ t, exec (.lineRequest core id) s = .next t ∧ t.core.ops = performed 0 ∧ t.mem.bytes = u.mem.bytes ∧
      t.mem.read pa n = leBytes n x.a ∧ (∀ a, a < pa ∨ pa + n ≤ a → t.mem.byte a = u.mem.byte a) ∧ t.w = u.w) ∧
    (o.kind.atomic = true → o.nextLane = [x] → u.mem.away (pa / 32) = false → ∃ t, exec (.l2Atomic core id) s = .next t ∧
      t.core.ops = performed (leNat (u.mem.read pa n)) ∧ t.mem.bytes = u.mem.bytes ∧
      t.mem.read pa n = ((o.aval x (leNat (u.mem.read pa n))).map (leBytes n)).getD (u.mem.read pa n) ∧
      (∀ a, a < pa ∨ pa + n ≤ a → t.mem.byte a = u.mem.byte a))

/-- PIN_RETRY_REPLAY of a line replays the operation at the head of its queue, which performs and leaves the queue, or drops the entry of an operation that has nothing left there, or replays the fabric request, the copy or the cached load that waits, and without an entry changes nothing; a pin past PINMAX is dropped and counted on its die; a signal record is appended to the FIFO of its slot; a write-combining entry at its age is sent as a write of its bytes.
(05 R106 to R109; 08 R159, R160. That a record is appended whatever the core's hold is log 54.) -/
def Obligations.PinsAndRecords : Prop :=
  (∀ (s : State) (line : Nat),
    (∀ (core id : Nat) (o : Op) (x : LaneAcc) (pa : Nat), s.mem.retryq.find? (·.line == line) = some { line := line, who := .op core id } →
      let u := s.focusCore core
      let n := wBytes o.w
      u.core.no = core → s.opAt id = some o → u.core.ops.find? (·.id == id) = some o → x.pl = .main pa → pa / 128 = line → pa % 32 + n ≤ 32 →
      u.core.frozen accessHolds = false → (u.warpAt o.wid).any Warp.prot = false → u.lineReady o [x] = true → u.retried core line (.op core id) = false →
      (u.mem.setmates line).length < 16 → tok Sector.absent u.mem.l2 = true → (∀ p ∈ u.mem.l2, tok none p.2.bytes = true) → u.mem.poisoned (pa / 32) = false →
      let performed := fun v => upd (·.id == id) (fun p => p.onLanes (fun l => l.lane == x.lane) fun l => { l with sent := true, done := true, res := v }) u.core.ops
      (∀ d c, o.kind = .load d c → o.nextLine = [x] → ∃ t, exec (.pinRetryReplay line) s = .next t ∧
        t.core.ops = performed (leNat (u.mem.read pa n)) ∧ (∀ a, t.mem.byte a = u.mem.byte a) ∧ { line := line, who := .op core id } ∉ t.mem.retryq) ∧
      (o.kind = .store → o.nextLine = [x] → ∃ t, exec (.pinRetryReplay line) s = .next t ∧ t.core.ops = performed 0 ∧ t.mem.read pa n = leBytes n x.a ∧
        (∀ a, a < pa ∨ pa + n ≤ a → t.mem.byte a = u.mem.byte a) ∧ { line := line, who := .op core id } ∉ t.mem.retryq) ∧
      (o.kind.atomic = true → o.nextLane = [x] → u.mem.away (pa / 32) = false → ∃ t, exec (.pinRetryReplay line) s = .next t ∧
        t.core.ops = performed (leNat (u.mem.read pa n)) ∧
        t.mem.read pa n = ((o.aval x (leNat (u.mem.read pa n))).map (leBytes n)).getD (u.mem.read pa n) ∧
        (∀ a, a < pa ∨ pa + n ≤ a → t.mem.byte a = u.mem.byte a) ∧ { line := line, who := .op core id } ∉ t.mem.retryq)) ∧
    (∀ (core id : Nat), s.mem.retryq.find? (·.line == line) = some { line := line, who := .op core id } →
      (∀ o, s.opAt id = some o → ∀ l ∈ o.lanes, l.pl.lineNo = line → l.sent = true ∨ l.done = true) →
      exec (.pinRetryReplay line) s = .next (s.onMem fun m => { m with retryq := m.retryq.filter (· != { line := line, who := .op core id }) })) ∧
    ((∀ r ∈ s.mem.retryq, r.line ≠ line) → exec (.pinRetryReplay line) s = .next s) ∧
    (∀ (st : Stream) (sn : Nat) (q : RemReq) (pa : Nat) (g : Word), s.mem.retryq.find? (·.line == line) = some { line := line, who := .rem st sn } →
      (s.streamAt st).frozen = some q → q.sn = sn → s.xlateMem q.ctx q.va (remPerm q.op) = .ok (.main pa) g → pa / 128 = line →
      exec (.pinRetryReplay line) s = exec (.streamResume st) s) ∧
    (∀ (core id : Nat) (c : Copy), s.mem.retryq.find? (·.line == line) = some { line := line, who := .copy core id } →
      let u := s.focusCore core
      u.core.copies.find? (·.id == id) = some c → c.susp = none → .retry line ∈ u.fronts c →
      exec (.pinRetryReplay line) s = exec (.copyComplete core id) s) ∧
    (∀ core : Nat, s.mem.retryq.find? (·.line == line) = some { line := line, who := .cache core } →
      let u := s.focusCore core
      (u.core.hold = none ∨ line ∉ u.core.want →
        exec (.pinRetryReplay line) s = .next (s.onMem fun m => { m with retryq := m.retryq.filter (· != { line := line, who := .cache core }) })) ∧
      (u.core.hold ≠ none → line ∈ u.core.want → u.retried core line (.cache core) = false →
        exec (.pinRetryReplay line) s = exec (.bundleIssue core) s)) ∧
    (∀ (c : CoreSt) (p : Pin), s.allCores.find? (fun c => c.pins.any fun p => p.line == line) = some c →
      let u := s.focusCore c.no
      u.core.pins.find? (·.line == line) = some p → u.reaches (p.at_ + 65536) = true → tok 0 u.mem.forced = true →
      ∃ t, exec (.pinTimeout line) s = .next t ∧ p.at_ + 65536 ≤ t.now ∧ t.core.pins = drop' (·.line == line) u.core.pins ∧
        tget 0 t.mem.forced (u.core.no / 256) = tget 0 u.mem.forced (u.core.no / 256) + 1 ∧ t.mem = { u.mem with forced := t.mem.forced })) ∧
  (∀ (s : State) (core slot id : Nat),
    let u := s.focusCore core
    (∀ (g : SigSlot) (r : SigRec) (l : List SigRec), u.core.sigs[slot]? = some g → g.wait = r :: l → g.cid = u.co.cid → u.co.cid ≠ 0 → g.q < u.co.nf →
      u.co.drain = none → (u.co.fifo g.q).q.length < 256 → tok Fifo.empty u.co.fifos = true →
      ∃ t, exec (.signalRecordAppend core slot) s = .next t ∧ (t.co.fifo g.q).q = (u.co.fifo g.q).q ++ [r.bytes] ∧
        t.core.sigs = upd (fun x => x.cid == g.cid && x.va == g.va) (fun x => { x with wait := l }) u.core.sigs ∧ t.w = u.w ∧ t.mem = u.mem) ∧
    (∀ e : WcEntry, u.core.wcb = [e] → e.id = id → u.reaches (e.born + 512) = true → (∀ pa, e.pl ≠ .main pa) → u.core.frozen accessHolds = false →
      u.fab.frozen = [] → u.fab.queued = [] → (∀ r ∈ u.fab.out, ∀ p w a, e.pl.remote = some (p, w, a) → r.win = w) →
      (∀ p w a, e.pl.remote = some (p, w, a) → (u.windowAt w).takes p a = true ∧ u.pathUp (u.windowAt w).path = true) →
      ∃ t r, exec (.wcAgeDrain core id) s = .next t ∧ t.core.wcb = [] ∧ t.fab.out = u.fab.out ++ [r] ∧ r.who = .wc u.core.no e.wid e.refs ∧ r.va = e.va ∧ r.job = e.job ∧
        r.op = .write (e.bytes.filterMap fun p => p.2.map fun b => (p.1, b)) []))

/-- ASYNC_RESULT_WRITE writes the result to its scalar register, or to each lane of its vector registers, one of them for 32 bits or less, a pair for 64, four for 128, and no other register or byte; ACCESS_COMPLETE of a finished operation takes it away and counts its flag down; a core-scope fence completes when what lies before it, and what the warp's barriers ordered before it, is done.
(02 R46, R50; 08 R145; 07 R127.) -/
def Obligations.ResultsAndCompletions : Prop :=
  ∀ (s : State) (core id : Nat) (o : Op),
    let u := s.focusCore core
    u.core.ops.find? (·.id == id) = some o → u.w.id = o.wid → u.core.frozen accessHolds = false →
    (o.done = true → o.wrote = false → tok 0 u.w.s = true → u.w.id ≠ 0 →
      (∀ (d : Nat) (a : LaneAcc), o.kind = .load d true → o.lanes = [a] → d ≠ 0 → ∃ t, exec (.asyncResultWrite core id) s = .next t ∧ t.w.rdS d = BitVec.ofNat 64 a.res ∧
        (∀ r, r ≠ d → t.w.rdS r = u.w.rdS r) ∧ t.w.v = u.w.v ∧ t.w.flags = u.w.flags ∧ t.mem = u.mem) ∧
      (∀ d : Nat, o.kind = .quiet d → d ≠ 0 → ∃ t, exec (.asyncResultWrite core id) s = .next t ∧ t.w.rdS d = BitVec.ofNat 64 o.res ∧
        (∀ r, r ≠ d → t.w.rdS r = u.w.rdS r) ∧ t.w.v = u.w.v ∧ t.w.flags = u.w.flags ∧ t.mem = u.mem)) ∧
    (o.done = true → o.wrote = false → tok zeroLanes u.w.v = true → u.w.id ≠ 0 → (∀ a ∈ o.lanes, a.lane < 64) → (o.lanes.map LaneAcc.lane).Nodup →
      ∀ d : Nat, (o.kind = .load d false ∨ o.kind = .cas d ∨ ∃ a, o.kind = .atom a (some d)) → ∃ t, exec (.asyncResultWrite core id) s = .next t ∧
        (∀ k < regCount o.w, (∀ a ∈ o.lanes, laneAt (t.w.rdV (d + k)) a.lane = BitVec.ofNat 32 (a.res / 2 ^ (32 * k))) ∧
          ∀ n < 64, (∀ a ∈ o.lanes, a.lane ≠ n) → laneAt (t.w.rdV (d + k)) n = laneAt (u.w.rdV (d + k)) n) ∧
        (∀ r, (∀ k < regCount o.w, r ≠ d + k) → t.w.rdV r = u.w.rdV r) ∧ t.w.s = u.w.s ∧ t.mem = u.mem) ∧
    (o.done = true → (o.wrote = true ∨ o.kind.returns = false) → o.psn = [] → o.fail = [] → o.id = id → exec (.accessComplete core id) s =
      .next ((u.onCore fun c => { c with ops := drop' (·.id == id) c.ops }).flagDown o.wid o.flag)) ∧
    (∀ k m, o.done = false → o.kind = .fence k m → o.sc = .core → u.core.beforeDone o k m = true → (∀ i ∈ o.waits, u.pendingOp i = false) → u.w.prot = false → u.w.id ≠ 0 → o.psn = [] → o.fail = [] → o.id = id →
      ∃ t, exec (.accessComplete core id) s = .next t ∧ t.core.ops = drop' (·.id == id) u.core.ops ∧ t.mem = u.mem ∧
        t.w = ((u.flagDown o.wid o.flag).w))

/-- L2_WRITEBACK puts a sector's dirty bytes in the stack, changing what no byte reads, and drops a clean sector; ECC_WRITEBACK clears a correctable error that has been read, SCRUB clears one and poisons an uncorrectable granule, counting each; SOFT_ERROR marks the granule, or poisons the L2 sector where the error is uncorrectable; in a register, latch, frame word, scratch word or tile slot a correctable one is counted and changes nothing, an uncorrectable one leaves the word zero and marked and nothing else changed; in a warp's state it asks for a restart, in a TLB or instruction cache it is counted and drops the entries; three missed heartbeats take refresh over, the hand-back ends it, a failure and a retraining are recorded.
(03 R71 to R80; 05 R104; 19 R368. That a marked word reads as zero, that every byte of the stack or L2 stays as it was and that the TLB loses all its entries is log 21.) -/
def Obligations.StacksAndSectors : Prop :=
  (∀ (s : State) (g : Nat),
    (let x := s.mem.sector g
     let k := s.mem.stackNo g
     tok Config.freshByte s.mem.bytes = true → tok Sector.absent s.mem.l2 = true → (s.mem.stack k).retraining = none →
     (x.dirty = 0 → ∃ t, exec (.l2Writeback g) s = .next t ∧ t.mem.sector g = Sector.absent ∧ t.mem.bytes = s.mem.bytes ∧
       (∀ a, a / 32 ≠ g → t.mem.byte a = s.mem.byte a) ∧ ∀ a, a / 32 = g → t.mem.byte a = s.mem.raw a) ∧
     (x.dirty ≠ 0 → (s.mem.stack k).failed = false → s.mem.bad g = false → x.poison = false → x.mark = 0 →
      ∃ t, exec (.l2Writeback g) s = .next t ∧ (t.mem.sector g).dirty = 0 ∧ (∀ a, t.mem.byte a = s.mem.byte a) ∧
       (∀ i < 32, x.dirty.getLsbD i = true → t.mem.raw (32 * g + i) = s.mem.byte (32 * g + i)) ∧
       (∀ a, a / 32 ≠ g → t.mem.raw a = s.mem.raw a) ∧ tok Config.freshByte t.mem.bytes = true)) ∧
    (tok 0 s.mem.latent = true →
      (∃ t, exec (.eccWriteback g) s = .next t ∧ tget 0 t.mem.latent g = (if tget 0 s.mem.latent g = 3 then 0 else tget 0 s.mem.latent g) ∧
        (∀ h, h ≠ g → tget 0 t.mem.latent h = tget 0 s.mem.latent h) ∧ t.mem.bytes = s.mem.bytes ∧ t.mem.l2 = s.mem.l2) ∧
      (let k := s.mem.stackNo g
       tok Stack.fresh s.mem.stk = true → tok false s.mem.poison = true → ∃ t, exec (.scrub g) s = .next t ∧ t.mem.bytes = s.mem.bytes ∧ t.mem.l2 = s.mem.l2 ∧
        (tget 0 s.mem.latent g = 2 → tget false t.mem.poison g = true ∧ tget 0 t.mem.latent g = 0 ∧
          (t.mem.stack k).uncorrected = (s.mem.stack k).uncorrected + 1 ∧ t.host.log = s.host.log ++ [.scrubbed g]) ∧
        (tget 0 s.mem.latent g = 1 ∨ tget 0 s.mem.latent g = 3 → t.mem.poison = s.mem.poison ∧ tget 0 t.mem.latent g = 0 ∧
          (t.mem.stack k).corrected = (s.mem.stack k).corrected + 1) ∧
        (tget 0 s.mem.latent g = 0 → t = s))) ∧
    (∀ c : Bool, tok 0 s.mem.latent = true → tok Sector.absent s.mem.l2 = true →
      (∃ t, exec (.softError (.dram g c)) s = .next t ∧ tget 0 t.mem.latent g = (if c = true ∧ tget 0 s.mem.latent g ≠ 2 then 1 else 2) ∧
        (∀ a, t.mem.byte a = s.mem.byte a)) ∧
      (∃ t, exec (.softError (.l2 g c)) s = .next t ∧ (c = true → t.mem = s.mem) ∧
        (c = false → (s.mem.sector g).bytes ≠ [] → (t.mem.sector g).poison = true) ∧ (∀ a, t.mem.byte a = s.mem.byte a)))) ∧
  (∀ (s : State) (wid cid core n : Nat),
    let counts := fun (t : State) (k : Nat) => (t.coreAt k).ctr.corrected = (s.coreAt k).ctr.corrected + 1
    (s.w.id = wid → wid ≠ 0 →
      (∀ r : RegSite, s.w.corE < 1024 → ∃ t, exec (.softError (.reg wid r true)) s = .next t ∧ counts t s.w.corE ∧ t.w = s.w ∧ t.mem = s.mem) ∧
      (∀ r l, r < 64 → l < 64 → tok zeroLanes s.w.v = true → ∃ t, exec (.softError (.reg wid (.v r l) false)) s = .next t ∧ .v r l ∈ t.w.bad ∧
        (∀ q i, i < 64 → laneAt (t.w.rdV q) i = if q = r ∧ i = l then 0 else laneAt (s.w.rdV q) i) ∧ t.w.s = s.w.s ∧ t.w.restart = s.w.restart) ∧
      (∀ k l, k < 8 → l < 64 → tok zeroLanes s.w.x = true → ∃ t, exec (.softError (.reg wid (.x k l) false)) s = .next t ∧ .x k l ∈ t.w.bad ∧
        (∀ q i, i < 64 → laneAt (t.w.rdX q) i = if q = k ∧ i = l then 0 else laneAt (s.w.rdX q) i) ∧ t.w.s = s.w.s ∧ t.w.restart = s.w.restart) ∧
      (∀ r, 0 < r → r < 64 → tok 0 s.w.s = true → ∃ t, exec (.softError (.reg wid (.s r) false)) s = .next t ∧ .s r ∈ t.w.bad ∧
        (∀ q, t.w.rdS q = if q = r then 0 else s.w.rdS q) ∧ t.w.v = s.w.v ∧ t.w.restart = s.w.restart) ∧
      (∀ i < 801, tok 0 s.w.frame = true → ∃ t, exec (.softError (.reg wid (.frame i) false)) s = .next t ∧ .frame i ∈ t.w.bad ∧
        (∀ j, tget 0 t.w.frame j = if j = i then 0 else tget 0 s.w.frame j) ∧ t.w.s = s.w.s ∧ t.w.restart = s.w.restart) ∧
      (s.w.run ≠ .retired → (∀ v ∈ s.warps, v.id ≠ wid) → ∃ t, exec (.softError (.warpState wid)) s = .next t ∧
        t.w = { s.w with errw := s.w.errw ||| 4, restart := s.w.restart ++ [.consumed true 0 0] })) ∧
    (s.co.cid = cid → cid ≠ 0 → ∀ k, 4 * k < 16384 * s.co.ns →
      (s.co.corE < 1024 → ∃ t, exec (.softError (.bank cid (.scratch k) true)) s = .next t ∧ counts t s.co.corE ∧ t.co = s.co) ∧
      (tok 0 s.co.scratch = true → ∃ t, exec (.softError (.bank cid (.scratch k) false)) s = .next t ∧ .scratch k ∈ t.co.bad ∧
        ∀ a, tget 0 t.co.scratch a = if a / 4 = k then 0 else tget 0 s.co.scratch a)) ∧
    (s.core.no = core → core < 1024 → n < 96 → tok TSlot.free s.core.slots = true →
      (∀ k, ∃ t, exec (.softError (.slot core n k true)) s = .next t ∧ counts t core ∧ t.core.slots = s.core.slots) ∧
      (∀ k, tok 0 (s.slotAt n).bytes = true → ∃ t, exec (.softError (.slot core n (some k) false)) s = .next t ∧ k ∈ (t.slotAt n).bad ∧
        (∀ a, tget 0 (t.slotAt n).bytes a = if a / 4 = k then 0 else tget 0 (s.slotAt n).bytes a) ∧ ∀ m, m ≠ n → t.slotAt m = s.slotAt m) ∧
      (∃ t, exec (.softError (.slot core n none false)) s = .next t ∧
        t.slotAt n = { s.slotAt n with ea := [], eb := [], exh := false, rung := 0, badMeta := true } ∧ ∀ m, m ≠ n → t.slotAt m = s.slotAt m)) ∧
    (core < 1024 →
      (∃ t, exec (.softError (.tlb core)) s = .next t ∧ counts t core ∧ (t.coreAt core).tlb = [] ∧ t.w = s.w ∧ t.mem = s.mem) ∧
      (∃ t, exec (.softError (.icache core)) s = .next t ∧ counts t core ∧ t.w = s.w ∧ t.mem = s.mem)) ∧
    (∀ die < 4, tok [] s.xl.dtlb = true → ∃ t, exec (.softError (.dieTlb die)) s = .next t ∧ counts t (256 * die) ∧ tget [] t.xl.dtlb die = [] ∧
      ∀ d, d ≠ die → tget [] t.xl.dtlb d = tget [] s.xl.dtlb d)) ∧
  (∀ (s : State) (n : Nat),
    let k := s.mem.stack (n % 12)
    tok Stack.fresh s.mem.stk = true →
    (∃ t, exec (.heartbeatReceived n) s = .next t ∧ t.mem.stack (n % 12) = { k with missed := 0 }) ∧
    (∃ t, exec (.heartbeatMiss n) s = .next t ∧ (t.mem.stack (n % 12)).missed = k.missed + 1 ∧
      ((t.mem.stack (n % 12)).owned = true ↔ k.owned = true ∨ k.missed = 2)) ∧
    (∃ t, exec (.refreshHandBack n) s = .next t ∧ t.mem.stack (n % 12) = { k with owned := false, missed := 0 }) ∧
    (∃ t, exec (.stackFailed n) s = .next t ∧ ((t.mem.stack (n % 12)).failed = true ↔ k.failed = true ∨ k.owned = true) ∧
      (k.owned = true → k.failed = false → t.host.log = s.host.log ++ [.stackFailed (n % 12)])) ∧
    (∀ r, k.retraining = some r → ∃ t, exec (.stackRetrainDone n) s = .next t ∧ t.mem.stack (n % 12) = { k with ratio := r, retraining := none }))

/-- On a core whose holds do not stop the copy engine: COPY_COMPLETE takes away a copy with nothing left and nothing unanswered and counts its flag down; a one-element local fill writes its pattern, a one-element CPYLL, CPYGL, CPYLG or CPYGG moves the element's bytes between bank memory and main memory (zeros for one outside the box) and no other byte; COPY_SUSPEND records the fault of the first element that cannot move in a free one of the warp's four slots; CPYP_FLIT_ARRIVAL, where the receiving bank is not in transition and has room, appends the flit to the target FIFO and ends the copy with its last.
(09 R168 to R171, R186 to R190. Which slot a suspended copy takes is free (log 23).) -/
def Obligations.CopiesMove : Prop :=
  ∀ (s : State) (core id : Nat) (c : Copy),
    let u := s.focusCore core
    u.core.copies.find? (·.id == id) = some c → u.copyAt id = some c → (u.warpAt c.wid).any Warp.prot = false → u.same = true →
    (c.susp = none → c.kind.plane = false → u.core.copyHeld c = false → u.core.frozen copyHolds = false →
      (c.count ≤ c.done → u.awaits id = false → c.psn = [] → c.fail = [] → c.bad = false → ∃ t, exec (.copyComplete core id) s = .next t ∧
        t.core.copies = drop' (·.id == id) u.core.copies ∧ t.w = (u.flagDown c.wid (some c.flag)).w ∧ t.mem = u.mem ∧ t.co = u.co) ∧
      (∀ hi, c.kind = .fil false hi → c.count = 1 → c.done = 0 → c.psn = [] → c.fail = [] → u.awaits id = false → u.co.cid = c.cid → u.co.cid ≠ 0 →
        u.co.corE = u.core.no → u.co.drain = none → addr64 c.dst + c.sz ≤ u.co.localBytes →
        ∃ t, exec (.copyComplete core id) s = .next t ∧ t.core.copies = drop' (·.id == id) u.core.copies ∧ t.mem = u.mem ∧
          t.co = u.co.engWrite u.now ((leBytes c.sz (fillPattern c.sz hi c.imm)).zipIdx.map fun p => (addr64 c.dst + p.2, p.1))) ∧
      (c.count = 1 → c.done = 0 → c.asked = 0 → c.got = [] → c.psn = [] → c.fail = [] → c.bad = false → u.awaits id = false →
        u.co.cid = c.cid → u.co.cid ≠ 0 → u.co.corE = u.core.no → u.co.drain = none → u.co.bad = [] →
        u.mem.neat → u.mem.retryq = [] → (∀ line, (u.mem.setmates line).length < 15) →
        let a := atOf c.srcAddr 0
        let b := atOf c.dstAddr 0
        let goes := fun (P : State → Prop) => ∃ t, exec (.copyComplete core id) s = .next t ∧ t.core.copies = drop' (·.id == id) u.core.copies ∧ P t
        let lands := fun l : List Byte => u.co.engWrite u.now (l.zipIdx.map fun p => (b + p.2, p.1))
        let here := (u.localOf c.cid).engRead ((List.range c.sz).map fun i => a + i)
        let main := fun (r : Ready) (va pa : Nat) => r = .ok (some (.main pa)) ∧ pa % 128 = va % 128 ∧ pa % 32 + c.sz ≤ 32
        let wrote := fun (t : State) (pb : Nat) (l : List Byte) => t.mem.read pb c.sz = l ∧ ∀ x, x < pb ∨ pb + c.sz ≤ x → t.mem.byte x = u.mem.byte x
        (c.kind = .gl → b + c.sz ≤ u.co.localBytes →
          (c.outside 0 = true → goes fun t => t.co = lands (List.replicate c.sz 0) ∧ t.mem = u.mem) ∧
          (∀ pa, c.outside 0 = false → main (u.readSide c 0) a pa → u.mem.poisoned (pa / 32) = false →
            goes fun t => t.co = lands (u.mem.read pa c.sz) ∧ ∀ x, t.mem.byte x = u.mem.byte x)) ∧
        (c.kind = .ll → a + c.sz ≤ u.co.localBytes → b + c.sz ≤ u.co.localBytes → goes fun t => t.co = lands here ∧ t.mem = u.mem) ∧
        (∀ pb, c.kind = .lg → a + c.sz ≤ u.co.localBytes → main (u.writeSide c 0) b pb → goes fun t => wrote t pb here ∧ t.co = u.co) ∧
        (∀ pk pa pb, c.kind = .gg pk → main (u.readSide c 0) a pa → main (u.writeSide c 0) b pb → u.mem.poisoned (pa / 32) = false →
          goes fun t => wrote t pb (u.mem.read pa c.sz) ∧ t.co = u.co)) ∧
      (∀ (k : Nat) (side : Bool) (sub a : Nat), c.done < c.count → c.asked = c.done → c.got = [] → (∀ far, c.group c.dstAddr (c.block far) c.done ≠ []) →
        (u.readSide c c.done = .fault k side sub a ∨ ∃ hi, c.kind = .fil true hi ∧ u.writeSide c c.done = .fault k side sub a) →
        (∃ m < 4, ∀ x ∈ u.core.copies, x.wid = c.wid → ∀ v ∈ x.susp, v.slot ≠ m) →
        ∃ t n m, exec (.copySuspend core id) s = .next t ∧ n < 4 ∧ (∀ x ∈ u.core.copies, x.wid = c.wid → ∀ v ∈ x.susp, v.slot ≠ n) ∧
          t.core.copies.find? (·.id == id) = some
            { c with asked := m, walked := [], susp := some { slot := n, kind := k, dstSide := side, sub := sub, addr := a, reported := false } } ∧
          t.w = u.w ∧ t.mem = u.mem)) ∧
    (∀ (chan : Nat) (a : Nat × Nat), c.kind = .p chan → u.core.planeBusy c = false → u.core.frozen [] = false →
      ((u.gangOf (u.localOf c.cid)).bind fun g => g.arrival chan) = some a →
      let src := u.localOf c.cid
      let tgt := u.localOf a.1
      let offs := (List.range 64).map fun i => addr64 (c.src + 64 * c.done + i)
      src.drain = none → src.bad = [] → (∀ o ∈ offs, o < src.localBytes) →
      tgt.cid = a.1 → tgt.cid ≠ 0 → a.2 < tgt.nf → tgt.moving (tgt.fifoBank a.2) = false → (tgt.fifo a.2).q.length < 256 → tok Fifo.empty tgt.fifos = true →
      ∃ t, exec (.cpypFlitArrival core id) s = .next t ∧ ((t.localOf a.1).fifo a.2).q = (tgt.fifo a.2).q ++ [src.engRead offs] ∧
        t.core.copies.find? (·.id == id) = (if 64 * (c.done + 1) < c.kind.packedBytes (geoOf c.geo) then some { c with done := c.done + 1 } else none))

/-- TLB_WALK_START enters a walk keyed by the 64 KiB page of the address (log 48), WALK_COMPLETE of a walk that has a walker ends it, and a found leaf stands in the die's and the waiting core's TLB; TIER_PROMOTE starts the promotion of the first due page, with an eviction where the quota is full, or counts one wait for it; MIGRATION_COMPLETE, where no access is on its way to the frame and nothing it writes is pinned or retrains, of an eviction writes the leaf and nothing else; a node failure loses the page and reports it.
(04 R95, R96; 03 R81 to R87. What becomes of the lost page of an eviction is log 28.) -/
def Obligations.WalksAndTiers : Prop :=
  ∀ (s : State) (die core ctx va : Nat),
    (∀ m : Merge, s.xl.merge.find? (fun m => m.at_ die ctx va) = some m → s.walking m = true → s.walkWaits ctx va = false →
      (∀ line, (s.mem.setmates line).length < 13) →
      (∃ t, exec (.walkComplete die ctx va) s = .next t ∧ (∀ m ∈ t.xl.merge, m.at_ die ctx va = false) ∧ t.w = s.w ∧ t.mem.bytes = s.mem.bytes ∧
        (∀ e sz, s.walkOf ctx va = .leaf e sz → tok [] s.xl.dtlb = true →
          let l : TlbEnt := { ctx := ctx, va := pageOf sz va, sz := sz, leaf := BitVec.ofNat 64 e }
          hitTlb (tget [] t.xl.dtlb die) ctx va = some l ∧ (s.core.no ∈ m.cores → hitTlb t.core.tlb ctx va = some l)) ∧
        (∀ d, s.walkOf ctx va = .fault d → t.xl.dtlb = s.xl.dtlb ∧ t.core.tlb = s.core.tlb))) ∧
    (hitTlb (tget [] s.xl.dtlb (core / 256)) ctx va = none → (s.xl.merge.any fun m => m.at_ (core / 256) ctx va) = false →
      (s.xl.merge.filter fun m => m.die == core / 256).length < 1024 →
      exec (.tlbWalkStart core ctx va) s = .next (s.onXl fun x =>
        { x with merge := x.merge ++ [{ die := core / 256, ctx := ctx, va := pageOf .k64 va, cores := [core], copies := [] }] })) ∧
    (∀ (p : TierMove) (c : Ctx) (g : TierPage), s.ctxAt ctx = some c → p.window = none →
      firstBy TierPage.upKey (c.tier.filter fun t => t.due c && !s.isMigrating ctx t.va) = some g → p.frame % 2 ^ 21 = 0 → p.frame + 2 ^ 21 ≤ Config.memBytes → s.inRange c p.frame (2 ^ 21) = true →
      (s.resident c < c.quota → ∃ t m, exec (.tierPromote ctx p) s = .next t ∧ t.xl.migr = s.xl.migr ++ [m] ∧ m.ctx = ctx ∧ m.va = g.va ∧ m.toMain = true ∧
        m.frame = p.frame ∧ t.mem = s.mem) ∧
      (c.quota ≤ s.resident c → c.victim (s.isMigrating ctx) = none → c.victim (fun _ => false) = none →
        (g.waited = true → exec (.tierPromote ctx p) s = .next s) ∧
        (g.waited = false → exec (.tierPromote ctx p) s =
          .next ((s.onCtx ctx fun c => { c with waits := c.waits + 1 }).onTier ctx g.va fun q => { q with waited := true }))) ∧
      (c.quota ≤ s.resident c → ∀ (v : TierPage) (pa : Nat) (e : Word), c.victim (s.isMigrating ctx) = some v → s.xlateMem ctx v.va [] = .ok (.main pa) e →
        ∃ t m n, exec (.tierPromote ctx p) s = .next t ∧ t.xl.migr = s.xl.migr ++ [n, m] ∧ n.ctx = ctx ∧ n.va = v.va ∧ n.toMain = false ∧ n.frame = pa ∧
          m.va = g.va ∧ m.toMain = true ∧ t.mem = s.mem)) ∧
    (∀ g : Migr, s.migrOf ctx va = some g → (∀ line, (s.mem.setmates line).length < 15) →
      (g.toMain = false → s.reaching g = false → s.frameAway g.frame = false → s.blocked (s.migrated g) = false → s.mem.latent = [] → tok Sector.absent s.mem.l2 = true → (∀ p ∈ s.mem.l2, tok none p.2.bytes = true) →
        ∃ t, exec (.migrationComplete ctx va) s = .next t ∧ t.xl.migr = s.xl.migr.erase g ∧ t.w = s.w ∧
          (∀ a, s.leafAddr g.ctx g.va .m2 = some a → a % 8 = 0 → s.mem.poisoned (a / 32) = false → t.mem.entry a = retarget (s.leafOf g) g.off 1 g.win ∧
            ∀ b, b < a ∨ a + 8 ≤ b → t.mem.byte b = s.mem.byte b)) ∧
      (g.toMain = true → s.reaching g = false → s.frameAway g.frame = false → s.blocked (s.migrated g) = false → ((s.xl.migr.takeWhile (· != g)).any fun h => h.ctx == ctx && !h.toMain) = false →
        ∃ t, exec (.migrationComplete ctx va) s = .next t ∧ t.xl.migr = s.xl.migr.erase g ∧ t.w = s.w) ∧
      (∃ t, exec (.migrationNodeFailure ctx va) s = .next t ∧ t.xl.migr = s.xl.migr.erase g ∧ t.host.notes = s.host.notes ++ [.pageLost ctx g.va] ∧
        (g.toMain = false → (ctx, g.va) ∈ t.xl.lost) ∧
        t.sch.running = upd (fun l => l.ctx == ctx) (fun l => { l with entries := addEntryTo { kind := .fabric, status := .lost, val := g.va } l.entries }) s.sch.running))

/-- LINK_TRAIN bonds four ports to one trunk, whose path is then up and theirs down, or leaves them apart; LANE_STATE_CHANGE records the margins, logs a change of state and tells the host, and a failed lane of a plain port leaves the port's path down; LANE_RETIRE takes a lane out, and the last one the trunk's path; PATH_DOWN moves the requests of the path and its windows to their alternative if that is up, and a request without one fails with LOST and counts in A; RETRANSMIT marks the requests sent on a path that failed.
(15 R281 to R288, R293. The numbers of paths are log 30, lanes log 32.) -/
def Obligations.LinksAndPaths : Prop :=
  ∀ (s : State) (n : Nat), tok Trunk.fresh s.fab.trunks = true → tok LaneRec.fresh s.fab.lanes = true →
    (n < 8 → ∀ r : TrainResult, ∃ t, exec (.linkTrain n r) s = .next t ∧
      ((t.trunkAt n).up = true ↔ (∀ i < 4, r.portsUp.getD i false = true) ∧ r.sameNode = true ∧ r.accepts = true) ∧
      ((t.trunkAt n).up = true → (t.trunkAt n).lanes = List.range 16 ∧ t.pathUp (32 + n) = true ∧ ∀ i < 4, t.pathUp (4 * n + i) = false) ∧
      ((t.trunkAt n).up = false → t.pathUp (32 + n) = false ∧ ∀ i < 4, t.pathUp (4 * n + i) = r.portsUp.getD i false)) ∧
    (∀ m : LaneMargin,
      let u := m.thresh.elim s fun l => s.onFab fun f => { f with thresh := l }
      let new := if (s.laneRec n).state = u.laneState n m then [] else [LogEv.lane n (u.laneState n m)]
      ∃ t, exec (.laneStateChange n m) s = .next t ∧
      t.laneRec n = { eyeh := m.eyeh % 65536, eyew := m.eyew % 256, syms := min ((s.laneRec n).syms + m.errs) (2 ^ 32 - 1), state := u.laneState n m } ∧
      (∀ l, l ≠ n → t.laneRec l = s.laneRec l) ∧ t.host.log = s.host.log ++ new ∧ t.host.told = s.host.told ++ new ∧
      (u.laneState n m = 3 → t.pathUp (n / 4) = false)) ∧
    ((s.trunkAt (n / 16)).up = true → (s.laneRec n).state = 2 → ∃ t, exec (.laneRetire n) s = .next t ∧
      (t.trunkAt (n / 16)).lanes = (s.trunkAt (n / 16)).lanes.filter (· != n % 16) ∧
      (t.pathUp (32 + n / 16) = true ↔ s.pathUp (32 + n / 16) = true ∧ (t.trunkAt (n / 16)).lanes ≠ [])) ∧
    (exec (.retransmit n) s = .next (s.onFab fun f =>
      { f with out := upd (fun r => r.path == n && r.failed) (fun r => { r with marked := true, failed := false }) f.out })) ∧
    ((∀ r ∈ s.fab.out, r.path = n → (s.windowAt r.win).path = n ∧ ∃ a, (s.windowAt r.win).alt = some a ∧ a ≠ n ∧ s.pathUp a = true) →
      s.fab.queued = [] → ∃ t, exec (.pathDown n) s = .next t ∧ t.pathUp n = false ∧
      t.fab.out = s.fab.out.map (fun r => if r.path = n then { r with path := ((s.windowAt r.win).alt).getD n, failed := true } else r) ∧
      (∀ p ∈ s.fab.windows, p.2.path = n → ∀ a, p.2.alt = some a → a ≠ n → s.pathUp a = true → (p.1, { p.2 with path := a, alt := none }) ∈ t.fab.windows) ∧
      t.jobs = s.jobs ∧ t.mem = s.mem) ∧
    (∀ r : OutReq, s.fab.out = [r] → s.fab.queued = [] → r.path = n → (s.windowAt r.win).path = n → (s.windowAt r.win).alt = none →
      tok { i := 0, c := 0, a := 0 } (s.jobAt r.job).cnt = true → ∃ t, exec (.pathDown n) s = .next t ∧ t.fab.out = [] ∧
      ((t.jobAt r.job).at_ (dieOfPath n)).a = add48 ((s.jobAt r.job).at_ (dieOfPath n)).a 1 ∧
      (∀ c i l o, r.who = .op c i l → s.opAt i = some o → (t.opAt i).any (fun p => p.fail.any fun q => q.1 == 3 && q.2.1 == r.va) = true))

/-- Requests of a stream perform in order at the target and are answered; a page that is not in main memory is asked of the fault service at once: where the service takes it the stream freezes, and where it refuses, fails or finds another leaf the request is aborted and counts in C; STREAM_RESUME and STREAM_ABORT end a freeze; repeats are answered again without being performed; an answer at the source completes the lanes, drains or elements that wait for it.
(15 R289 to R295, R421. Log 27 and 29.) -/
def Obligations.StreamsAndReplies : Prop :=
  (∀ (s : State) (q : RemReq),
    let t := s.streamAt q.st
    let done := fun (u : State) (a : Answer) => u.fab.replies = s.fab.replies ++ [{ st := q.st, sn := q.sn, ans := a }]
    let counted := fun (u : State) => ((u.jobAt q.job).at_ (q.port / 8)).c = add48 ((s.jobAt q.job).at_ (q.port / 8)).c 1
    tok { i := 0, c := 0, a := 0 } (s.jobAt q.job).cnt = true →
    ((t.waiting.any fun w => w.sn == q.sn) = false → (q.marked = false ∨ t.hi < q.sn) → t.frozen = none →
      ((s.ctxAt q.ctx).isSome = true → q.ctx ≠ 0 →
        (∀ (pa : Nat) (e : Word) (bs : List (Nat × Byte)), q.op = .write bs [] → s.xlateMem q.ctx q.va [2] = .ok (.main pa) e →
          s.lineTaken (pa / 128) (.rem q.st q.sn) = false → s.behindOther q = false → s.mem.away (pa / 32) = false → (s.mem.setmates (pa / 128)).length < 16 →
          ∃ u, exec (.remoteRequestArrival q) s = .next u ∧ done u .done ∧ counted u ∧
            u.mem = { s.mem.write (reqWriter q) (bs.map fun p => (pa + p.1, p.2)) with retryq := u.mem.retryq } ∧
            (u.streamAt q.st).frozen = none ∧ (u.streamAt q.st).hi = max t.hi q.sn) ∧
        (let x := s.xlateMem q.ctx q.va (remPerm q.op)
         (∀ pa e, x ≠ .ok (.main pa) e) → x ≠ .migrating → (∀ a, x ≠ .nowhere a) →
          ((s.serve q.ctx q.va (remNeed q.op)).2 = .waits → ∃ u, exec (.remoteRequestArrival q) s = .next u ∧
            (u.streamAt q.st).frozen = some q ∧ (u.streamAt q.st).hi = t.hi ∧ done u .frozen ∧ u.mem = s.mem) ∧
          ((s.serve q.ctx q.va (remNeed q.op)).2 = .refused ∨ (s.serve q.ctx q.va (remNeed q.op)).2 = .failed ∨ s.serve q.ctx q.va (remNeed q.op) = (s, .present) →
            ∃ u, exec (.remoteRequestArrival q) s = .next u ∧ (u.streamAt q.st).frozen = none ∧ done u .aborted ∧ counted u ∧ u.mem = s.mem))) ∧
      ((s.ctxAt q.ctx).isNone = true ∨ q.ctx = 0 → ∃ u, exec (.remoteRequestArrival q) s = .next u ∧ done u .nowin ∧ u.mem = s.mem ∧ counted u)) ∧
    ((t.waiting.any fun w => w.sn == q.sn) = false → q.marked = true → q.sn ≤ t.hi → performsOnce q.op = true → ∃ u, exec (.remoteRequestArrival q) s = .next u ∧
      u.mem = s.mem ∧ u.jobs = s.jobs ∧
      ((s.fab.drc.any fun d => d.port == q.port && decide (d.st = q.st) && d.sn == q.sn) = false → done u .stale)) ∧
    (∀ (st : Stream) (bs : List (Nat × Byte)) (pa : Nat) (e : Word), (s.streamAt st).frozen = some q → (s.streamAt st).behind = [] →
      (s.streamAt st).fault = false → q.st = st → q.op = .write bs [] →
      (s.ctxAt q.ctx).isSome = true → q.ctx ≠ 0 → s.xlateMem q.ctx q.va [2] = .ok (.main pa) e →
      s.lineTaken (pa / 128) (.rem q.st q.sn) = false → s.behindOther q = false → s.mem.away (pa / 32) = false → (s.mem.setmates (pa / 128)).length < 16 →
      ∃ u, exec (.streamResume st) s = .next u ∧ (u.streamAt st).frozen = none ∧ (u.streamAt st).behind = [] ∧
        u.mem = { s.mem.write (reqWriter q) (bs.map fun p => (pa + p.1, p.2)) with retryq := u.mem.retryq } ∧ done u .done) ∧
    (∀ st : Stream, (s.streamAt st).frozen = some q → s.faulted q = true → ∃ u, exec (.streamAbort st) s = .next u ∧
      (u.streamAt st).frozen = none ∧ (u.streamAt st).behind = [] ∧ u.mem = s.mem ∧
      u.fab.replies = s.fab.replies ++ (s.streamAt st).waiting.map fun r => { st := r.st, sn := r.sn, ans := .aborted }) ∧
    (∀ port : Nat, exec (.drcExpire port) s = .next (s.onFab fun f => { f with drc := f.drc.eraseP fun d => d.port == port }))) ∧
  (∀ (s : State) (rid : Nat) (r : OutReq) (core id lane : Nat) (o : Op),
    s.fab.out.find? (·.rid == rid) = some r → s.fab.queued = [] → r.who = .op core id [lane] → s.opAt id = some o → o.id = id →
    (∀ v : Word, ∃ t p, exec (.remoteReply rid (.value v false)) s = .next t ∧ t.fab.out = drop' (·.rid == rid) s.fab.out ∧ t.opAt id = some p ∧ t.mem = s.mem ∧
      (∀ x ∈ p.lanes, x.lane = lane → x.done = true ∧ (x.pl.remote.isSome = true → x.res = v.toNat % 2 ^ (8 * wBytes o.w))) ∧
      (∀ x ∈ o.lanes, x.lane ≠ lane → x ∈ p.lanes)) ∧
    (∀ (a : Answer) (c : Nat), s.fab.frozen = [] → (a = .aborted ∧ c = 1 ∨ a = .stale ∧ c = 2 ∨ a = .lost ∧ c = 3 ∨ a = .unsup ∧ c = 4 ∨ a = .nowin ∧ c = 5) →
      r.rid = rid → ∃ t p, exec (.remoteReply rid a) s = .next t ∧ t.fab.out = drop' (·.rid == rid) s.fab.out ∧ t.opAt id = some p ∧ t.mem = s.mem ∧
        (∃ m, p.fail = addFail o.fail c r.va m) ∧ (∀ x ∈ p.lanes, x.lane = lane → x.done = true ∧ x.res = 0)))

/-- A wave starts where a QUIET of the job is drained, answers every QUIET that stands then, and takes this device's sums at its turn in the set; its end completes the QUIETs it answers when both passes find the sums quiet; QTMO ends one QUIET, and a timeout or a failed node makes every job indeterminate whose set holds the participant; a set registered with a failed member is so at once.
(15 R296 to R302. Log 33.) -/
def Obligations.DecantWaves : Prop :=
  ∀ (s : State) (job : Nat),
    let d := s.jobAt job
    let l := s.quiets job
    (d.set.isSome = true → d.indet = false → d.wave = none → l.any s.drained = true → ∃ t, exec (.waveStart job) s = .next t ∧
      (t.jobAt job).wave = some (if (d.set.bind List.head?) = some (.device s.fab.devNo) then [d.sums] else []) ∧
      (t.jobAt job).waiting.map Prod.snd = l.map Op.id ∧ t.core = s.core) ∧
    (∀ w : List WaveSum, d.wave = some w → w.length < 2 → ∃ t, exec (.waveStart job) s = .next t ∧ (t.jobAt job).wave = some (w ++ [d.sums]) ∧ t.core = s.core) ∧
    (∀ (w p q : WaveSum) (core id : Nat) (o : Op), d.wave = some [w, w] → d.waiting = [(core, id)] → s.opAt id = some o → o.id = id → o.done = false →
      (d.set = some [.device s.fab.devNo] → p = { i := 0, c := 0, a := 0 } → q = { i := 0, c := 0, a := 0 } → w.i < 2 ^ 48 → w.c < 2 ^ 48 → w.a < 2 ^ 48 →
        w.i = add48 w.c w.a → ∃ t, exec (.waveEnd job p q) s = .next t ∧ t.opAt id = some { o with done := true, res := 1 } ∧ (t.jobAt job).wave = none) ∧
      (s.takesPart d = false → (p ≠ q ∨ p.i ≠ add48 p.c p.a) → p.i < 2 ^ 48 → p.c < 2 ^ 48 → p.a < 2 ^ 48 → q.i < 2 ^ 48 → q.c < 2 ^ 48 → q.a < 2 ^ 48 →
        ∃ t, exec (.waveEnd job p q) s = .next t ∧ t.opAt id = some o ∧ (t.jobAt job).wave = none)) ∧
    (∀ (core id : Nat) (o : Op), (s.focusCore core).core.ops.find? (·.id == id) = some o → o.asks o.job = true → ∃ t, exec (.qtmoExpiry core id) s = .next t ∧
      t.core.ops.find? (·.id == id) = some { o with done := true, res := 2 }) ∧
    (∀ p : Member, d.wave.isSome = true → (∃ l, d.set = some l ∧ p ∈ l) → ∃ t, exec (.participantTimeout job p) s = .next t ∧
      (t.jobAt job).indet = true ∧ p ∈ (t.jobAt job).failed ∧ p ∈ t.fab.failed ∧ (∀ o ∈ t.core.ops, o.asks job = false) ∧
      ∀ e ∈ s.jobs, (∃ l, e.set = some l ∧ p ∈ l) → (t.jobAt e.job).indet = true) ∧
    (∀ node : Nat, ∃ t, exec (.nodeFailure node) s = .next t ∧ .node node ∈ t.fab.failed ∧
      ∀ e ∈ s.jobs, (∃ l, e.set = some l ∧ .node node ∈ l) → (t.jobAt e.job).indet = true) ∧
    (∀ set : MemberList, set.length ≤ 64 → job < 256 → ∃ t, exec (.registerParticipantSet job set) s = .next t ∧
      ((∀ p ∈ set, p ∉ s.fab.failed) → t.jobAt job = { d with set := some set, failed := [] }) ∧
      ((∃ p ∈ set, p ∈ s.fab.failed) → (t.jobAt job).set = some set ∧ (t.jobAt job).indet = true) ∧
      ∀ j, j ≠ job → t.jobAt j = s.jobAt j)

/-- GANG_PLACE of a gang of one cohort of one warp, first in turn, on a core that has room: where the kernel's channels do not fit the launch is refused with RESOURCE; with areas that the loader's mappings make good, slot tables that are free and code that is in place, it creates the gang, cohort and warp with the state of a new warp, the trap label or the loader's stub in TVEC and the registers the loader sets (s56, s57, s58, s61, s62, s63, HSP), and writes the exit stub; LAUNCH_COMPLETE ends a launch all of whose gangs have been placed and have ended and sends its record; WATCHDOG_EXPIRY leaves the partition's cores empty, the launch ended and main memory as it was; STUB_REDIRECT, where nothing is pinned or retrains, writes four bytes at offset 56 of the stub and no other.
(17 R333 to R342, R349, R350; 20 R382, R386; 09 R188; 22 R398. Log 31, 34, 35 and 43.) -/
def Obligations.LaunchesAndGangs : Prop :=
  ∀ (s : State) (uid part : Nat),
    (∀ (pl : Placement) (p : Part) (q : Queue) (l : Launch) (k0 : Kernel) (c : CohortPlace) (a : WarpArea),
      s.partAt part = some p → s.queueAt pl.q = some q → s.candidate p q = some (l, k0, 1) → s.isFirst p q = true → pl.cos = [c] → c.areas = [a] →
      s.coresGood p (placedKernel k0 l.retrans) 1 pl = true →
      (s.chansFit k0.chans k0.fifo [c.core] = false → l.placed = 0 → ∃ t, exec (.gangPlace part pl) s = .next t ∧
        t.host.done = s.host.done ++ [{ l.record with status := .resource }] ∧ t.w = s.w ∧ t.warps = s.warps ∧ t.mem = s.mem ∧ t.sch.gangs = s.sch.gangs) ∧
      (∀ (u v z : State) (x : Loaded), let k := placedKernel x.k l.retrans
        s.chansFit k0.chans k0.fifo [c.core] = true → s.slotsGood [c.core] k.chans pl.slots = true → s.unsettled = false →
        State.loaderMaps l.ctx pl.maps s = some u → u.retranslated l pl.code = some v → v.kernelAt l.ctx l.entry = some x → v.goodPlace p k l.ctx 1 pl = true →
        v.loadGang k l.ctx pl = some z →
        ∃ (t : State) (w : Warp) (co : Cohort) (g : Gang), exec (.gangPlace part pl) s = .next t ∧ w ∈ t.warps ∧ co ∈ t.cohorts ∧ t.sch.gangs = z.sch.gangs ++ [g] ∧
          g.launch = l.uid ∧ g.size = 1 ∧ g.slots = pl.slots ∧ g.cores = [c.core] ∧ g.ctx = l.ctx ∧ w.cid = co.cid ∧ co.gang = g.uid ∧ w.corE = c.core ∧ co.corE = c.core ∧
          co.ns = k.scratch ∧ co.nf = k.fifo ∧ co.nl = k.l1 ∧
          w.pc = BitVec.ofNat 64 k.entry &&& ~~~31 ∧ w.em = BitVec.allOnes 64 ∧ w.am = BitVec.allOnes 64 ∧ w.run = .ready ∧ w.hm = false ∧ w.flags = [] ∧ w.v = [] ∧ w.x = [] ∧
          w.tvec = BitVec.ofNat 64 (k.trap.getD x.halt) ∧ w.nregs = k.vregs ∧ w.ctx = l.ctx ∧ w.job = l.job ∧ w.rdS 56 = l.param ∧ w.rdS 57 = BitVec.ofNat 64 a.stack ∧
          w.rdS 58 = BitVec.ofNat 64 (16384 * k.scratch) ∧ w.rdS 61 = BitVec.ofNat 64 pl.exitStub ∧
          w.rdS 62 = BitVec.ofNat 64 (a.stack + stackBytes k) ∧ w.rdS 63 = (if k.tls = 0 then 0 else BitVec.ofNat 64 a.tls) ∧ w.hsp = BitVec.ofNat 64 (a.hstack + 65536) ∧
          (∀ r, r ∉ [56, 57, 58, 61, 62, 63] → w.rdS r = 0) ∧ t.mem = z.mem ∧
          (∀ (pa : Nat) (e : Word), v.mem.neat → k.tls = 0 → pa % 32 = 0 → (∀ line, (v.mem.setmates line).length < 15) →
            (∀ j < 4, ∃ y, State.putVa l.ctx codeLeaf ((pieces 129 pl.exitStub exitStub).take j) v = some y ∧
              y.xlateMem l.ctx (pl.exitStub + 32 * j) [] = .ok (.main (pa + 32 * j)) e) → t.mem.read pa 128 = exitStub))) ∧
    (∀ l : Launch, s.sch.running.find? (·.uid == uid) = some l →
      (l.placed = l.ngang → (∀ g ∈ s.sch.gangs ++ s.sch.saved.map Saved.gang, g.launch ≠ uid) → l.status = .ok → ∃ t, exec (.launchComplete uid) s = .next t ∧
        t.sch.running = drop' (·.uid == uid) s.sch.running ∧ t.host.done = s.host.done ++ [l.record] ∧ t.w = s.w ∧ t.mem = s.mem) ∧
      (∀ p : Part, s.partAt l.part = some p → (∀ g ∈ s.sch.saved, g.gang.launch ≠ uid) → ∃ t, exec (.watchdogExpiry uid) s = .next t ∧
        (∀ w ∈ t.allWarps, w.corE ∉ p.cores) ∧ (∀ co ∈ t.allCohorts, co.corE ∉ p.cores) ∧ (∀ g ∈ t.sch.gangs, g.part ≠ p.id) ∧
        (∀ x ∈ t.sch.running, x.uid ≠ uid) ∧ (∀ c ∈ t.allCores, c.no ∈ p.cores → c.ops = [] ∧ c.copies = [] ∧ c.mxq = [] ∧ c.slots = [] ∧ c.running = none) ∧
        t.mem.bytes = s.mem.bytes ∧ t.mem.l2 = s.mem.l2)) ∧
    (∀ (ctx stub pa : Nat) (e : Word) (off : BitVec 32), s.mem.neat → s.xlateMem ctx (stub + 56) [] = .ok (.main pa) e → s.unsettled = false →
      (∀ line, (s.mem.setmates line).length < 15) → ∃ t, exec (.stubRedirect ctx stub off) s = .next t ∧
      t.mem.read pa 4 = leBytes 4 off.toNat ∧ ∀ b, b < pa ∨ pa + 4 ≤ b → t.mem.byte b = s.mem.byte b)

/-- POWER_ON sets the self-test's bits and an empty machine whose trained ports are up, or, where the verification failed, one in ROM with nothing tested or trained; INPUT_DISCONNECT keeps power only between 700 V and 850 V, RAIL_SAMPLE keeps the last 1,024 samples of a rail with a 16-bit counter; FLUX_ESTIMATE, the backstop (also one overdue at an estimate), the interrupts of Caddy and the register writes change the die's registers as their table says and no other; a write of 1 to an ALERT bit in the cycle in which an estimate sets it leaves it set; there is no die beyond the fourth.
(21 R394 to R397; 27 R414, R415. Log 7, 16 and 38; the first value of a rail's counter is log 39.) -/
def Obligations.PowerEvents : Prop :=
  (∀ (s : State) (t : SelfTest),
    (∃ u, exec (.powerOn t) s = .next u ∧ u.host.powered = true ∧ u.host.romOnly = !t.sigOk ∧ u.host.session = none ∧ u.warps = [] ∧ u.w = Warp.blank ∧ u.sch = SchSt.fresh ∧
      u.xl = XlSt.fresh ∧ u.mem.bytes = [] ∧ (∀ n, u.windowAt n = Window.zero) ∧ u.fab.out = [] ∧ u.fab.queued = [] ∧ u.fab.tstreams = [] ∧
      (t.sigOk = true → u.host.groups = t.groups ∧ u.host.stacksOk = t.stacksOk ∧ u.host.portsOk = t.ports ∧
        (∀ n < 12, (u.mem.stack n).failed = !t.stacksOk.getLsbD n) ∧ ∀ p < 32, u.pathUp p = t.ports.getLsbD p) ∧
      (t.sigOk = false → u.host.groups = 0 ∧ u.host.stacksOk = 0 ∧ u.host.portsOk = 0 ∧ ∀ n < 12, (u.mem.stack n).failed = true)) ∧
    (∀ v : Nat, ∃ u, exec (.inputDisconnect v) s = .next u ∧ (u.host.powered = true ↔ s.host.powered = true ∧ 700 ≤ v ∧ v ≤ 850)) ∧
    (∀ (n : Nat) (r : RailValue), tok [] s.rails = true → ∃ u x, exec (.railSample n r) s = .next u ∧ (tget [] u.rails n).getLast? = some (x, r) ∧
      (∀ y, (tget [] s.rails n).getLast? = some y → x = (y.1 + 1) % 65536) ∧
      (tget [] u.rails n).length = min 1024 ((tget [] s.rails n).length + 1) ∧ ∀ m, m ≠ n → tget [] u.rails m = tget [] s.rails m)) ∧
  (∀ (s : State) (d : Nat), 4 ≤ d → exec (.backstop d) s = .next s ∧ exec (.caddyExtInterrupt d) s = .next s ∧ exec (.caddyTimerInterrupt d) s = .next s ∧
    (∀ a, exec (.alertClear d a) s = .next s) ∧ ∀ v : Word, exec (.capfluxWrite d v) s = .next s ∧ exec (.pcapWrite d v) s = .next s ∧
      (∀ g, exec (.throtWrite d g v) s = .next s) ∧ ∀ off, exec (.powerRegWrite d off v) s = .next s) ∧
  (∀ (s : State) (d : Nat), tok DieP.fresh s.dies = true → d < 4 →
    let p := s.dieAt d
    let ran := ∃ c, p.clock = some c ∧ c + 100 ≤ p.usec
    (∀ flux pwr : Nat, flux < 65536 → pwr < 65536 → p.usec < 2 ^ 63 → let above := p.capflux < flux ∨ p.pcap < pwr
      ∃ t, exec (.fluxEstimate d flux pwr) s = .next t ∧ (t.dieAt d).flux = flux ∧ (t.dieAt d).pwr = pwr ∧
      (t.dieAt d).usec = p.usec + 10 ∧ ((t.dieAt d).alert.getLsbD 0 = true ↔ p.alert.getLsbD 0 = true ∨ p.capflux < flux) ∧
      ((t.dieAt d).alert.getLsbD 1 = true ↔ p.alert.getLsbD 1 = true ∨ p.pcap < pwr) ∧ ((t.dieAt d).alert.getLsbD 2 = true ↔ p.alert.getLsbD 2 = true ∨ ran) ∧
      (¬ above → (t.dieAt d).clock = none) ∧ (above → p.hot = false → (t.dieAt d).clock = some (p.usec + 10)) ∧
      (above → p.hot = true → ¬ ran → (t.dieAt d).clock = p.clock) ∧ (¬ ran → (t.dieAt d).throt = p.throt) ∧
      (ran → tok 0 p.throt = true → ∀ g < 16, tget 0 (t.dieAt d).throt g = 15)) ∧
    (ran → tok 0 p.throt = true → ∃ t, exec (.backstop d) s = .next t ∧ (∀ g < 16, tget 0 (t.dieAt d).throt g = 15) ∧
      (t.dieAt d).alert = p.alert ||| 4 ∧ (t.dieAt d).clock = none) ∧
    (¬ ran → ∃ t, exec (.backstop d) s = .next t ∧ t.dieAt d = p) ∧
    (let ext := p.alert &&& p.alerten ≠ 0 ∧ p.caddy.mieBit = true ∧ p.caddy.mie.getLsbD 11 = true
     let tim := p.tcmp ≤ p.usec ∧ p.caddy.mieBit = true ∧ p.caddy.mie.getLsbD 7 = true
     let entered := fun (n : Word) => { p.caddy with mepc := p.caddy.pc, mcause := n, mpie := true, mieBit := false, pc := p.caddy.mtvec &&& ~~~3 }
     (∃ t, exec (.caddyExtInterrupt d) s = .next t ∧ (ext → (t.dieAt d).caddy = entered 0x800000000000000B) ∧ (¬ ext → t.dieAt d = p)) ∧
     (∃ t, exec (.caddyTimerInterrupt d) s = .next t ∧ (tim → ¬ ext → (t.dieAt d).caddy = entered 0x8000000000000007) ∧ (¬ tim ∨ ext → t.dieAt d = p))) ∧
    (∀ a : AlertWrite, ∃ t, exec (.alertClear d a) s = .next t ∧
      t.dieAt d = { p with alert := p.alert &&& ~~~(if a.same then a.val.setWidth 3 &&& ~~~p.sets else a.val.setWidth 3) }) ∧
    (∀ v : Word, (∃ t, exec (.capfluxWrite d v) s = .next t ∧ t.dieAt d = { p with capflux := max 1000 (min 2400 (v.toNat % 65536)) }) ∧
      (∃ t, exec (.pcapWrite d v) s = .next t ∧ t.dieAt d = { p with pcap := max 1000 (min 4700 (v.toNat % 65536)) }) ∧
      (∀ g, tok 0 p.throt = true → g < 16 → ∃ t, exec (.throtWrite d g v) s = .next t ∧ tget 0 (t.dieAt d).throt g = v.toNat % 16 ∧
        (∀ h, h ≠ g → tget 0 (t.dieAt d).throt h = tget 0 p.throt h) ∧ (tget 0 p.throt g ≠ v.toNat % 16 → (t.dieAt d).clock = none)) ∧
      (∀ off, exec (.powerRegWrite d 0x10 v) s = exec (.capfluxWrite d v) s ∧ exec (.powerRegWrite d 0x18 v) s = exec (.pcapWrite d v) s ∧
        exec (.powerRegWrite d 0x20 v) s = exec (.alertClear d ⟨v, false⟩) s ∧ (∀ g < 16, exec (.powerRegWrite d (0x40 + 8 * g) v) s = exec (.throtWrite d g v) s) ∧
        (∃ t, exec (.powerRegWrite d 0x28 v) s = .next t ∧ t.dieAt d = { p with alerten := v.setWidth 3 }) ∧
        (∃ t, exec (.powerRegWrite d 0x38 v) s = .next t ∧ t.dieAt d = { p with tcmp := v.toNat }) ∧
        (off ∈ [0, 8, 0x30] ∨ 0xC0 ≤ off → ∃ t, exec (.powerRegWrite d off v) s = .next t ∧ t.dieAt d = p))))

/-- With power, where no other command executes, a SESSION with a good header is executed whatever its SEQ and SESSION hold: an identifier one above that of the session before it, modulo 2^32, no stored completion, last executed SEQ 0, a completion with that identifier and the command's SEQ, FAILED with Fjody in ROM; after it every command with another identifier, another source or a SEQ other than 1 is discarded and counted, with no completion.
(21 R391. The identifier's value, and that a SESSION opens one with Fjody in ROM though it completes with FAILED (R394), is the model's choice (log 37).) -/
def Obligations.SessionOpens : Prop :=
  ∀ (s : State) (k : Hdr), s.host.powered = true → hdrGood k 0 = true → s.host.cmds = [] → let id := (s.host.sessions + 1) % 2 ^ 32
    ∃ t c, exec (.session k) s = .next t ∧
    t.host.session = some (id, k.src) ∧ t.host.sessions = s.host.sessions + 1 ∧ t.host.lastSeq = 0 ∧ t.host.recent = [] ∧
    t.host.done = s.host.done ++ [c] ∧ c.op = 1 ∧ c.seq = k.seq ∧ c.session = id ∧ c.status = (if s.host.romOnly then .failed else .ok) ∧
    t.mem = s.mem ∧ t.sch = s.sch ∧ t.xl = s.xl ∧
    ∀ (i : Instr) (h : Hdr) (op : Nat), cmdHdr i = some (h, op) → h.session ≠ id ∨ h.src ≠ k.src ∨ h.seq ≠ 1 →
      exec i t = .next (t.onHost fun x => { x with discarded := x.discarded + 1 })

/-- A datagram whose header is not that of a command, or that holds more content than it counts, is discarded and counted; a command waits while another one executes; one outside the session is discarded; one whose SEQ is not the next is answered again from the stored completions or discarded; in ROM-only mode the next one fails unless it is TELEM or ATTEST; without power nothing happens; a SESSION opens a new session; a datagram that is no command is discarded and counted; the next command of the session with an operation the table does not list is answered MALFORMED.
(21 R388 to R392, R394. The SESSION's identifier, and its session in ROM-only mode, is log 37; the header's check is log 62, the wait log 36.) -/
def Obligations.SessionRules : Prop :=
  ∀ (s : State) (k : Hdr) (op : Nat) (i : Instr),
    (cmdHdr i = some (k, op) → s.host.powered = true →
      (hdrGood k (cmdContent i) = false → exec i s = .next (s.onHost fun h => { h with discarded := h.discarded + 1 })) ∧
      (hdrGood k (cmdContent i) = true → s.host.cmds ≠ [] → exec i s = .next (s.onHost fun h => { h with waits := true })) ∧
      (hdrGood k (cmdContent i) = true → s.host.cmds = [] →
        (s.host.session ≠ some (k.session, k.src) → exec i s = .next (s.onHost fun h => { h with discarded := h.discarded + 1 })) ∧
        (s.host.session = some (k.session, k.src) → k.seq ≠ s.host.lastSeq + 1 →
          (∀ c, s.host.recent.find? (fun c => c.seq == k.seq) = some c → exec i s = .next (s.onHost fun h => { h with done := h.done ++ [c] })) ∧
          (s.host.recent.find? (fun c => c.seq == k.seq) = none → exec i s = .next (s.onHost fun h => { h with discarded := h.discarded + 1 }))) ∧
        (s.host.session = some (k.session, k.src) → k.seq = s.host.lastSeq + 1 → s.host.romOnly = true → op ≠ 18 → op ≠ 19 →
          ∃ t, exec i s = .next t ∧ s.completed t k op .failed [] ∧ t.mem = s.mem ∧ t.sch = s.sch ∧ t.xl = s.xl))) ∧
    (cmdHdr i = some (k, op) → s.host.powered = false → exec i s = .next s ∧ exec (.session k) s = .next s) ∧
    (s.host.powered = true → hdrGood k 0 = true → s.host.cmds = [] → ∃ t, exec (.session k) s = .next t ∧
      t.host.session = some ((s.host.sessions + 1) % 2 ^ 32, k.src) ∧ t.host.lastSeq = 0 ∧ t.host.recent = [] ∧
      (t.host.done.getLast?.map fun c => (c.op, c.session, c.status)) = some (1, (s.host.sessions + 1) % 2 ^ 32, if s.host.romOnly then .failed else .ok) ∧
      t.mem = s.mem ∧ t.sch = s.sch) ∧
    (∀ src : Nat, s.host.powered = true → exec (.otherDatagram ⟨src, none⟩) s = .next (s.onHost fun h => { h with discarded := h.discarded + 1 })) ∧
    (op = 0 ∨ 21 < op ∧ op < 256 → s.takes k → ∃ t, exec (.otherDatagram ⟨k.src, some (k, op)⟩) s = .next t ∧ s.completed t k op .malformed [] ∧ t.mem = s.mem ∧ t.sch = s.sch)

/-- CTXNEW creates a context with its root table cleared and nothing else written; CTXEND ends an idle one and drops its translations, and is BUSY otherwise; MAP writes the leaf of one page whose main memory lies in the context's range and UNMAP clears it, no other byte changes, and no core's TLB keeps a translation of the range; each where it writes no line that is pinned and into no stack that retrains.
(21 Table 21.2; 04 R88 to R95; 05 R102. Log 12, 40 and 52.) -/
def Obligations.ContextsAndMappings : Prop :=
  ∀ (s : State) (k : Hdr) (ctx : Nat), s.takes k →
    (∀ root : Nat, 0 < ctx → ctx < 4096 → s.ctxAt ctx = none → root % 65536 = 0 → root + 65536 ≤ Config.memBytes → s.blocked (s.clearRange root 65536) = false → ∃ t c, exec (.ctxnew k ctx root) s = .next t ∧
      s.completed t k 2 .ok [] ∧ t.ctxAt ctx = some c ∧ c.root = some root ∧ c.stepc = 0 ∧ c.window = 1 ∧ c.tier = [] ∧ c.allocs = [] ∧ c.kernels = [] ∧ c.code = [] ∧ c.given = [] ∧
      (tok Config.freshByte s.mem.bytes = true → (∀ a, a < root ∨ root + 65536 ≤ a → t.mem.raw a = s.mem.raw a) ∧
        ∀ a, root ≤ a → a < root + 65536 → t.mem.raw a = Config.freshByte)) ∧
    ((s.ctxAt ctx).isSome = true → (∀ l ∈ s.sch.running, l.ctx ≠ ctx) → ∃ t, exec (.ctxend k ctx) s = .next t ∧ s.completed t k 3 .ok [] ∧ t.ctxAt ctx = none ∧
      (∀ c ∈ t.allCores, ∀ e ∈ c.tlb, e.ctx = ctx → 2 ^ 64 ≤ e.va) ∧ t.mem = s.mem) ∧
    ((s.ctxAt ctx).isSome = true → (∃ l ∈ s.sch.running, l.ctx = ctx) → ∃ t, exec (.ctxend k ctx) s = .next t ∧ s.completed t k 3 .busy [] ∧ t.xl = s.xl) ∧
    (∀ (c : Ctx) (root : Nat) (r : MapReq) (a : Nat), s.mem.neat → s.ctxAt ctx = some c → c.root = some root → s.mapsFor c r = true → r.pages = 1 → r.defer = false →
      c.defers = [] → s.leafAddr ctx r.va r.sz = some a → s.mem.poisoned (a / 32) = false → (s.mem.setmates (a / 128)).length < 16 →
      (∀ t, s.doMap c root r = some t → s.blocked t = false) → ∃ t d, exec (.map k ctx r) s = .next t ∧ s.completed t k 4 .ok [] ∧ t.ctxAt ctx = some d ∧ r ∈ d.allocs ∧
        t.mem.entry a = mkLeaf r.pa r.tgt r.win r.perm r.tier ∧ (∀ b, b < a ∨ a + 8 ≤ b → t.mem.byte b = s.mem.byte b) ∧
        (∀ x ∈ t.allCores, ∀ e ∈ x.tlb, e.ctx = ctx → e.va + 2 ^ pageBits e.sz ≤ r.va ∨ r.va + 2 ^ pageBits r.sz ≤ e.va)) ∧
    (∀ (va a : Nat) (sz : PageSize), s.mem.neat → (s.ctxAt ctx).isSome = true → va % 2 ^ pageBits sz = 0 → va + 2 ^ pageBits sz ≤ 2 ^ 56 → s.leafAddr ctx va sz = some a → s.mem.poisoned (a / 32) = false →
      (s.mem.setmates (a / 128)).length < 16 → s.blocked (s.doUnmap ctx va 1 sz) = false →
      ∃ t, exec (.unmap k ctx va 1 sz) s = .next t ∧ s.completed t k 5 .ok [] ∧ t.mem.entry a = 0 ∧ (∀ b, b < a ∨ a + 8 ≤ b → t.mem.byte b = s.mem.byte b) ∧
        (∀ x ∈ t.allCores, ∀ e ∈ x.tlb, e.ctx = ctx → e.va + 2 ^ pageBits e.sz ≤ va ∨ va + 2 ^ pageBits sz ≤ e.va))

/-- WRITE within one granule of main memory, which holds no poison and whose line no pin or retraining keeps back, writes those bytes and no others, READ returns them; both are DENIED on a page that does not permit it, and a WRITE to what moves or is pinned goes on executing; MODLOAD is MALFORMED for a bad image or an operation that is neither native nor listed, NOCODE without native text for this part or Eloaden code, RESOURCE where the translation needs more parked handles than the mailbox holds, and otherwise, where the code heap takes the module, enters its kernels.
(21 Table 21.2; 20 R376 to R381; 03 R420. Log 42, 43, 52 and 62.) -/
def Obligations.HostTransfers : Prop :=
  (∀ (s : State) (k : Hdr) (ctx va pa : Nat), s.takes k → s.mem.neat → s.mem.bad (pa / 32) = false → (s.mem.sector (pa / 32)).poison = false →
    (s.mem.sector (pa / 32)).mark = 0 → (s.mem.setmates (pa / 128)).length < 16 →
    (∀ data : List Byte, data ≠ [] → data.length ≤ k.len → va % 32 + data.length ≤ 32 → pa % 32 = va % 32 → s.spot ctx va .write = .main pa →
      s.blocked (s.putPiece pa data).1 = false → ∃ t, exec (.write k ctx va data) s = .next t ∧
      s.completed t k 6 .ok [] ∧ t.mem.read pa data.length = data ∧ (∀ a, a < pa ∨ pa + data.length ≤ a → t.mem.byte a = s.mem.byte a) ∧ t.w = s.w) ∧
    (∀ len : Nat, 0 < len → va % 32 + len ≤ 32 → pa % 32 = va % 32 → s.spot ctx va .read = .main pa → s.blocked (s.readPiece ctx va len).1 = false →
      ∃ t, exec (.read k ctx va len) s = .next t ∧
      s.completed t k 7 .ok (s.mem.read pa len) ∧ (∀ a, t.mem.byte a = s.mem.byte a) ∧ t.w = s.w)) ∧
  (∀ (s : State) (k : Hdr) (ctx va : Nat), s.takes k →
    (0 < k.len → s.spot ctx va .write = .denied → ∃ t, exec (.write k ctx va [0]) s = .next t ∧ s.completed t k 6 .denied [] ∧ t.mem = s.mem) ∧
    (∀ len : Nat, 0 < len → s.spot ctx va .read = .denied → ∃ t, exec (.read k ctx va len) s = .next t ∧ s.completed t k 7 .denied [] ∧ t.mem = s.mem) ∧
    (∀ data : List Byte, data ≠ [] → data.length ≤ k.len → va % 32 + data.length ≤ 32 → s.spot ctx va .write = .moving →
      exec (.write k ctx va data) s = .next (s.onHost fun h => { h with waits := true }))) ∧
  (∀ (s : State) (k : Hdr) (ctx : Nat) (m : ModuleImage) (c : Ctx), s.takes k → m.image.length ≤ k.len → s.ctxAt ctx = some c →
    (badImage m.image = true → ∃ t, exec (.modload k ctx m) s = .next t ∧ s.completed t k 8 .malformed [] ∧ t.mem = s.mem ∧ t.xl = s.xl) ∧
    (badImage m.image = false →
      (hasNative m.image = false → hasEloaden m.image = false → ∃ t, exec (.modload k ctx m) s = .next t ∧ s.completed t k 8 .nocode [] ∧ t.mem = s.mem ∧ t.xl = s.xl) ∧
      (hasEloaden m.image = true → (∃ o ∈ m.ops, knownOp o = false) →
        ∃ t, exec (.modload k ctx m) s = .next t ∧ s.completed t k 8 .malformed [] ∧ t.mem = s.mem ∧ t.xl = s.xl) ∧
      (hasNative m.image = true ∨ hasEloaden m.image = true → (hasEloaden m.image = true → ∀ o ∈ m.ops, knownOp o = true) →
        (hasNative m.image = false → 16 < m.parked → ∃ t, exec (.modload k ctx m) s = .next t ∧ s.completed t k 8 .resource [] ∧ t.mem = s.mem ∧ t.xl = s.xl) ∧
        (∀ (u : State) (e : Ctx), (hasNative m.image = true ∨ m.parked ≤ 16) → (hasNative m.image = true → m.natives.length = (nativeTexts m.image).length) →
          (∀ x ∈ (loadPlan m).stubs, (x.1, 64) ∉ c.code) → s.install ctx (loadPlan m) = some u → s.blocked u = false → u.ctxAt ctx = some e →
          ∃ t, exec (.modload k ctx m) s = .next t ∧ u.completed t k 8 .ok [] ∧
            t.ctxAt ctx = some { e with kernels := e.kernels ++ m.kernels.map (loadedKernel m) } ∧ t.mem = u.mem))))

/-- A good record joins its queue, a refused one gets its own completion, a LAUNCH of any number of records that have room completes, one into a full queue is BUSY, one to a queue that is absent or bound to no partition is MALFORMED, and one with input ranges records the launch and their digests; QUEUE creates, binds, ends and sets a queue that is not used, and each of the four is BUSY on one that is; PART sets the partitions when nothing runs, is FAILED with a group that did not pass its test, and BUSY otherwise.
(17 R336 to R339, R349; 19 R367, R375; 21 Table 21.2. Log 34, 41 and 60.) -/
def Obligations.QueuesAndPartitions : Prop :=
  ∀ (s : State) (k : Hdr) (q : Nat), s.takes k →
    (∀ (qu : Queue) (p : Nat), s.queueAt q = some qu → qu.part = some p → q < 64 →
      (∀ r : LaunchRec, 64 ≤ k.len → let x := launchOf r.words s.nextId q p k.session k.seq none
        (s.hostStatus r.words x = .ok → qu.room 1 = true → ∃ t v, exec (.hostLaunch k q ⟨[r], none⟩) s = .next t ∧ s.completed t k 9 .ok [] ∧ t.queueAt q = some v ∧
          v.recs.length = qu.recs.length + 1 ∧ (v.recs.getLast?.map fun y => (y.uid, y.entry, y.ctx, y.lid, y.session, y.seq)) = some (s.nextId, x.entry, x.ctx, x.lid, k.session, k.seq)) ∧
        (s.hostStatus r.words x = .ok → qu.room 1 = false → ∀ ins, ∃ t, exec (.hostLaunch k q ⟨[r], ins⟩) s = .next t ∧ s.completed t k 9 .busy [] ∧ t.sch = s.sch ∧ t.mem = s.mem) ∧
        (s.hostStatus r.words x ≠ .ok → qu.recs.length ≤ qu.cap → ∃ t, exec (.hostLaunch k q ⟨[r], none⟩) s = .next t ∧ t.sch = s.sch ∧ t.host.done.length = s.host.done.length + 2 ∧
          (t.host.done.getLast?.map fun c => (c.op, c.seq, c.status)) = some (9, k.seq, s.hostStatus r.words x)) ∧
        (∀ ins : List (Nat × Nat), s.hostStatus r.words x = .ok → qu.room 1 = true → s.digestWaits x.ctx ins = false →
          ∃ t e, exec (.hostLaunch k q ⟨[r], some ins⟩) s = .next t ∧ s.completed t k 9 .ok [] ∧
            t.host.recs = s.host.recs ++ [e] ∧ e.ctx = x.ctx ∧ e.words = r.words ∧ e.digests.map (fun d => (d.1, d.2.1)) = ins)) ∧
      (∀ recs : List LaunchRec, 64 * recs.length ≤ k.len → let l := s.decodeRecs k q p recs
        qu.room (l.filter fun r => s.hostStatus r.1 r.2 = .ok).length = true → ∃ t, exec (.hostLaunch k q ⟨recs, none⟩) s = .next t ∧ t.nextId = s.nextId + recs.length ∧
          (t.host.done.getLast?.map fun c => (c.op, c.seq, c.status)) = some (9, k.seq, ((l.map fun r => s.hostStatus r.1 r.2).find? (· != .ok)).getD .ok) ∧
          t.mem = s.mem ∧ t.w = s.w ∧ t.warps = s.warps)) ∧
    (∀ b : LaunchBatch, 64 * b.recs.length ≤ k.len → (∀ qu, s.queueAt q = some qu → qu.part = none ∨ 64 ≤ q) →
      ∃ t, exec (.hostLaunch k q b) s = .next t ∧ s.completed t k 9 .malformed [] ∧ t.sch = s.sch ∧ t.mem = s.mem) ∧
    (∀ part level cap : Nat, let good := q < 128 ∧ (s.partAt part).isSome = true ∧ level ≤ 3 ∧ 16 ≤ cap ∧ cap ≤ 4096
      (good → s.queueUsed q = false → ∃ t, exec (.queueCreate k q part level cap) s = .next t ∧ s.completed t k 10 .ok [] ∧
        t.queueAt q = some { no := q, part := some part, level := level, cap := cap, wdt := 10000, last := none, since := none, recs := [], ended := [] } ∧ t.mem = s.mem) ∧
      (good → s.queueUsed q = true → ∃ t, exec (.queueCreate k q part level cap) s = .next t ∧ s.completed t k 10 .busy [] ∧ t.sch = s.sch) ∧
      (¬ good → ∃ t, exec (.queueCreate k q part level cap) s = .next t ∧ s.completed t k 10 .malformed [] ∧ t.sch = s.sch)) ∧
    (∀ qu : Queue, s.queueAt q = some qu →
      (∀ part : Nat, (s.partAt part).isSome = true → (s.queueUsed q = false → ∃ t, exec (.queueBind k q part) s = .next t ∧ s.completed t k 10 .ok [] ∧
          t.queueAt q = some { qu with part := some part } ∧ t.mem = s.mem) ∧
        (s.queueUsed q = true → ∃ t, exec (.queueBind k q part) s = .next t ∧ s.completed t k 10 .busy [] ∧ t.sch = s.sch)) ∧
      (s.queueUsed q = false → ∃ t, exec (.queueEnd k q) s = .next t ∧ s.completed t k 10 .ok [] ∧ t.queueAt q = none ∧ t.mem = s.mem) ∧
      (s.queueUsed q = true → ∃ t, exec (.queueEnd k q) s = .next t ∧ s.completed t k 10 .busy [] ∧ t.sch = s.sch) ∧
      (∀ level cap wdt : Nat, level ≤ 3 → 16 ≤ cap → cap ≤ 4096 → 1 ≤ wdt → wdt ≤ 1000000 →
        (s.queueUsed q = false → ∃ t, exec (.queueSet k q level cap wdt) s = .next t ∧
          s.completed t k 10 .ok [] ∧ t.queueAt q = some { qu with level := level, cap := cap, wdt := wdt } ∧ t.mem = s.mem) ∧
        (s.queueUsed q = true → ∃ t, exec (.queueSet k q level cap wdt) s = .next t ∧ s.completed t k 10 .busy [] ∧ t.sch = s.sch))) ∧
    (s.queueAt q = none → ∀ part level cap wdt : Nat, (∃ t, exec (.queueBind k q part) s = .next t ∧ s.completed t k 10 .malformed [] ∧ t.sch = s.sch) ∧
      (∃ t, exec (.queueEnd k q) s = .next t ∧ s.completed t k 10 .malformed [] ∧ t.sch = s.sch) ∧
      ∃ t, exec (.queueSet k q level cap wdt) s = .next t ∧ s.completed t k 10 .malformed [] ∧ t.sch = s.sch) ∧
    (∀ ps : List PartReq, (ps.flatMap PartReq.groups).Nodup → (ps.map PartReq.id).Nodup → (∀ g ∈ ps.flatMap PartReq.groups, g < 64) →
      (s.sch.running = [] → (∀ g ∈ ps.flatMap PartReq.groups, s.host.groups.getLsbD g = true) →
        s.blocked (s.evictAll.onMem fun m => { m with parts := ps.map fun p => (List.range 64).filter fun g => p.groups.contains g }) = false →
        ∃ t, exec (.part k ps) s = .next t ∧ s.completed t k 11 .ok [] ∧
        (∀ p ∈ ps, t.partAt p.id = some { id := p.id, groups := p.groups, prot := p.prot }) ∧ t.w = s.w ∧ t.warps = s.warps) ∧
      (s.sch.running = [] → (∃ g ∈ ps.flatMap PartReq.groups, s.host.groups.getLsbD g = false) → ∃ t, exec (.part k ps) s = .next t ∧ s.completed t k 11 .failed [] ∧
        t.sch = s.sch ∧ t.mem = s.mem) ∧
      (s.sch.running ≠ [] → ∃ t, exec (.part k ps) s = .next t ∧ s.completed t k 11 .busy [] ∧ t.sch = s.sch))

/-- PREEMPT saves a gang that is idle, with the image of each warp that has not retired and nothing in flight, and goes on executing otherwise; RESUME brings it back, with its slot tables, its registers and its pc, where it fits, and is RESOURCE otherwise; RESET ends every launch with its record, answers, and leaves an empty machine with the session and its stored completions.
(18 R361 to R363; 19 R374; 21 R390, R394. Log 36, 37 and 38.) -/
def Obligations.GangsSavedAndReset : Prop :=
  ∀ (s : State) (k : Hdr) (gang : Nat), s.takes k →
    (∀ (g : Gang) (u : State), s.sch.gangs.find? (·.uid == gang) = some g → u.takes k →
      (s.preemptGang g = (u, true) → (∀ w ∈ s.warpsOf g, w.stopReq = true → w.image.isSome = true ∧ w.fly = []) →
        ∃ t v, exec (.preempt k gang) s = .next t ∧ u.completed t k 12 .ok [] ∧ v ∈ t.sch.saved ∧
        v.gang = { g with preempting := false } ∧ (∀ x ∈ t.sch.gangs, x.uid ≠ gang) ∧ (∀ w ∈ v.warps, w.run = .retired ∨ w.image.isSome = true ∧ w.fly = [])) ∧
      (s.preemptGang g = (u, false) → exec (.preempt k gang) s = .next (u.onHost fun h => { h with waits := true }))) ∧
    (s.sch.gangs.find? (·.uid == gang) = none → ∃ t, exec (.preempt k gang) s = .next t ∧ s.completed t k 12 .resource [] ∧ t.sch = s.sch) ∧
    (∀ (v : Saved) (p : Placement), s.sch.saved.find? (fun v => v.gang.uid == gang) = some v → let cores := p.cos.map CohortPlace.core
      (s.canResume v cores p.slots = true → ∃ t, exec (.resume k gang p) s = .next t ∧ s.completed t k 13 .ok [] ∧
        t.sch.gangs = s.sch.gangs ++ [{ v.gang with slots := p.slots, cores := cores }] ∧ (∀ x ∈ t.sch.saved, x.gang.uid ≠ gang) ∧
        (∀ w ∈ v.warps, (∃ c ∈ v.onto cores, c.1.cid = w.cid) →
          ∃ x ∈ t.allWarps, x.id = w.id ∧ x.pc = tget 0 (w.image.getD []) 0 ∧ x.image = none ∧ x.s = w.s ∧ x.v = w.v ∧ x.flags = w.flags)) ∧
      (s.canResume v cores p.slots = false → ∃ t, exec (.resume k gang p) s = .next t ∧ s.completed t k 13 .resource [] ∧ t.sch = s.sch)) ∧
    (∀ x : SelfTest, ∃ t c, exec (.reset k x) s = .next t ∧
      t.host.done = s.host.done ++ ((s.sch.running ++ s.sch.queues.flatMap Queue.recs).map fun l => { l.record with status := if l.status = .ok then .drained else l.status }) ++ [c] ∧
      c.op = 14 ∧ c.seq = k.seq ∧ c.status = .ok ∧ t.host.recent = (c :: s.host.recent).take 64 ∧ t.host.session = s.host.session ∧ t.host.lastSeq = k.seq ∧
      t.host.romOnly = !x.sigOk ∧ t.w = Warp.blank ∧
      t.warps = [] ∧ t.cohorts = [] ∧ t.cores = [] ∧ t.core = CoreSt.fresh 0 ∧ t.sch = SchSt.fresh ∧ t.xl = XlSt.fresh ∧ t.mem.bytes = [] ∧ t.mem.l2 = [] ∧
      (∀ n, t.windowAt n = Window.zero) ∧ t.fab.out = [] ∧ t.fab.tstreams = [] ∧ t.jobs = [])

/-- QFIX of a job of which no warp is resident on a participating device sets the job, is BUSY where one is and NOJOB without a set; STACKCFG is BUSY while a partition with the stack has a launch in flight and else starts the retraining; WINDOW on a path whose ports passed their test, TELEM, ATTEST and POWER within its limits answer OK with their effect under the conditions the statement names; POWER is RANGE outside its limits; DEBUG is DENIED outside the debugger's session and halts and resumes a warp within it.
(21 Table 21.2, R394, R396, R397; 15 R285, R286, R302; 03 R71; 18 R364; 19 R367. The layout and length of ATTEST's report (72 bytes and the nonce) is log 11; log 39, 41, 44 and 46.) -/
def Obligations.DeviceCommands : Prop :=
  ∀ (s : State) (k : Hdr), s.takes k →
    (∀ (job : Nat) (set : Option MemberList), (∀ x, set = some x → x.length ≤ 64) →
      let here := s.takesPart (s.jobAt job) = true ∧ ∃ w ∈ s.allWarps ++ s.sch.saved.flatMap Saved.warps, w.job = job ∧ w.run ≠ .retired
      (∀ l : List Member, (s.jobAt job).set = some l →
        (¬ here → ∃ t, exec (.qfix k job ⟨set, false⟩) s = .next t ∧ s.completed t k 15 .ok [] ∧
          t.jobAt job = { DJob.fresh job with set := some (set.getD (l.filter fun m => !(s.jobAt job).failed.contains m)) }) ∧
        (here → ∃ t, exec (.qfix k job ⟨set, false⟩) s = .next t ∧ s.completed t k 15 .busy [] ∧ t.jobs = s.jobs) ∧
        ∃ t, exec (.qfix k job ⟨set, true⟩) s = .next t ∧ s.completed t k 15 .busy [] ∧ t.jobs = s.jobs) ∧
      ((s.jobAt job).set = none → ∀ away, ∃ t, exec (.qfix k job ⟨set, away⟩) s = .next t ∧ s.completed t k 15 .nojob [] ∧ t.jobs = s.jobs)) ∧
    (∀ (n : Nat) (r : LaneRatio), n < 12 → let busy := ∃ l ∈ s.sch.running, ∃ p, s.partAt l.part = some p ∧ p.hasStack n = true
      (¬ busy → tok Stack.fresh s.mem.stk = true → ∃ t, exec (.stackcfg k n r) s = .next t ∧ s.completed t k 16 .ok [] ∧
        t.mem.stack n = { s.mem.stack n with retraining := some r } ∧ ∀ m, m ≠ n → t.mem.stack m = s.mem.stack m) ∧
      (busy → ∃ t, exec (.stackcfg k n r) s = .next t ∧ s.completed t k 16 .busy [] ∧ t.mem = s.mem)) ∧
    (∀ (n : Nat) (w0 w1 : Word) (p : Nat), n < 256 → w0.toNat / 2 ^ 56 % 128 = 0 → w0.toNat / 2 ^ 36 % 4 = 0 → w1.toNat / 2 ^ 52 = 0 → w1.toNat % 65536 = 0 → w0.getLsbD 63 = false →
      p < 40 → s.pathOk p = true → tok Window.zero s.fab.windows = true → ∃ t, exec (.window k n w0 w1 p none) s = .next t ∧ s.completed t k 17 .ok [] ∧
        t.windowAt n = { w0 := w0, w1 := w1, path := p, alt := none } ∧ ∀ m, m ≠ n → t.windowAt m = s.windowAt m) ∧
    (tok LaneRec.fresh s.fab.lanes = true → ∃ t d, exec (.telem k .lanes) s = .next t ∧ s.completed t k 18 .ok d ∧ d.length = 1024 ∧ (∀ l < 128, t.laneRec l = { s.laneRec l with syms := 0 }) ∧
      t.mem = s.mem) ∧
    (∀ what : TelemSel, ∃ t, exec (.telem k what) s = .next t ∧ s.completed t k 18 .ok (s.telem what).2 ∧ t.mem = s.mem ∧ t.sch = s.sch) ∧
    (∀ nonce : BitVec 256, ∃ t d, exec (.attest k nonce) s = .next t ∧ s.completed t k 19 .ok d ∧ d.take 104 = s.report nonce ∧ t.mem = s.mem ∧ t.sch = s.sch) ∧
    (∀ die pcap flux : Nat, die < 4 → tok DieP.fresh s.dies = true →
      (1000 ≤ pcap ∧ pcap ≤ 4700 ∧ 1000 ≤ flux ∧ flux ≤ 2400 → ∃ t, exec (.power k die pcap flux) s = .next t ∧ s.completed t k 20 .ok [] ∧
        t.dieAt die = { s.dieAt die with pcap := pcap, capflux := flux }) ∧
      (¬ (1000 ≤ pcap ∧ pcap ≤ 4700 ∧ 1000 ≤ flux ∧ flux ≤ 2400) → ∃ t, exec (.power k die pcap flux) s = .next t ∧ s.completed t k 20 .range [] ∧ t.dies = s.dies)) ∧
    (∀ cmd : DbgCmd, s.host.debugger = false → ∃ t, exec (.fjodyDebug k cmd) s = .next t ∧ s.completed t k 21 .denied [] ∧ t.w = s.w ∧ t.warps = s.warps ∧ t.core = s.core) ∧
    (s.host.debugger = true → ∀ w : Warp, s.warpAt w.id = some w → (w.run = .ready → ∃ t v, exec (.fjodyDebug k (.halt w.id)) s = .next t ∧ s.completed t k 21 .ok [] ∧
        t.warpAt w.id = some v ∧ v = { w with run := .halted, resumeTo := .ready }) ∧
      (w.run = .halted → w.wedge = false → w.resumeTo = .ready → ∃ t v, exec (.fjodyDebug k (.resume w.id)) s = .next t ∧ s.completed t k 21 .ok [] ∧ t.warpAt w.id = some v ∧
        v.run = .ready ∧ v.pc = w.pc ∧ v.s = w.s) ∧
      (w.run = .halted → w.wedge = true → ∃ t, exec (.fjodyDebug k (.resume w.id)) s = .next t ∧ s.completed t k 21 .malformed [] ∧ t.warpAt w.id = some w))
end

