-- ==== Sys2Proof/Laws/Enc.lean ====
section
/-! SUPPORT. Laws of the encodings: every field layout reads back what was written into it, every code
reads back its meaning, and the encoder's codes raise no check. -/

namespace Sys2Proof

/-! Codes read back. -/

@[simp] theorem reg_val (r : Reg) : reg r.val = r := by simp [reg, Fin.ofNat, Nat.mod_eq_of_lt r.isLt]
@[simp] theorem isOne_toNat (b : Bool) : isOne b.toNat = b := by cases b <;> rfl
@[simp] theorem selOf_code (x : Sel) : selOf x.code = x := by
  cases x with
  | v r => simp [selOf, Sel.code]
  | s r =>
    have := r.isLt
    simp [selOf, Sel.code, Fin.ext_iff, show 64 + r.val < 128 by omega]
  | x k =>
    have := k.isLt
    simp [selOf, Sel.code, Fin.ext_iff, show ¬ 128 + k.val < 64 by omega, show 128 + k.val < 136 by omega]
    omega
  | c b =>
    simp [selOf, Sel.code, show ¬ 192 + b.toNat < 64 by omega, show ¬ 192 + b.toNat < 128 by omega,
      show ¬ 192 + b.toNat < 136 by omega]
    apply BitVec.eq_of_toNat_eq
    simp
    omega
@[simp] theorem selBad_code (x : Sel) : lowest (selBad x.code) = none := by
  have h : ¬ (136 ≤ x.code ∧ x.code < 192) := by
    cases x with
    | v r => have := r.isLt; dsimp only [Sel.code]; omega
    | s r => have := r.isLt; dsimp only [Sel.code]; omega
    | x k => have := k.isLt; dsimp only [Sel.code]; omega
    | c b => dsimp only [Sel.code]; omega
  simp only [selBad, decide_eq_false h, lowest]
@[simp] theorem modOf_code (x : Modifier) : modOf x.code = x := by cases x <;> rfl
@[simp] theorem etypeOf_code (x : Etype) : etypeOf x.code = x := by cases x <;> rfl
@[simp] theorem rndOf_code (x : Rnd) : rndOf x.code = x := by cases x <;> rfl
@[simp] theorem cmpOf_code (x : Cmp) : cmpOf x.code = x := by cases x <;> rfl
@[simp] theorem fcmpOf_code (x : FCmp) : fcmpOf x.code = x := by cases x <;> rfl
@[simp] theorem bcondOf_code (x : BCond) : bcondOf x.code = x := by cases x <;> rfl
@[simp] theorem laneModeOf_code (x : LaneMode) : laneModeOf x.code = x := by cases x <;> rfl
@[simp] theorem shflModeOf_code (x : ShflMode) : shflModeOf x.code = x := by cases x <;> rfl
@[simp] theorem redOpOf_code (x : RedOp) : redOpOf x.code = x := by cases x <;> rfl
@[simp] theorem scopeOf_code (x : Scope) : scopeOf x.code = x := by cases x <;> rfl
@[simp] theorem widthOf_code (x : Width) : widthOf x.code = x := by cases x <;> rfl
@[simp] theorem aopOf_code (x : Aop) : aopOf x.code = x := by cases x <;> rfl
@[simp] theorem pgOf_code (x : PgKind) : pgOf x.code = x := by cases x <;> rfl
@[simp] theorem mtypeOf_code (x : MType) : mtypeOf x.code = x := by cases x <;> rfl
@[simp] theorem rungOf_code (x : RungSel) : rungOf x.code = x := by
  rcases x with ⟨_ | _⟩ | _ <;> rfl

/-! Codes stay in their fields. -/

@[simp] theorem Sel.code_lt (x : Sel) : x.code < 256 := by
  cases x with
  | v r => have := r.isLt; simp [Sel.code]; omega
  | s r => have := r.isLt; simp [Sel.code]; omega
  | x k => have := k.isLt; simp [Sel.code]; omega
  | c b => have := b.isLt; simp [Sel.code]; omega
@[simp] theorem reg_lt (r : Reg) : r.val < 64 := r.isLt
@[simp] theorem reg_lt_byte (r : Reg) : r.val < 256 := by omega
@[simp] theorem flag_lt (f : FlagNo) : f.val < 16 := f.isLt
@[simp] theorem flag_lt_reg (f : FlagNo) : f.val < 64 := by omega
@[simp] theorem xn_lt (k : Fin 8) : k.val < 8 := k.isLt
@[simp] theorem bool_le (b : Bool) : b.toNat ≤ 1 := by cases b <;> decide
@[simp] theorem bool_lt (b : Bool) : b.toNat < 2 := by cases b <;> decide
@[simp] theorem bool_lt_sub (b : Bool) : b.toNat < 16 := by cases b <;> decide
@[simp] theorem imm_lt (b : BitVec 32) : b.toNat < 4294967296 := b.isLt
@[simp] theorem imm16_lt (b : BitVec 16) : b.toNat < 65536 := b.isLt
@[simp] theorem imm6_lt (b : BitVec 6) : b.toNat < 64 := b.isLt
@[simp] theorem imm6_ofNat (b : BitVec 6) : BitVec.ofNat 6 b.toNat = b := by simp
@[simp] theorem Modifier.code_lt (x : Modifier) : x.code < 8 := by cases x <;> decide
@[simp] theorem Etype.code_lt (x : Etype) : x.code < 11 := by cases x <;> decide
@[simp] theorem Etype.code_lt_field (x : Etype) : x.code < 16 := by cases x <;> decide
@[simp] theorem Rnd.code_lt (x : Rnd) : x.code < 4 := by cases x <;> decide
@[simp] theorem Cmp.code_lt (x : Cmp) : x.code < 10 := by cases x <;> decide
@[simp] theorem Cmp.code_lt_field (x : Cmp) : x.code < 16 := by cases x <;> decide
@[simp] theorem FCmp.code_lt (x : FCmp) : x.code < 8 := by cases x <;> decide
@[simp] theorem FCmp.code_lt_field (x : FCmp) : x.code < 16 := by cases x <;> decide
@[simp] theorem BCond.code_lt (x : BCond) : x.code < 6 := by cases x <;> decide
@[simp] theorem BCond.code_lt_field (x : BCond) : x.code < 16 := by cases x <;> decide
@[simp] theorem LaneMode.code_lt (x : LaneMode) : x.code < 3 := by cases x <;> decide
@[simp] theorem LaneMode.code_lt_field (x : LaneMode) : x.code < 16 := by cases x <;> decide
@[simp] theorem ShflMode.code_lt (x : ShflMode) : x.code < 4 := by cases x <;> decide
@[simp] theorem ShflMode.code_lt_field (x : ShflMode) : x.code < 16 := by cases x <;> decide
@[simp] theorem RedOp.code_lt (x : RedOp) : x.code < 8 := by cases x <;> decide
@[simp] theorem RedOp.code_lt_field (x : RedOp) : x.code < 16 := by cases x <;> decide
@[simp] theorem Scope.code_lt (x : Scope) : x.code < 6 := by cases x <;> decide
@[simp] theorem Scope.code_lt_field (x : Scope) : x.code < 8 := by cases x <;> decide
@[simp] theorem Width.code_lt (x : Width) : x.code < 5 := by cases x <;> decide
@[simp] theorem Width.code_lt_field (x : Width) : x.code < 8 := by cases x <;> decide
@[simp] theorem Aop.code_lt (x : Aop) : x.code < 12 := by cases x <;> decide
@[simp] theorem Aop.code_lt_field (x : Aop) : x.code < 128 := by cases x <;> decide
@[simp] theorem PgKind.code_lt (x : PgKind) : x.code < 5 := by cases x <;> decide
@[simp] theorem PgKind.code_lt_field (x : PgKind) : x.code < 8 := by cases x <;> decide
@[simp] theorem PgKind.code_ne (x : PgKind) : x.code ≠ 0 := by cases x <;> decide
@[simp] theorem MType.code_lt (x : MType) : x.code < 5 := by cases x <;> decide
@[simp] theorem MType.code_lt_field (x : MType) : x.code < 16 := by cases x <;> decide
@[simp] theorem RungSel.code_lt (x : RungSel) : x.code < 8 := by rcases x with ⟨_ | _⟩ | _ <;> decide
@[simp] theorem RungSel.code_ne5 (x : RungSel) : x.code ≠ 5 := by rcases x with ⟨_ | _⟩ | _ <;> decide
@[simp] theorem RungSel.code_ne6 (x : RungSel) : x.code ≠ 6 := by rcases x with ⟨_ | _⟩ | _ <;> decide
@[simp] theorem feOf_none {α : Type} : feOf (none : Option α) = 0 := rfl
@[simp] theorem feOf_some {α : Type} (x : α) : feOf (some x) = 1 := rfl
@[simp] theorem feOf_le {α : Type} (f : Option α) : feOf f ≤ 1 := by cases f <;> simp [feOf]
@[simp] theorem feOf_lt {α : Type} (f : Option α) : feOf f < 2 := by cases f <;> simp [feOf]
@[simp] theorem feOf_lt_sub {α : Type} (f : Option α) : feOf f < 16 := by cases f <;> simp [feOf]
@[simp] theorem feOf_lt_four {α : Type} (f : Option α) : feOf f < 4 := by cases f <;> simp [feOf]
@[simp] theorem flagOf_lt (f : Option FlagNo) : flagOf f < 16 := by cases f <;> simp [flagOf]

/-- An optional flag reads back from fe and the flag field. -/
@[simp] theorem flag_back (f : Option FlagNo) :
    (if feOf f = 1 then some (Fin.ofNat 16 (flagOf f)) else none) = f := by
  cases f with
  | none => rfl
  | some n => simp [feOf, flagOf]

/-- A number kept below its bound reads back. -/
@[simp] theorem fin_back {n : Nat} [NeZero n] (k : Fin n) : Fin.ofNat n k.val = k := by
  apply Fin.ext; simp [Fin.ofNat, Nat.mod_eq_of_lt k.isLt]

/-- le, xn, sx and uni of the S layout, packed as bits [22:16] (02 R57). -/
theorem low7_back (u s l : Bool) (x : Fin 8) :
    fld (u.toNat + 2 * s.toNat + 64 * l.toNat + 8 * x.val) 0 1 = u.toNat ∧
    fld (u.toNat + 2 * s.toNat + 64 * l.toNat + 8 * x.val) 1 1 = s.toNat ∧
    fld (u.toNat + 2 * s.toNat + 64 * l.toNat + 8 * x.val) 2 1 = 0 ∧
    fld (u.toNat + 2 * s.toNat + 64 * l.toNat + 8 * x.val) 3 3 = x.val ∧
    fld (u.toNat + 2 * s.toNat + 64 * l.toNat + 8 * x.val) 6 1 = l.toNat ∧
    u.toNat + 2 * s.toNat + 64 * l.toNat + 8 * x.val < 128 := by
  have := x.isLt
  simp only [fld]
  cases u <;> cases s <;> cases l <;> simp <;> omega

/-- sx and uni alone. -/
theorem low7_addr (u s : Bool) :
    fld (u.toNat + 2 * s.toNat) 0 1 = u.toNat ∧ fld (u.toNat + 2 * s.toNat) 1 1 = s.toNat ∧
    fld (u.toNat + 2 * s.toNat) 2 1 = 0 ∧ fld (u.toNat + 2 * s.toNat) 6 1 = 0 ∧ u.toNat + 2 * s.toNat < 128 := by
  cases u <;> cases s <;> decide

/-- le and xn alone. -/
theorem low7_latch (l : Bool) (x : Fin 8) :
    fld (64 * l.toNat + 8 * x.val) 2 1 = 0 ∧ fld (64 * l.toNat + 8 * x.val) 3 3 = x.val ∧
    fld (64 * l.toNat + 8 * x.val) 6 1 = l.toNat ∧ 64 * l.toNat + 8 * x.val < 128 := by
  have := x.isLt
  simp only [fld]
  cases l
  all_goals
    simp
    omega

@[simp] theorem six_lt_word (n : Fin 64) : n.val < 4294967296 := by omega
@[simp] theorem level_lt (n : Fin 2) : n.val < 16 := by omega
@[simp] theorem level_le (n : Fin 2) : n.val ≤ 1 := by omega
@[simp] theorem imm8_lt (b : BitVec 8) : b.toNat < 256 := b.isLt
@[simp] theorem imm8_lt_word (b : BitVec 8) : b.toNat < 4294967296 := by omega
@[simp] theorem imm12_lt (b : BitVec 12) : b.toNat < 4096 := b.isLt
@[simp] theorem imm12_lt_word (b : BitVec 12) : b.toNat < 4294967296 := by omega
@[simp] theorem imm16_lt_word (b : BitVec 16) : b.toNat < 4294967296 := by omega
/-- The count and the end of LOOPI share its immediate. -/
theorem loopi_back (c e : BitVec 16) : c.toNat * 65536 + e.toNat < 4294967296 ∧
    BitVec.ofNat 16 ((c.toNat * 65536 + e.toNat) / 65536) = c ∧ BitVec.ofNat 16 (c.toNat * 65536 + e.toNat) = e := by
  have := c.isLt
  have := e.isLt
  refine ⟨by omega, ?_, ?_⟩ <;> (apply BitVec.eq_of_toNat_eq; simp only [BitVec.toNat_ofNat]; omega)

@[simp] theorem redOp_mod (x : RedOp) : x.code % 8 = x.code := by cases x <;> rfl
@[simp] theorem redOp_div (x : RedOp) : x.code / 8 = 0 := by cases x <;> rfl
@[simp] theorem redOp_ex (x : RedOp) (b : Bool) :
    (x.code + 8 * b.toNat) % 8 = x.code ∧ (x.code + 8 * b.toNat) / 8 = b.toNat ∧ x.code + 8 * b.toNat < 16 := by
  cases x <;> cases b <;> decide
@[simp] theorem isOne_zero : isOne 0 = false := rfl
@[simp] theorem isOne_one : isOne 1 = true := rfl
@[simp] theorem flag_mod (f : FlagNo) : f.val % 16 = f.val := by omega
@[simp] theorem flag_sarm (f : FlagNo) : f.val / 16 = 0 ∧ f.val / 32 = 0 := by omega
@[simp] theorem reg_div (r : Reg) : r.val / 64 = 0 := by omega
@[simp] theorem fence_back (x : FenceKind) :
    fenceOf (x.code % 4) = x ∧ x.code < 64 ∧ x.code / 4 = 0 ∧ x.code % 4 ≠ 0 := by cases x <;> decide

/-- A one-bit value kept with nothing above it. -/
@[simp] theorem bool_mod (b : Bool) : b.toNat % 2 = b.toNat := by cases b <;> rfl
@[simp] theorem bool_div (b : Bool) : b.toNat / 2 = 0 := by cases b <;> rfl

@[simp] theorem lowest_nil : lowest [] = none := rfl
@[simp] theorem lowest_append (a b : List (Bool × Nat)) : lowest (a ++ b) = none ↔ lowest a = none ∧ lowest b = none := by
  simp only [lowest_eq_none, List.mem_append]
  exact ⟨fun h => ⟨fun p hp => h p (.inl hp), fun p hp => h p (.inr hp)⟩, fun ⟨h, k⟩ p hp => hp.elim (h p) (k p)⟩
@[simp] theorem lowest_cons (b : Bool) (d : Nat) (l : List (Bool × Nat)) :
    lowest ((b, d) :: l) = none ↔ b = false ∧ lowest l = none := by simp [lowest_eq_none]

/-! Layouts read back. -/

/-- Every field of a register form fits its bits. -/
def VReg.Fits (r : VReg) : Prop :=
  r.op < 256 ∧ r.et < 16 ∧ r.vd < 64 ∧ r.wbs < 2 ∧ r.le < 2 ∧ r.xn < 8 ∧ r.opa < 256 ∧ r.opb < 256 ∧ r.opc < 256 ∧
    r.moda < 8 ∧ r.modb < 8 ∧ r.modc < 8 ∧ r.rnd < 4 ∧ r.sat < 2 ∧ r.nm < 2 ∧ r.sub < 16

theorem VReg.of_word (r : VReg) (h : r.Fits) : VReg.of r.word = r ∧ r.word < 2 ^ 64 := by
  obtain ⟨op, et, vd, wbs, le, xn, opa, opb, opc, moda, modb, modc, rnd, sat, nm, sub⟩ := r
  obtain ⟨h1, h2, h3, h4, h5, h6, h7, h8, h9, h10, h11, h12, h13, h14, h15, h16⟩ := h
  simp only [VReg.of, VReg.word, fld, VReg.mk.injEq] at *
  refine ⟨⟨?_, ?_, ?_, ?_, ?_, ?_, ?_, ?_, ?_, ?_, ?_, ?_, ?_, ?_, ?_, ?_⟩, ?_⟩ <;> omega

/-- Every field of an immediate form fits its bits. -/
def VImmRaw.Fits (r : VImmRaw) : Prop :=
  r.op < 256 ∧ r.et < 16 ∧ r.vd < 64 ∧ r.wbs < 2 ∧ r.le < 2 ∧ r.xn < 8 ∧ r.opa < 256 ∧ r.imm < 2 ^ 32 ∧ r.z < 2

theorem VImmRaw.of_word (r : VImmRaw) (h : r.Fits) :
    VImmRaw.of r.word = r ∧ r.word < 2 ^ 64 ∧ fld r.word 56 8 = r.op := by
  obtain ⟨op, et, vd, wbs, le, xn, opa, imm, z⟩ := r
  obtain ⟨h1, h2, h3, h4, h5, h6, h7, h8, h9⟩ := h
  simp only [VImmRaw.of, VImmRaw.word, fld, VImmRaw.mk.injEq] at *
  refine ⟨⟨?_, ?_, ?_, ?_, ?_, ?_, ?_, ?_, ?_⟩, ?_, ?_⟩ <;> omega

/-- Every field of an M syllable fits its bits. -/
def MRaw.Fits (r : MRaw) : Prop :=
  r.op < 256 ∧ r.cls < 16 ∧ r.scope < 8 ∧ r.fe < 2 ∧ r.flag < 16 ∧ r.dr < 64 ∧ r.sb < 64 ∧ r.vi < 64 ∧ r.width < 8 ∧
    r.low7 < 128 ∧ r.imm < 65536

theorem MRaw.of_word (r : MRaw) (h : r.Fits) : MRaw.of r.word = r ∧ r.word < 2 ^ 64 := by
  obtain ⟨op, cls, scope, fe, flag, dr, sb, vi, width, low7, imm⟩ := r
  obtain ⟨h1, h2, h3, h4, h5, h6, h7, h8, h9, h10, h11⟩ := h
  simp only [MRaw.of, MRaw.word, fld, MRaw.mk.injEq] at *
  refine ⟨⟨?_, ?_, ?_, ?_, ?_, ?_, ?_, ?_, ?_, ?_, ?_⟩, ?_⟩ <;> omega

/-- Every field of a copy form fits its bits. -/
def ECopy.Fits (r : ECopy) : Prop :=
  r.op < 256 ∧ r.cls < 16 ∧ r.scope < 8 ∧ r.fe < 2 ∧ r.flag < 16 ∧ r.sa < 64 ∧ r.sd < 64 ∧ r.sg < 64 ∧ r.sx < 64 ∧
    r.sub < 16 ∧ r.imm < 65536

theorem ECopy.of_word (r : ECopy) (h : r.Fits) :
    ECopy.of r.word = r ∧ r.word < 2 ^ 64 ∧ fld r.word 56 8 = r.op := by
  obtain ⟨op, cls, scope, fe, flag, sa, sd, sg, sx, sub, imm⟩ := r
  obtain ⟨h1, h2, h3, h4, h5, h6, h7, h8, h9, h10, h11⟩ := h
  simp only [ECopy.of, ECopy.word, fld, ECopy.mk.injEq] at *
  refine ⟨⟨?_, ?_, ?_, ?_, ?_, ?_, ?_, ?_, ?_, ?_, ?_⟩, ?_, ?_⟩ <;> omega

/-- Every field of a matrix and handle form fits its bits. -/
def EMat.Fits (r : EMat) : Prop :=
  r.op < 256 ∧ r.et < 16 ∧ r.hd < 64 ∧ r.ha < 64 ∧ r.hb < 64 ∧ r.fe < 2 ∧ r.flag < 16 ∧ r.rung < 8 ∧ r.wmode < 4 ∧
    r.dy < 64 ∧ r.dx < 64 ∧ r.sub < 16 ∧ r.z < 256

theorem EMat.of_word (r : EMat) (h : r.Fits) :
    EMat.of r.word = r ∧ r.word < 2 ^ 64 ∧ fld r.word 56 8 = r.op := by
  obtain ⟨op, et, hd, ha, hb, fe, flag, rung, wmode, dy, dx, sub, z⟩ := r
  obtain ⟨h1, h2, h3, h4, h5, h6, h7, h8, h9, h10, h11, h12, h13⟩ := h
  simp only [EMat.of, EMat.word, fld, EMat.mk.injEq] at *
  refine ⟨⟨?_, ?_, ?_, ?_, ?_, ?_, ?_, ?_, ?_, ?_, ?_, ?_, ?_⟩, ?_, ?_⟩ <;> omega

/-- Every field of a C register form fits its bits; the bits of gap and ys are not among them. -/
def CReg.Fits (r : CReg) : Prop :=
  r.top < 16 ∧ r.op < 256 ∧ r.sd < 64 ∧ r.sa < 64 ∧ r.sb < 64 ∧ r.sc < 64 ∧ r.sub < 16 ∧ r.z < 2 ^ 20

theorem CReg.of_word (r : CReg) (h : r.Fits) :
    CReg.of r.word = r ∧ r.word < 2 ^ 60 ∧ fld r.word 48 8 = r.op := by
  obtain ⟨top, op, sd, sa, sb, sc, sub, z⟩ := r
  obtain ⟨h1, h2, h3, h4, h5, h6, h7, h8⟩ := h
  simp only [CReg.of, CReg.word, fld, CReg.mk.injEq] at *
  refine ⟨⟨?_, ?_, ?_, ?_, ?_, ?_, ?_, ?_⟩, ?_, ?_⟩ <;> omega

/-- Every field of a C immediate form fits its bits. -/
def CImm.Fits (r : CImm) : Prop :=
  r.top < 16 ∧ r.op < 256 ∧ r.sd < 64 ∧ r.sa < 64 ∧ r.sub < 16 ∧ r.imm < 2 ^ 32

theorem CImm.of_word (r : CImm) (h : r.Fits) :
    CImm.of r.word = r ∧ r.word < 2 ^ 60 ∧ fld r.word 48 8 = r.op := by
  obtain ⟨top, op, sd, sa, sub, imm⟩ := r
  obtain ⟨h1, h2, h3, h4, h5, h6⟩ := h
  simp only [CImm.of, CImm.word, fld, CImm.mk.injEq] at *
  refine ⟨⟨?_, ?_, ?_, ?_, ?_, ?_⟩, ?_, ?_⟩ <;> omega

/-! What an encoding of a layout owes. -/

/-- The syllable of an instruction reads back as the instruction and raises no check of its bits; it leaves
the C slot's gap and ys zero. -/
def Instr.Reads (i : Instr) : Prop :=
  ∀ sl, i.slot = some sl → (decodeSyl sl (encode i)).i = i ∧ lowest (decodeSyl sl (encode i)).bad = none ∧
    encode i < 2 ^ 64 ∧ (sl = .C → encode i < 2 ^ 60)

theorem reads_vreg {i : Instr} (r : VReg) (hs : i.slot = some .V) (he : encode i = r.word) (hf : r.Fits)
    (hop : ¬ (0x20 ≤ r.op ∧ r.op ≤ 0x24)) (hd : (decodeVReg r).i = i) (hb : lowest (decodeVReg r).bad = none) :
    i.Reads := by
  intro sl hsl
  obtain rfl : Slot.V = sl := by simpa [hs] using hsl
  obtain ⟨h1, h2⟩ := VReg.of_word r hf
  have h3 : fld r.word 56 8 = r.op := congrArg VReg.op h1
  simp only [decodeSyl, decodeV, he, h3, if_neg hop, h1]
  exact ⟨hd, hb, h2, by simp⟩

theorem reads_vimm {i : Instr} (r : VImmRaw) (hs : i.slot = some .V) (he : encode i = r.word) (hf : r.Fits)
    (hop : 0x20 ≤ r.op ∧ r.op ≤ 0x24) (hd : (decodeVImm r).i = i) (hb : lowest (decodeVImm r).bad = none) :
    i.Reads := by
  intro sl hsl
  obtain rfl : Slot.V = sl := by simpa [hs] using hsl
  obtain ⟨h1, h2, h3⟩ := VImmRaw.of_word r hf
  simp only [decodeSyl, decodeV, he, h3, if_pos hop, h1]
  exact ⟨hd, hb, h2, by simp⟩

theorem reads_m {i : Instr} (r : MRaw) (hs : i.slot = some .M) (he : encode i = r.word) (hf : r.Fits)
    (hd : (decodeM r).i = i) (hb : lowest (decodeM r).bad = none) : i.Reads := by
  intro sl hsl
  obtain rfl : Slot.M = sl := by simpa [hs] using hsl
  obtain ⟨h1, h2⟩ := MRaw.of_word r hf
  simp only [decodeSyl, he, h1]
  exact ⟨hd, hb, h2, by simp⟩

theorem reads_ecopy {i : Instr} (r : ECopy) (hs : i.slot = some .E) (he : encode i = r.word) (hf : r.Fits)
    (hop : r.op ≤ 0x06) (hd : (decodeECopy r).i = i) (hb : lowest (decodeECopy r).bad = none) : i.Reads := by
  intro sl hsl
  obtain rfl : Slot.E = sl := by simpa [hs] using hsl
  obtain ⟨h1, h2, h3⟩ := ECopy.of_word r hf
  simp only [decodeSyl, decodeE, he, h3, if_pos hop, h1]
  exact ⟨hd, hb, h2, by simp⟩

theorem reads_emat {i : Instr} (r : EMat) (hs : i.slot = some .E) (he : encode i = r.word) (hf : r.Fits)
    (hop : ¬ r.op ≤ 0x06) (hd : (decodeEMat r).i = i) (hb : lowest (decodeEMat r).bad = none) : i.Reads := by
  intro sl hsl
  obtain rfl : Slot.E = sl := by simpa [hs] using hsl
  obtain ⟨h1, h2, h3⟩ := EMat.of_word r hf
  simp only [decodeSyl, decodeE, he, h3, if_neg hop, h1]
  exact ⟨hd, hb, h2, by simp⟩

theorem reads_creg {i : Instr} (r : CReg) (hs : i.slot = some .C) (he : encode i = r.word) (hf : r.Fits)
    (h0 : r.op ≠ 0) (hop : cRegForm r.op = true) (ht : r.top = 0) (hd : (decodeCReg r).i = i)
    (hb : lowest (decodeCReg r).bad = none) : i.Reads := by
  intro sl hsl
  obtain rfl : Slot.C = sl := by simpa [hs] using hsl
  obtain ⟨h1, h2, h3⟩ := CReg.of_word r hf
  simp only [decodeSyl, decodeC, he, h3, if_neg h0, if_pos hop, h1]
  exact ⟨hd, (lowest_append _ _).2 ⟨hb, by simp [CReg.topBad, ht]⟩, by omega, fun _ => h2⟩

theorem reads_cimm {i : Instr} (r : CImm) (hs : i.slot = some .C) (he : encode i = r.word) (hf : r.Fits)
    (h0 : r.op ≠ 0) (hop : ¬ cRegForm r.op = true) (ht : r.top = 0) (hd : (decodeCImm r).i = i)
    (hb : lowest (decodeCImm r).bad = none) : i.Reads := by
  intro sl hsl
  obtain rfl : Slot.C = sl := by simpa [hs] using hsl
  obtain ⟨h1, h2, h3⟩ := CImm.of_word r hf
  simp only [decodeSyl, decodeC, he, h3, if_neg h0, if_neg hop, h1]
  exact ⟨hd, (lowest_append _ _).2 ⟨hb, by simp [CImm.topBad, ht]⟩, by omega, fun _ => h2⟩

/-! The checks of each layout, as what `simp` is to look at. -/

@[simp] theorem VReg.etBad_none (r : VReg) : lowest r.etBad = none ↔ r.et < 11 := by simp [VReg.etBad]
@[simp] theorem VImmRaw.immBad_none (r : VImmRaw) : lowest r.immBad = none ↔ r.et < 11 ∧ r.z = 0 := by
  simp [VImmRaw.immBad, lowest_eq_none]

end Sys2Proof
end

