-- ==== Sys2Proof/Laws/State.lean ====
section
/-! SUPPORT. What each update of the state does to each field: one lemma per field per update, true by unfolding. -/

namespace Sys2Proof.Machine

/-! onW -/
@[simp] theorem State.onW_w (s : State) (f : Warp → Warp) : (s.onW f).w = f s.w := rfl
@[simp] theorem State.onW_co (s : State) (f : Warp → Warp) : (s.onW f).co = s.co := rfl
@[simp] theorem State.onW_core (s : State) (f : Warp → Warp) : (s.onW f).core = s.core := rfl
@[simp] theorem State.onW_warps (s : State) (f : Warp → Warp) : (s.onW f).warps = s.warps := rfl
@[simp] theorem State.onW_cohorts (s : State) (f : Warp → Warp) : (s.onW f).cohorts = s.cohorts := rfl
@[simp] theorem State.onW_cores (s : State) (f : Warp → Warp) : (s.onW f).cores = s.cores := rfl
@[simp] theorem State.onW_mem (s : State) (f : Warp → Warp) : (s.onW f).mem = s.mem := rfl
@[simp] theorem State.onW_xl (s : State) (f : Warp → Warp) : (s.onW f).xl = s.xl := rfl
@[simp] theorem State.onW_fab (s : State) (f : Warp → Warp) : (s.onW f).fab = s.fab := rfl
@[simp] theorem State.onW_jobs (s : State) (f : Warp → Warp) : (s.onW f).jobs = s.jobs := rfl
@[simp] theorem State.onW_sch (s : State) (f : Warp → Warp) : (s.onW f).sch = s.sch := rfl
@[simp] theorem State.onW_host (s : State) (f : Warp → Warp) : (s.onW f).host = s.host := rfl
@[simp] theorem State.onW_dies (s : State) (f : Warp → Warp) : (s.onW f).dies = s.dies := rfl
@[simp] theorem State.onW_rails (s : State) (f : Warp → Warp) : (s.onW f).rails = s.rails := rfl
@[simp] theorem State.onW_inbox (s : State) (f : Warp → Warp) : (s.onW f).inbox = s.inbox := rfl
@[simp] theorem State.onW_iss (s : State) (f : Warp → Warp) : (s.onW f).iss = s.iss := rfl
@[simp] theorem State.onW_freeCtr (s : State) (f : Warp → Warp) : (s.onW f).freeCtr = s.freeCtr := rfl
@[simp] theorem State.onW_nextId (s : State) (f : Warp → Warp) : (s.onW f).nextId = s.nextId := rfl

/-! onCo -/
@[simp] theorem State.onCo_w (s : State) (f : Cohort → Cohort) : (s.onCo f).w = s.w := rfl
@[simp] theorem State.onCo_co (s : State) (f : Cohort → Cohort) : (s.onCo f).co = f s.co := rfl
@[simp] theorem State.onCo_core (s : State) (f : Cohort → Cohort) : (s.onCo f).core = s.core := rfl
@[simp] theorem State.onCo_warps (s : State) (f : Cohort → Cohort) : (s.onCo f).warps = s.warps := rfl
@[simp] theorem State.onCo_cohorts (s : State) (f : Cohort → Cohort) : (s.onCo f).cohorts = s.cohorts := rfl
@[simp] theorem State.onCo_cores (s : State) (f : Cohort → Cohort) : (s.onCo f).cores = s.cores := rfl
@[simp] theorem State.onCo_mem (s : State) (f : Cohort → Cohort) : (s.onCo f).mem = s.mem := rfl
@[simp] theorem State.onCo_xl (s : State) (f : Cohort → Cohort) : (s.onCo f).xl = s.xl := rfl
@[simp] theorem State.onCo_fab (s : State) (f : Cohort → Cohort) : (s.onCo f).fab = s.fab := rfl
@[simp] theorem State.onCo_jobs (s : State) (f : Cohort → Cohort) : (s.onCo f).jobs = s.jobs := rfl
@[simp] theorem State.onCo_sch (s : State) (f : Cohort → Cohort) : (s.onCo f).sch = s.sch := rfl
@[simp] theorem State.onCo_host (s : State) (f : Cohort → Cohort) : (s.onCo f).host = s.host := rfl
@[simp] theorem State.onCo_dies (s : State) (f : Cohort → Cohort) : (s.onCo f).dies = s.dies := rfl
@[simp] theorem State.onCo_rails (s : State) (f : Cohort → Cohort) : (s.onCo f).rails = s.rails := rfl
@[simp] theorem State.onCo_inbox (s : State) (f : Cohort → Cohort) : (s.onCo f).inbox = s.inbox := rfl
@[simp] theorem State.onCo_iss (s : State) (f : Cohort → Cohort) : (s.onCo f).iss = s.iss := rfl
@[simp] theorem State.onCo_freeCtr (s : State) (f : Cohort → Cohort) : (s.onCo f).freeCtr = s.freeCtr := rfl
@[simp] theorem State.onCo_nextId (s : State) (f : Cohort → Cohort) : (s.onCo f).nextId = s.nextId := rfl

/-! onCore -/
@[simp] theorem State.onCore_w (s : State) (f : CoreSt → CoreSt) : (s.onCore f).w = s.w := rfl
@[simp] theorem State.onCore_co (s : State) (f : CoreSt → CoreSt) : (s.onCore f).co = s.co := rfl
@[simp] theorem State.onCore_core (s : State) (f : CoreSt → CoreSt) : (s.onCore f).core = f s.core := rfl
@[simp] theorem State.onCore_warps (s : State) (f : CoreSt → CoreSt) : (s.onCore f).warps = s.warps := rfl
@[simp] theorem State.onCore_cohorts (s : State) (f : CoreSt → CoreSt) : (s.onCore f).cohorts = s.cohorts := rfl
@[simp] theorem State.onCore_cores (s : State) (f : CoreSt → CoreSt) : (s.onCore f).cores = s.cores := rfl
@[simp] theorem State.onCore_mem (s : State) (f : CoreSt → CoreSt) : (s.onCore f).mem = s.mem := rfl
@[simp] theorem State.onCore_xl (s : State) (f : CoreSt → CoreSt) : (s.onCore f).xl = s.xl := rfl
@[simp] theorem State.onCore_fab (s : State) (f : CoreSt → CoreSt) : (s.onCore f).fab = s.fab := rfl
@[simp] theorem State.onCore_jobs (s : State) (f : CoreSt → CoreSt) : (s.onCore f).jobs = s.jobs := rfl
@[simp] theorem State.onCore_sch (s : State) (f : CoreSt → CoreSt) : (s.onCore f).sch = s.sch := rfl
@[simp] theorem State.onCore_host (s : State) (f : CoreSt → CoreSt) : (s.onCore f).host = s.host := rfl
@[simp] theorem State.onCore_dies (s : State) (f : CoreSt → CoreSt) : (s.onCore f).dies = s.dies := rfl
@[simp] theorem State.onCore_rails (s : State) (f : CoreSt → CoreSt) : (s.onCore f).rails = s.rails := rfl
@[simp] theorem State.onCore_inbox (s : State) (f : CoreSt → CoreSt) : (s.onCore f).inbox = s.inbox := rfl
@[simp] theorem State.onCore_iss (s : State) (f : CoreSt → CoreSt) : (s.onCore f).iss = s.iss := rfl
@[simp] theorem State.onCore_freeCtr (s : State) (f : CoreSt → CoreSt) : (s.onCore f).freeCtr = s.freeCtr := rfl
@[simp] theorem State.onCore_nextId (s : State) (f : CoreSt → CoreSt) : (s.onCore f).nextId = s.nextId := rfl

/-! onMem -/
@[simp] theorem State.onMem_w (s : State) (f : MemSt → MemSt) : (s.onMem f).w = s.w := rfl
@[simp] theorem State.onMem_co (s : State) (f : MemSt → MemSt) : (s.onMem f).co = s.co := rfl
@[simp] theorem State.onMem_core (s : State) (f : MemSt → MemSt) : (s.onMem f).core = s.core := rfl
@[simp] theorem State.onMem_warps (s : State) (f : MemSt → MemSt) : (s.onMem f).warps = s.warps := rfl
@[simp] theorem State.onMem_cohorts (s : State) (f : MemSt → MemSt) : (s.onMem f).cohorts = s.cohorts := rfl
@[simp] theorem State.onMem_cores (s : State) (f : MemSt → MemSt) : (s.onMem f).cores = s.cores := rfl
@[simp] theorem State.onMem_mem (s : State) (f : MemSt → MemSt) : (s.onMem f).mem = f s.mem := rfl
@[simp] theorem State.onMem_xl (s : State) (f : MemSt → MemSt) : (s.onMem f).xl = s.xl := rfl
@[simp] theorem State.onMem_fab (s : State) (f : MemSt → MemSt) : (s.onMem f).fab = s.fab := rfl
@[simp] theorem State.onMem_jobs (s : State) (f : MemSt → MemSt) : (s.onMem f).jobs = s.jobs := rfl
@[simp] theorem State.onMem_sch (s : State) (f : MemSt → MemSt) : (s.onMem f).sch = s.sch := rfl
@[simp] theorem State.onMem_host (s : State) (f : MemSt → MemSt) : (s.onMem f).host = s.host := rfl
@[simp] theorem State.onMem_dies (s : State) (f : MemSt → MemSt) : (s.onMem f).dies = s.dies := rfl
@[simp] theorem State.onMem_rails (s : State) (f : MemSt → MemSt) : (s.onMem f).rails = s.rails := rfl
@[simp] theorem State.onMem_inbox (s : State) (f : MemSt → MemSt) : (s.onMem f).inbox = s.inbox := rfl
@[simp] theorem State.onMem_iss (s : State) (f : MemSt → MemSt) : (s.onMem f).iss = s.iss := rfl
@[simp] theorem State.onMem_freeCtr (s : State) (f : MemSt → MemSt) : (s.onMem f).freeCtr = s.freeCtr := rfl
@[simp] theorem State.onMem_nextId (s : State) (f : MemSt → MemSt) : (s.onMem f).nextId = s.nextId := rfl

/-! onXl -/
@[simp] theorem State.onXl_w (s : State) (f : XlSt → XlSt) : (s.onXl f).w = s.w := rfl
@[simp] theorem State.onXl_co (s : State) (f : XlSt → XlSt) : (s.onXl f).co = s.co := rfl
@[simp] theorem State.onXl_core (s : State) (f : XlSt → XlSt) : (s.onXl f).core = s.core := rfl
@[simp] theorem State.onXl_warps (s : State) (f : XlSt → XlSt) : (s.onXl f).warps = s.warps := rfl
@[simp] theorem State.onXl_cohorts (s : State) (f : XlSt → XlSt) : (s.onXl f).cohorts = s.cohorts := rfl
@[simp] theorem State.onXl_cores (s : State) (f : XlSt → XlSt) : (s.onXl f).cores = s.cores := rfl
@[simp] theorem State.onXl_mem (s : State) (f : XlSt → XlSt) : (s.onXl f).mem = s.mem := rfl
@[simp] theorem State.onXl_xl (s : State) (f : XlSt → XlSt) : (s.onXl f).xl = f s.xl := rfl
@[simp] theorem State.onXl_fab (s : State) (f : XlSt → XlSt) : (s.onXl f).fab = s.fab := rfl
@[simp] theorem State.onXl_jobs (s : State) (f : XlSt → XlSt) : (s.onXl f).jobs = s.jobs := rfl
@[simp] theorem State.onXl_sch (s : State) (f : XlSt → XlSt) : (s.onXl f).sch = s.sch := rfl
@[simp] theorem State.onXl_host (s : State) (f : XlSt → XlSt) : (s.onXl f).host = s.host := rfl
@[simp] theorem State.onXl_dies (s : State) (f : XlSt → XlSt) : (s.onXl f).dies = s.dies := rfl
@[simp] theorem State.onXl_rails (s : State) (f : XlSt → XlSt) : (s.onXl f).rails = s.rails := rfl
@[simp] theorem State.onXl_inbox (s : State) (f : XlSt → XlSt) : (s.onXl f).inbox = s.inbox := rfl
@[simp] theorem State.onXl_iss (s : State) (f : XlSt → XlSt) : (s.onXl f).iss = s.iss := rfl
@[simp] theorem State.onXl_freeCtr (s : State) (f : XlSt → XlSt) : (s.onXl f).freeCtr = s.freeCtr := rfl
@[simp] theorem State.onXl_nextId (s : State) (f : XlSt → XlSt) : (s.onXl f).nextId = s.nextId := rfl

/-! onFab -/
@[simp] theorem State.onFab_w (s : State) (f : FabSt → FabSt) : (s.onFab f).w = s.w := rfl
@[simp] theorem State.onFab_co (s : State) (f : FabSt → FabSt) : (s.onFab f).co = s.co := rfl
@[simp] theorem State.onFab_core (s : State) (f : FabSt → FabSt) : (s.onFab f).core = s.core := rfl
@[simp] theorem State.onFab_warps (s : State) (f : FabSt → FabSt) : (s.onFab f).warps = s.warps := rfl
@[simp] theorem State.onFab_cohorts (s : State) (f : FabSt → FabSt) : (s.onFab f).cohorts = s.cohorts := rfl
@[simp] theorem State.onFab_cores (s : State) (f : FabSt → FabSt) : (s.onFab f).cores = s.cores := rfl
@[simp] theorem State.onFab_mem (s : State) (f : FabSt → FabSt) : (s.onFab f).mem = s.mem := rfl
@[simp] theorem State.onFab_xl (s : State) (f : FabSt → FabSt) : (s.onFab f).xl = s.xl := rfl
@[simp] theorem State.onFab_fab (s : State) (f : FabSt → FabSt) : (s.onFab f).fab = f s.fab := rfl
@[simp] theorem State.onFab_jobs (s : State) (f : FabSt → FabSt) : (s.onFab f).jobs = s.jobs := rfl
@[simp] theorem State.onFab_sch (s : State) (f : FabSt → FabSt) : (s.onFab f).sch = s.sch := rfl
@[simp] theorem State.onFab_host (s : State) (f : FabSt → FabSt) : (s.onFab f).host = s.host := rfl
@[simp] theorem State.onFab_dies (s : State) (f : FabSt → FabSt) : (s.onFab f).dies = s.dies := rfl
@[simp] theorem State.onFab_rails (s : State) (f : FabSt → FabSt) : (s.onFab f).rails = s.rails := rfl
@[simp] theorem State.onFab_inbox (s : State) (f : FabSt → FabSt) : (s.onFab f).inbox = s.inbox := rfl
@[simp] theorem State.onFab_iss (s : State) (f : FabSt → FabSt) : (s.onFab f).iss = s.iss := rfl
@[simp] theorem State.onFab_freeCtr (s : State) (f : FabSt → FabSt) : (s.onFab f).freeCtr = s.freeCtr := rfl
@[simp] theorem State.onFab_nextId (s : State) (f : FabSt → FabSt) : (s.onFab f).nextId = s.nextId := rfl

/-! onSch -/
@[simp] theorem State.onSch_w (s : State) (f : SchSt → SchSt) : (s.onSch f).w = s.w := rfl
@[simp] theorem State.onSch_co (s : State) (f : SchSt → SchSt) : (s.onSch f).co = s.co := rfl
@[simp] theorem State.onSch_core (s : State) (f : SchSt → SchSt) : (s.onSch f).core = s.core := rfl
@[simp] theorem State.onSch_warps (s : State) (f : SchSt → SchSt) : (s.onSch f).warps = s.warps := rfl
@[simp] theorem State.onSch_cohorts (s : State) (f : SchSt → SchSt) : (s.onSch f).cohorts = s.cohorts := rfl
@[simp] theorem State.onSch_cores (s : State) (f : SchSt → SchSt) : (s.onSch f).cores = s.cores := rfl
@[simp] theorem State.onSch_mem (s : State) (f : SchSt → SchSt) : (s.onSch f).mem = s.mem := rfl
@[simp] theorem State.onSch_xl (s : State) (f : SchSt → SchSt) : (s.onSch f).xl = s.xl := rfl
@[simp] theorem State.onSch_fab (s : State) (f : SchSt → SchSt) : (s.onSch f).fab = s.fab := rfl
@[simp] theorem State.onSch_jobs (s : State) (f : SchSt → SchSt) : (s.onSch f).jobs = s.jobs := rfl
@[simp] theorem State.onSch_sch (s : State) (f : SchSt → SchSt) : (s.onSch f).sch = f s.sch := rfl
@[simp] theorem State.onSch_host (s : State) (f : SchSt → SchSt) : (s.onSch f).host = s.host := rfl
@[simp] theorem State.onSch_dies (s : State) (f : SchSt → SchSt) : (s.onSch f).dies = s.dies := rfl
@[simp] theorem State.onSch_rails (s : State) (f : SchSt → SchSt) : (s.onSch f).rails = s.rails := rfl
@[simp] theorem State.onSch_inbox (s : State) (f : SchSt → SchSt) : (s.onSch f).inbox = s.inbox := rfl
@[simp] theorem State.onSch_iss (s : State) (f : SchSt → SchSt) : (s.onSch f).iss = s.iss := rfl
@[simp] theorem State.onSch_freeCtr (s : State) (f : SchSt → SchSt) : (s.onSch f).freeCtr = s.freeCtr := rfl
@[simp] theorem State.onSch_nextId (s : State) (f : SchSt → SchSt) : (s.onSch f).nextId = s.nextId := rfl

/-! onHost -/
@[simp] theorem State.onHost_w (s : State) (f : HostSt → HostSt) : (s.onHost f).w = s.w := rfl
@[simp] theorem State.onHost_co (s : State) (f : HostSt → HostSt) : (s.onHost f).co = s.co := rfl
@[simp] theorem State.onHost_core (s : State) (f : HostSt → HostSt) : (s.onHost f).core = s.core := rfl
@[simp] theorem State.onHost_warps (s : State) (f : HostSt → HostSt) : (s.onHost f).warps = s.warps := rfl
@[simp] theorem State.onHost_cohorts (s : State) (f : HostSt → HostSt) : (s.onHost f).cohorts = s.cohorts := rfl
@[simp] theorem State.onHost_cores (s : State) (f : HostSt → HostSt) : (s.onHost f).cores = s.cores := rfl
@[simp] theorem State.onHost_mem (s : State) (f : HostSt → HostSt) : (s.onHost f).mem = s.mem := rfl
@[simp] theorem State.onHost_xl (s : State) (f : HostSt → HostSt) : (s.onHost f).xl = s.xl := rfl
@[simp] theorem State.onHost_fab (s : State) (f : HostSt → HostSt) : (s.onHost f).fab = s.fab := rfl
@[simp] theorem State.onHost_jobs (s : State) (f : HostSt → HostSt) : (s.onHost f).jobs = s.jobs := rfl
@[simp] theorem State.onHost_sch (s : State) (f : HostSt → HostSt) : (s.onHost f).sch = s.sch := rfl
@[simp] theorem State.onHost_host (s : State) (f : HostSt → HostSt) : (s.onHost f).host = f s.host := rfl
@[simp] theorem State.onHost_dies (s : State) (f : HostSt → HostSt) : (s.onHost f).dies = s.dies := rfl
@[simp] theorem State.onHost_rails (s : State) (f : HostSt → HostSt) : (s.onHost f).rails = s.rails := rfl
@[simp] theorem State.onHost_inbox (s : State) (f : HostSt → HostSt) : (s.onHost f).inbox = s.inbox := rfl
@[simp] theorem State.onHost_iss (s : State) (f : HostSt → HostSt) : (s.onHost f).iss = s.iss := rfl
@[simp] theorem State.onHost_freeCtr (s : State) (f : HostSt → HostSt) : (s.onHost f).freeCtr = s.freeCtr := rfl
@[simp] theorem State.onHost_nextId (s : State) (f : HostSt → HostSt) : (s.onHost f).nextId = s.nextId := rfl

/-! bump, onIss, fly -/
@[simp] theorem State.bump_w (s : State) : s.bump.w = s.w := rfl
@[simp] theorem State.bump_co (s : State) : s.bump.co = s.co := rfl
@[simp] theorem State.bump_core (s : State) : s.bump.core = s.core := rfl
@[simp] theorem State.bump_warps (s : State) : s.bump.warps = s.warps := rfl
@[simp] theorem State.bump_cohorts (s : State) : s.bump.cohorts = s.cohorts := rfl
@[simp] theorem State.bump_cores (s : State) : s.bump.cores = s.cores := rfl
@[simp] theorem State.bump_mem (s : State) : s.bump.mem = s.mem := rfl
@[simp] theorem State.bump_xl (s : State) : s.bump.xl = s.xl := rfl
@[simp] theorem State.bump_fab (s : State) : s.bump.fab = s.fab := rfl
@[simp] theorem State.bump_jobs (s : State) : s.bump.jobs = s.jobs := rfl
@[simp] theorem State.bump_sch (s : State) : s.bump.sch = s.sch := rfl
@[simp] theorem State.bump_host (s : State) : s.bump.host = s.host := rfl
@[simp] theorem State.bump_dies (s : State) : s.bump.dies = s.dies := rfl
@[simp] theorem State.bump_rails (s : State) : s.bump.rails = s.rails := rfl
@[simp] theorem State.bump_inbox (s : State) : s.bump.inbox = s.inbox := rfl
@[simp] theorem State.bump_iss (s : State) : s.bump.iss = s.iss := rfl
@[simp] theorem State.bump_freeCtr (s : State) : s.bump.freeCtr = s.freeCtr := rfl
@[simp] theorem State.bump_nextId (s : State) : s.bump.nextId = s.nextId + 1 := rfl
@[simp] theorem State.onIss_w (s : State) (f : Issue → Issue) : (s.onIss f).w = s.w := rfl
@[simp] theorem State.onIss_co (s : State) (f : Issue → Issue) : (s.onIss f).co = s.co := rfl
@[simp] theorem State.onIss_core (s : State) (f : Issue → Issue) : (s.onIss f).core = s.core := rfl
@[simp] theorem State.onIss_warps (s : State) (f : Issue → Issue) : (s.onIss f).warps = s.warps := rfl
@[simp] theorem State.onIss_cohorts (s : State) (f : Issue → Issue) : (s.onIss f).cohorts = s.cohorts := rfl
@[simp] theorem State.onIss_cores (s : State) (f : Issue → Issue) : (s.onIss f).cores = s.cores := rfl
@[simp] theorem State.onIss_mem (s : State) (f : Issue → Issue) : (s.onIss f).mem = s.mem := rfl
@[simp] theorem State.onIss_xl (s : State) (f : Issue → Issue) : (s.onIss f).xl = s.xl := rfl
@[simp] theorem State.onIss_fab (s : State) (f : Issue → Issue) : (s.onIss f).fab = s.fab := rfl
@[simp] theorem State.onIss_jobs (s : State) (f : Issue → Issue) : (s.onIss f).jobs = s.jobs := rfl
@[simp] theorem State.onIss_sch (s : State) (f : Issue → Issue) : (s.onIss f).sch = s.sch := rfl
@[simp] theorem State.onIss_host (s : State) (f : Issue → Issue) : (s.onIss f).host = s.host := rfl
@[simp] theorem State.onIss_dies (s : State) (f : Issue → Issue) : (s.onIss f).dies = s.dies := rfl
@[simp] theorem State.onIss_rails (s : State) (f : Issue → Issue) : (s.onIss f).rails = s.rails := rfl
@[simp] theorem State.onIss_inbox (s : State) (f : Issue → Issue) : (s.onIss f).inbox = s.inbox := rfl
@[simp] theorem State.onIss_iss (s : State) (f : Issue → Issue) : (s.onIss f).iss = f s.iss := rfl
@[simp] theorem State.onIss_freeCtr (s : State) (f : Issue → Issue) : (s.onIss f).freeCtr = s.freeCtr := rfl
@[simp] theorem State.onIss_nextId (s : State) (f : Issue → Issue) : (s.onIss f).nextId = s.nextId := rfl

end Sys2Proof.Machine
end

