-- ==== Sys2Proof/Laws/Settle.lean ====
section
/-! SUPPORT. What falls due with the clock, part by part: the registers and results in flight of the warp, its handles, the
cohort's stores, the core's slots; and what does not matter to it. -/

namespace Sys2Proof.Machine

/-! ## Results in flight -/

/-- The register files that results are written into, and their words in error, which a result replaces (19 R368). -/
structure RegFile where
  v : Tbl Lanes
  s : Tbl Word
  x : Tbl Lanes
  bad : List RegSite
  odd : List (RegSite × Word)

/-- Words renewed. -/
def RegFile.renew (r : RegFile) (p : RegSite → Bool) : RegFile :=
  { r with bad := r.bad.filter fun q => !p q, odd := r.odd.filter fun q => !p q.1 }

/-- A result written, in one core. -/
def RegFile.putOne (r : RegFile) (f : Flight) : RegFile :=
  match f.dst with
  | .v k => { r.renew (RegSite.inV k f.mask) with v := tset zeroLanes r.v k (blend f.mask (tget zeroLanes r.v k) f.lanes) }
  | .s k => if k = 0 then r else { r.renew (· == .s k) with s := tset 0 r.s k f.word }
  | .x k => { r.renew (RegSite.inX k f.mask) with x := tset zeroLanes r.x k (blend f.mask (tget zeroLanes r.x k) f.lanes) }

/-- The same in both cores of a pair (19 R371). -/
def RegFile.put (r : RegFile) (f : Flight) : RegFile := { r.putOne f with odd := (r.putOne f).odd ++ f.odd }

def Warp.regs (w : Warp) : RegFile := { v := w.v, s := w.s, x := w.x, bad := w.bad, odd := w.odd }
def Warp.setRegs (w : Warp) (r : RegFile) : Warp := { w with v := r.v, s := r.s, x := r.x, bad := r.bad, odd := r.odd }

theorem wrOne_eq (w : Warp) (f : Flight) : w.wrOne f = w.setRegs (w.regs.putOne f) := by
  unfold Warp.wrOne RegFile.putOne
  cases f.dst with
  | v k => rfl
  | s k => by_cases h : k = 0 <;> simp [Warp.wrS, h] <;> rfl
  | x k => rfl

theorem wrDest_eq (w : Warp) (f : Flight) : w.wrDest f = w.setRegs (w.regs.put f) := by
  unfold Warp.wrDest
  rw [wrOne_eq]
  rfl

/-- A result that both cores of a pair have alike. -/
theorem wrDest_same {f : Flight} (h : f.odd = []) (w : Warp) : w.wrDest f = w.wrOne f := by
  unfold Warp.wrDest
  rw [h, List.append_nil]

/-- The results due at cycle c, and the others. -/
def flushR (c : Nat) : List Flight → RegFile → RegFile × List Flight
  | [], r => (r, [])
  | f :: l, r => if f.due ≤ c then flushR c l (r.put f) else (r, f :: l)

theorem flushFly_eq (c : Nat) (l : List Flight) (w : Warp) :
    flushFly c l w = { (w.setRegs (flushR c l w.regs).1) with fly := (flushR c l w.regs).2 } := by
  induction l generalizing w with
  | nil => rfl
  | cons f l ih =>
    unfold flushFly flushR
    by_cases h : f.due ≤ c
    · simp only [h, if_true]
      rw [ih, wrDest_eq]; rfl
    · simp only [h, if_false]; rfl

theorem insFly_cons (f g : Flight) (l : List Flight) :
    insFly f (g :: l) = if f.due < g.due then f :: g :: l else g :: insFly f l := rfl

theorem flushR_cons (c : Nat) (f : Flight) (l : List Flight) (r : RegFile) :
    flushR c (f :: l) r = if f.due ≤ c then flushR c l (r.put f) else (r, f :: l) := rfl

/-- A result put in flight for cycle c is the last of those due then. -/
theorem flushR_ins_now {c : Nat} {f : Flight} (h : f.due = c) (l : List Flight) (r : RegFile) :
    flushR c (insFly f l) r = ((flushR c l r).1.put f, (flushR c l r).2) := by
  induction l generalizing r with
  | nil => simp [insFly, flushR, h]
  | cons g l ih =>
    rw [insFly_cons]
    by_cases hg : f.due < g.due
    · rw [if_pos hg, flushR_cons, if_pos (by omega), flushR_cons, if_neg (by omega), flushR_cons, if_neg (by omega)]
    · rw [if_neg hg, flushR_cons, if_pos (by omega), flushR_cons, if_pos (by omega), ih]

/-- A result put in flight for a later cycle stays there. -/
theorem flushR_ins_later {c : Nat} {f : Flight} (h : c < f.due) (l : List Flight) (r : RegFile) :
    flushR c (insFly f l) r = ((flushR c l r).1, insFly f (flushR c l r).2) := by
  induction l generalizing r with
  | nil =>
    have : ¬ f.due ≤ c := by omega
    simp [insFly, flushR, this]
  | cons g l ih =>
    rw [insFly_cons]
    by_cases hg : f.due < g.due
    · rw [if_pos hg, flushR_cons, if_neg (by omega), flushR_cons, if_neg (by omega), insFly_cons, if_pos hg]
    · rw [if_neg hg]
      by_cases hn : g.due ≤ c
      · rw [flushR_cons, if_pos hn, flushR_cons, if_pos hn, ih]
      · rw [flushR_cons, if_neg hn, flushR_cons, if_neg hn, insFly_cons, if_neg hg]

/-! ## Handle changes -/

/-- A handle change's part in the warp, and in the core. -/
def hAct (h : Tbl Nat) : HAct → Tbl Nat
  | .bind k n => tset 0 h k (n + 1)
  | .unbind k => tset 0 h k 0
  | .setDesc _ _ => h
def cAct (c : CoreSt) : HAct → CoreSt
  | .setDesc n d => { c with slots := tset TSlot.free c.slots n { tget TSlot.free c.slots n with desc := d } }
  | _ => c

theorem applyH_eq (s : State) (a : HAct) :
    applyH s a = { s with w := { s.w with h := hAct s.w.h a }, core := cAct s.core a } := by
  cases a <;> rfl

theorem foldl_applyH (l : List HPend) (s : State) :
    l.foldl (fun s p => applyH s p.act) s =
      { s with w := { s.w with h := l.foldl (fun h p => hAct h p.act) s.w.h }, core := l.foldl (fun c p => cAct c p.act) s.core } := by
  induction l generalizing s with
  | nil => rfl
  | cons p l ih => simp only [List.foldl_cons]; rw [ih, applyH_eq]

/-! ## All that falls due -/

/-- The warp, the cohort and the core in focus with what is due at cycle n done. -/
def Warp.settleAt (w : Warp) (n : Nat) : Warp :=
  { (w.setRegs (flushR n w.fly w.regs).1) with
    fly := (flushR n w.fly w.regs).2, h := (w.hpend.filter fun p => p.due ≤ n).foldl (fun h p => hAct h p.act) w.h,
    hpend := w.hpend.filter fun p => !decide (p.due ≤ n) }
def Cohort.settleAt (co : Cohort) (n : Nat) : Cohort := (co.applyStores n).endDrain n
def CoreSt.settleAt (c : CoreSt) (hp : List HPend) : CoreSt :=
  clearSlots (commitVtw ((hp.filter fun p => p.due ≤ c.cycle).foldl (fun c p => cAct c p.act) c))

theorem settle_eq (s : State) :
    s.settle = { s with w := s.w.settleAt s.now, co := s.co.settleAt s.now, core := s.core.settleAt s.w.hpend } := by
  unfold State.settle
  simp only [flushFly_eq, State.onW, foldl_applyH, State.onCo, State.onCore]
  rfl

theorem advance_eq (s : State) (c : Nat) :
    s.advance c =
      { s with
        w := s.w.settleAt (max s.now c), co := s.co.settleAt (max s.now c),
        core := { s.core with cycle := max s.now c }.settleAt s.w.hpend } := by
  unfold State.advance
  rw [settle_eq]; rfl

/-! ## What it does not matter to -/

/-- An update of a warp that changes neither its registers, results in flight nor handles, nor depends on them. -/
structure Aside (f : Warp → Warp) : Prop where
  fly : ∀ w, (f w).fly = w.fly
  hpend : ∀ w, (f w).hpend = w.hpend
  h : ∀ w, (f w).h = w.h
  regs : ∀ w, (f w).regs = w.regs
  comm : ∀ (w : Warp) r l h p, { ((f w).setRegs r) with fly := l, h := h, hpend := p } = f { (w.setRegs r) with fly := l, h := h, hpend := p }

theorem Aside.settleAt {f : Warp → Warp} (hf : Aside f) (w : Warp) (n : Nat) : (f w).settleAt n = f (w.settleAt n) := by
  unfold Warp.settleAt
  rw [hf.fly, hf.regs, hf.hpend, hf.h, hf.comm]

theorem Aside.advance {f : Warp → Warp} (hf : Aside f) (s : State) (c : Nat) : (s.onW f).advance c = (s.advance c).onW f := by
  simp only [advance_eq, State.onW]
  rw [hf.settleAt, hf.hpend]
  rfl

/-- The scalar results of latency n: written with what else is due at cycle n. -/
theorem settleAt_now {w : Warp} {f : Flight} {n : Nat} (h : f.due = n) :
    ({ w with fly := insFly f w.fly } : Warp).settleAt n = (w.settleAt n).wrDest f := by
  rw [wrDest_eq]
  unfold Warp.settleAt
  simp only
  have : ({ w with fly := insFly f w.fly } : Warp).regs = w.regs := rfl
  rw [this, flushR_ins_now h]
  rfl

/-- A result of a later cycle stays in flight. -/
theorem settleAt_later {w : Warp} {f : Flight} {n : Nat} (h : n < f.due) :
    ({ w with fly := insFly f w.fly } : Warp).settleAt n = { (w.settleAt n) with fly := insFly f (w.settleAt n).fly } := by
  unfold Warp.settleAt
  simp only
  have : ({ w with fly := insFly f w.fly } : Warp).regs = w.regs := rfl
  rw [this, flushR_ins_later h]
  rfl

theorem fly_advance_now {s : State} {f : Flight} {c : Nat} (h : f.due = c) (hc : s.now ≤ c) :
    (s.fly f).advance c = (s.advance c).onW fun w => w.wrDest f := by
  have hm : max s.now c = f.due := by rw [h]; exact Nat.max_eq_right hc
  have : (s.fly f).now = s.now := rfl
  simp only [advance_eq, this, hm]
  simp only [State.fly, State.onW, settleAt_now rfl]

theorem fly_advance_later {s : State} {f : Flight} {c : Nat} (h : max s.now c < f.due) :
    (s.fly f).advance c = (s.advance c).fly f := by
  have : (s.fly f).now = s.now := rfl
  simp only [advance_eq, this]
  simp only [State.fly, State.onW, settleAt_later h]

/-- The clock after an advance. -/
theorem advance_now (s : State) (c : Nat) : (s.advance c).now = max s.now c := by
  have key : ∀ (l : List HPend) (k : CoreSt), (l.foldl (fun c p => cAct c p.act) k).cycle = k.cycle := by
    intro l
    induction l with
    | nil => intro k; rfl
    | cons p l ih => intro k; simp only [List.foldl_cons]; rw [ih]; cases p.act <;> rfl
  have key2 : ∀ (l : List Vtw) (k : CoreSt), (l.foldl (fun c v => c.startClear v.due v.slot) k).cycle = k.cycle := by
    intro l
    induction l with
    | nil => intro k; rfl
    | cons p l ih =>
      intro k; simp only [List.foldl_cons]; rw [ih]
      unfold CoreSt.startClear; dsimp only; split <;> rfl
  rw [advance_eq]
  show (CoreSt.settleAt _ _).cycle = _
  unfold CoreSt.settleAt clearSlots commitVtw
  simp only [key2, key]

end Sys2Proof.Machine
end

