-- ==== Sys2Proof/Laws/Issue.lean ====
section
/-! SUPPORT. The issue of a bundle that holds one instruction, at an undisturbed boundary: once, for every instruction, what the
boundary, the checks and the close of a bundle come to. -/

namespace Sys2Proof.Machine

/-! ## What an undisturbed boundary gives -/

/-- The conjuncts of `calm`. -/
structure Calm (s : State) : Prop where
  at_ : s.atIssue = true
  run : s.w.run = .ready
  next : s.w.nextIssue ≤ s.now
  settled : s.settle = s
  owed : s.w.owed = none
  restart : s.w.restart = []
  async : s.asyncCauses = []
  ss : (s.w.ss && !s.w.hm) = false
  replay : s.w.replay = none
  bad : s.w.bad = []
  soon : s.w.soon = []
  sig : s.w.sigBad = none
  same : s.same = true
  pcCmp : s.core.pcCmp = []
  dataCmp : s.core.dataCmp = []
  twinPc : s.twin.pcCmp = []
  twinData : s.twin.dataCmp = []

theorem calm_iff {s : State} (h : s.calm = true) : Calm s := by
  simp only [State.calm, Bool.and_eq_true, beq_iff_eq, decide_eq_true_eq, Option.isNone_iff_eq_none, Bool.not_eq_true'] at h
  obtain ⟨⟨⟨⟨⟨⟨⟨⟨⟨⟨⟨⟨⟨⟨⟨⟨h1, h2⟩, h3⟩, h4⟩, h5⟩, h6⟩, h7⟩, h8⟩, h9⟩, h10⟩, h11⟩, h12⟩, h13⟩, h14⟩, h15⟩, h16⟩, h17⟩ := h
  exact ⟨h1, h2, h3, h4, h5, h6, h7, h8, h9, h10, h11, h12, h13, h14, h15, h16, h17⟩

theorem Calm.advance {s : State} (h : Calm s) : s.advance s.w.nextIssue = s := by
  have : (s.onCore fun k => { k with cycle := max k.cycle s.w.nextIssue }) = s := by
    have hm : max s.core.cycle s.w.nextIssue = s.core.cycle := Nat.max_eq_left h.next
    unfold State.onCore; simp only [hm]
  unfold State.advance
  rw [this, h.settled]

/-- A warp that waits for nothing is not woken. -/
theorem wake_ready {s : State} (h : s.w.run = .ready) : s.wake = s := by
  have hw : s.awake s.w = s.w := by
    unfold State.awake
    rw [h]
    show ({ s.w with run := Run.ready } : Warp) = s.w
    rw [← h]
  unfold State.wake State.waitOver
  rw [h]
  simp only [if_true, State.onW, hw]

theorem Calm.wake {s : State} (h : Calm s) : s.wake = s := wake_ready h.run

theorem Calm.ripe {s : State} (h : Calm s) (c : Nat) : (s.onW fun w => w.ripe c) = s := by
  have : s.w.ripe c = s.w := by unfold Warp.ripe; rw [if_pos h.soon]
  simp only [State.onW, this]

theorem Calm.disagreed {s : State} (h : Calm s) : s.disagreed = s := by
  unfold State.disagreed
  rw [h.sig]
  rfl

theorem Calm.boundary {s : State} (h : Calm s) : s.boundary = s := by
  unfold State.boundary State.replayed
  simp only [h.advance, h.ripe, h.disagreed, h.wake, h.replay]

theorem Calm.settledW {s : State} (h : Calm s) : s.onW Warp.settled = s := by
  have : ({ s.w with owed := none } : Warp) = s.w := by rw [← h.owed]
  simp only [State.onW, Warp.settled, this]

theorem Calm.readBad {s : State} (h : Calm s) (b : Bun) : b.readBad s = s := by
  simp [Bun.readBad, h.bad]

theorem Calm.parts {s : State} (h : Calm s) (b : Bun) : b.parts s = false := by
  simp [Bun.parts, h.same]

/-! ## A bundle of one instruction -/

theorem oneBun_hits (i : Instr) (op : SlotOp) {s : State} (h : Calm s) : (oneBun i op).hits s = [] := by
  simp [Bun.hits, State.pcHits, State.dataHits, h.pcCmp, h.dataCmp, h.twinPc, h.twinData]

/-- A syllable of the bundle: the instruction's, or a NOP. -/
theorem mem_oneBun {i : Instr} {op : SlotOp} {y : Syl} (hy : y ∈ (oneBun i op).syls) :
    (y.i = i ∧ y.ill = i.illop ∧ y.op = op) ∨ (y.i = nopOf y.sl ∧ y.ill = none ∧ y.op = .nop) := by
  simp only [oneBun, List.mem_map] at hy
  obtain ⟨sl, _, rfl⟩ := hy
  split
  · exact .inl ⟨rfl, rfl, rfl⟩
  · exact .inr ⟨rfl, rfl, rfl⟩

theorem ports_nop (sl : Slot) (zf : Reg → Bool) : portsOf zf (nopOf sl) = Ports.none := by cases sl <;> rfl

theorem overRegs_none (n : Nat) : overRegs n Ports.none = false := rfl

/-- Nothing is found against the bundle. -/
theorem oneBun_causes {i : Instr} {op : SlotOp} {s : State} (hc : Calm s) (ha : s.admits i = true) (hop : op.causes s = []) :
    (oneBun i op).causes s = [] := by
  simp only [State.admits, Bool.and_eq_true, beq_iff_eq, Bool.not_eq_true', Option.isNone_iff_eq_none] at ha
  obtain ⟨⟨hi, hp⟩, hr⟩ := ha
  have h1 : illbun s.w.pc ((oneBun i op).ports s.w) = [] := by
    have : (oneBun i op).ports s.w = (oneBun i (slotOp i)).ports s.w := by
      simp only [Bun.ports, oneBun, List.map_map]
      refine List.map_congr_left fun sl _ => ?_
      simp only [Function.comp]
      split <;> rfl
    rw [this]; unfold illbun; rw [hp]
  have h2 : (oneBun i op).syls.flatMap (fun y => y.causes s) = [] := by
    rw [List.flatMap_eq_nil_iff]
    intro y hy
    obtain ⟨h, h', h''⟩ | ⟨h, h', h''⟩ := mem_oneBun hy
    · simp [Syl.causes, h, h', h'', hi, hr, hop]
    · simp [Syl.causes, h, h', h'', ports_nop, overRegs_none, SlotOp.nop]
  unfold Bun.causes
  rw [h1, h2, oneBun_hits i op hc]; rfl

/-- Nothing holds it. -/
theorem oneBun_holds {i : Instr} {op : SlotOp} {s : State} (hh : op.hold s = none) (hf : s.overFull (oneBun i op).flags = false) :
    (oneBun i op).holds s = [] := by
  unfold Bun.holds
  rw [hf]
  simp only [Bool.false_eq_true, if_false, List.append_nil, List.filterMap_eq_nil_iff]
  intro y hy
  obtain ⟨_, _, h''⟩ | ⟨_, _, h''⟩ := mem_oneBun hy
  · simp [Syl.hold, h'', hh]
  · simp [Syl.hold, h'', SlotOp.nop]

theorem oneBun_bad {i : Instr} {op : SlotOp} {s : State} (hb : op.bad s = none) :
    ((oneBun i op).syls.findSome? fun y => y.op.bad s) = none := by
  rw [List.findSome?_eq_none_iff]
  intro y hy
  obtain ⟨_, _, h''⟩ | ⟨_, _, h''⟩ := mem_oneBun hy
  · rw [h'']; exact hb
  · rw [h'']; rfl

/-- At an undisturbed boundary a bundle against which nothing is found commits. -/
theorem issue_commits {i : Instr} {op : SlotOp} {s : State} (hcalm : s.calm = true) (ha : s.admits i = true)
    (hop : op.causes s = []) (hh : op.hold s = none) (hb : op.bad s = none) (hf : s.overFull (oneBun i op).flags = false) :
    issueOne i op s = .next (((oneBun i op).commit s).afterCommit s.w.id) := by
  have hc := calm_iff hcalm
  have htaken : (oneBun i op).taken s = none := by
    unfold Bun.taken Bun.padCause
    rw [hc.owed, hc.settledW]
    simp [hc.async, oneBun_causes hc ha hop, oneBun_holds hh hf]
  unfold issueOne Bun.issue
  simp only [hc.at_, Bool.not_true, Bool.false_eq_true, if_false, hc.boundary, hc.restart, bne_self_eq_false, Bool.false_and,
    hc.parts, htaken, hc.run, hc.settledW]
  unfold Bun.run
  rw [oneBun_hits i op hc, oneBun_holds hh hf, oneBun_bad hb]
  rfl

/-! ## Its effects -/

/-- The machine as the slot's effect finds it: the bundle under issue, the early reads made, its flag counted. -/
def State.begun (s : State) (op : SlotOp) (next : Word) : State :=
  (op.early { s with iss := { pc := s.w.pc, next := next, t := s.now, gap := 0, ys := false, yielded := false } }).countUp op.flag.toList

theorem oneBun_flags {i : Instr} {op : SlotOp} {sl : Slot} (h : i.slot = some sl) : (oneBun i op).flags = op.flag.toList := by
  cases sl <;> cases hf : op.flag <;> simp [Bun.flags, oneBun, h, SlotOp.nop, hf]

/-- The next bundle where no control is transferred (16 R317). -/
def State.nextPc (s : State) : Word := (s.w.loopEnd s.w.pc).2.getD (s.w.pc + 32)

/-- A V, M or E instruction: its effect, then the loop-end action. -/
theorem effects_vme {i : Instr} {op : SlotOp} {sl : Slot} (s : State) (h : i.slot = some sl) (hsl : sl ≠ .C) :
    (oneBun i op).effects s = (op.effect (s.begun op s.nextPc)).onW (fun w => (w.loopEnd s.w.pc).1) ∧
    ((oneBun i op).issueOf s).2 = false := by
  cases sl <;> first | exact absurd rfl hsl | skip
  all_goals
    constructor
    · unfold Bun.effects
      rw [oneBun_flags h]
      simp [oneBun, h, Bun.issueOf, Bun.ctl, SlotOp.nop, State.begun, State.nextPc]
    · simp [oneBun, h, Bun.issueOf, Bun.ctl, SlotOp.nop]

/-- A C instruction that transfers no control: the loop-end action, then its effect. -/
theorem effects_c {i : Instr} {op : SlotOp} {s : State} (h : i.slot = some .C) (hn : op.next s = none) :
    (oneBun i op).effects s = op.effect ((s.begun op s.nextPc).onW fun w => (w.loopEnd s.w.pc).1) ∧
    ((oneBun i op).issueOf s).2 = false := by
  constructor
  · unfold Bun.effects
    rw [oneBun_flags h]
    simp [oneBun, h, Bun.issueOf, Bun.ctl, SlotOp.nop, hn, State.begun, State.nextPc]
  · simp [oneBun, h, Bun.issueOf, Bun.ctl, hn]

/-- One that transfers control to t: the loops that t lies outside of are left, then its effect. -/
theorem effects_jump {i : Instr} {op : SlotOp} {s : State} {t : Word} (h : i.slot = some .C) (hn : op.next s = some t) :
    (oneBun i op).effects s = op.effect ((s.begun op t).onW fun w => w.leaveLoops t) ∧ ((oneBun i op).issueOf s).2 = true := by
  constructor
  · unfold Bun.effects
    rw [oneBun_flags h]
    simp [oneBun, h, Bun.issueOf, Bun.ctl, SlotOp.nop, hn, State.begun]
  · simp [oneBun, h, Bun.issueOf, Bun.ctl, hn]

/-! ## Its close -/

/-- What the clock's advance leaves of a warp beside its registers, results in flight and handles. -/
theorem advance_w (s : State) (c : Nat) (f : Warp → Warp)
    (hf : ∀ (w : Warp) r l h p, f { (w.setRegs r) with fly := l, h := h, hpend := p } = f w) : f (s.advance c).w = f s.w := by
  rw [advance_eq]; exact hf _ _ _ _ _

theorem advance_run (s : State) (c : Nat) : (s.advance c).w.run = s.w.run := by rw [advance_eq]; rfl
theorem advance_id (s : State) (c : Nat) : (s.advance c).w.id = s.w.id := by rw [advance_eq]; rfl
theorem advance_hm (s : State) (c : Nat) : (s.advance c).w.hm = s.w.hm := by rw [advance_eq]; rfl
theorem advance_pend (s : State) (c : Nat) : (s.advance c).w.pend = s.w.pend := by rw [advance_eq]; rfl

theorem settleAt_copies (c : CoreSt) (hp : List HPend) : (c.settleAt hp).copies = c.copies := by
  have key : ∀ (l : List HPend) (k : CoreSt), (l.foldl (fun c p => cAct c p.act) k).copies = k.copies := by
    intro l
    induction l with
    | nil => intro k; rfl
    | cons p l ih => intro k; simp only [List.foldl_cons]; rw [ih]; cases p.act <;> rfl
  have key2 : ∀ (l : List Vtw) (k : CoreSt), (l.foldl (fun c v => c.startClear v.due v.slot) k).copies = k.copies := by
    intro l
    induction l with
    | nil => intro k; rfl
    | cons p l ih =>
      intro k; simp only [List.foldl_cons]; rw [ih]
      unfold CoreSt.startClear; dsimp only; split <;> rfl
  unfold CoreSt.settleAt clearSlots commitVtw
  simp only [key2, key]

theorem advance_copies (s : State) (c : Nat) : (s.advance c).core.copies = s.core.copies := by
  rw [advance_eq]; exact settleAt_copies _ _

/-- The asynchronous causes of a warp depend on its pending causes and its copies alone. -/
theorem async_nil {s t : State} (h : s.asyncCauses = []) (hid : t.w.id = s.w.id) (hhm : t.w.hm = s.w.hm) (hp : t.w.pend = s.w.pend)
    (hc : t.core.copies = s.core.copies) : t.asyncCauses = [] := by
  unfold State.asyncCauses State.unreported at h ⊢
  rw [hhm, hp, hc, hid]
  split at h
  · rename_i hm; simp [hm]
  · rename_i hm
    rw [if_neg hm]
    simp only [List.append_eq_nil_iff, List.map_eq_nil_iff] at h ⊢
    exact h

theorem goOn_async {s : State} {w : Warp} {next : Word} {n : Nat} (h : s.asyncCauses = []) (hid : w.id = s.w.id) (hhm : w.hm = s.w.hm)
    (hp : w.pend = s.w.pend) : (s.goOn w next n).asyncCauses = [] := by
  refine async_nil h ?_ ?_ ?_ ?_
  · unfold State.goOn; rw [advance_id]; exact hid
  · unfold State.goOn; rw [advance_hm]; exact hhm
  · unfold State.goOn; rw [advance_pend]; exact hp
  · unfold State.goOn; rw [advance_copies]; rfl

/-- A warp that runs on keeps its core at a bundle that is not yield-safe (17 R344). -/
theorem schedule_ready {s : State} (h : s.w.run = .ready) (yl : Bool) : s.schedule false yl = s := by
  unfold State.schedule
  simp only [h, Bool.not_false, if_true, reduceCtorEq, decide_false, Bool.or_false, Bool.false_eq_true, if_false]

/-- The close of a bundle of gap 0 that is not yield-safe, of a warp that runs on. -/
theorem close_goes_on {t : State} {taken : Bool} (hrun : t.w.run = .ready) (hgap : t.iss.gap = 0) (hys : t.iss.ys = false)
    (ht : t.iss.t = t.now) : t.close taken false = t.goOn t.w t.iss.next (if taken then 3 else 1) := by
  have hs : ∀ (n : Nat) (u : State), u = t.going t.w t.iss.next n →
      ((u.advance (t.now + n)).wake).schedule false t.iss.yielded = t.goOn t.w t.iss.next n := by
    intro n u hu
    have hr : (u.advance (t.now + n)).w.run = .ready := by rw [advance_run, hu]; exact hrun
    rw [wake_ready hr, schedule_ready hr, hu]
    rfl
  unfold State.close
  simp only [hgap, hys, ht, Bool.false_and, Bool.false_eq_true, if_false, Nat.add_zero]
  refine hs _ _ ?_
  simp only [State.throttled, State.heldFor, State.unhold, State.onCore, State.onW, State.going, State.coreOn]
  have hn : ∀ n : Nat, t.now + n - t.core.cycle = n := fun n => Nat.add_sub_cancel_left _ _
  simp only [State.now] at hn ⊢
  simp only [hn]
  rfl

/-- A bundle that commits goes on where nothing asynchronous came up with it. -/
theorem commit_goes_on {i : Instr} {op : SlotOp} {s t : State} {next : Word} {taken : Bool} (hc : Calm s)
    (heff : (oneBun i op).effects s = t) (htk : ((oneBun i op).issueOf s).2 = taken) (hrun : t.w.run = .ready)
    (hiss : t.iss = { pc := s.w.pc, next := next, t := s.now, gap := 0, ys := false, yielded := false }) (hnow : t.now = s.now)
    (has : t.asyncCauses = []) :
    ((oneBun i op).commit s).afterCommit s.w.id = t.goOn t.w next (if taken then 3 else 1) := by
  unfold Bun.commit
  simp only [hc.same, if_true, hc.sig, Option.isSome_none, Bool.false_and, Bool.false_eq_true, if_false]
  rw [hc.readBad, heff, htk, hc.ss, close_goes_on hrun (by rw [hiss]) (by rw [hiss]) (by rw [hiss, hnow]), hiss]
  unfold State.afterCommit
  have : (t.goOn t.w next (if taken then 3 else 1)).asyncCauses = [] := goOn_async has rfl rfl rfl
  simp [this]

end Sys2Proof.Machine
end

