-- ==== Sys2Proof/Laws/Table.lean ====
section
/-! SUPPORT. Sparse tables: what a write leaves to be read, and that every write keeps the canonical form. -/

namespace Sys2Proof.Machine

variable {α : Type} [DecidableEq α] {d : α}

theorem tokFrom_mono {lo lo' : Nat} {l : Tbl α} (h : tokFrom d lo l = true) (hl : lo' ≤ lo) : tokFrom d lo' l = true := by
  cases l with
  | nil => rfl
  | cons p l =>
    obtain ⟨k, v⟩ := p
    simp only [tokFrom, Bool.and_eq_true, decide_eq_true_eq] at h ⊢
    exact ⟨⟨by omega, h.1.2⟩, h.2⟩

theorem tget_below {lo n : Nat} {l : Tbl α} (h : tokFrom d lo l = true) (hn : n < lo) : tget d l n = d := by
  cases l with
  | nil => rfl
  | cons p l =>
    obtain ⟨k, v⟩ := p
    simp only [tokFrom, Bool.and_eq_true, decide_eq_true_eq] at h
    have : n ≠ k ∧ n < k := by omega
    simp [tget, this.1, this.2]

theorem tcons_ok {lo n : Nat} {v : α} {l : Tbl α} (h : tokFrom d (n + 1) l = true) (hn : lo ≤ n) :
    tokFrom d lo (tcons d n v l) = true := by
  unfold tcons
  split
  · exact tokFrom_mono h (by omega)
  · rename_i hv
    simp [tokFrom, hn, hv, h]

/-- A write keeps the canonical form. -/
theorem tset_ok {lo n : Nat} {v : α} {l : Tbl α} (h : tokFrom d lo l = true) (hn : lo ≤ n) :
    tokFrom d lo (tset d l n v) = true := by
  induction l generalizing lo with
  | nil => exact tcons_ok rfl hn
  | cons p l ih =>
    obtain ⟨k, u⟩ := p
    simp only [tokFrom, Bool.and_eq_true, decide_eq_true_eq] at h
    unfold tset
    split
    · subst_vars; exact tcons_ok h.2 hn
    · split
      · refine tcons_ok ?_ hn
        simp [tokFrom, h.1.2, h.2]; omega
      · simp only [tokFrom, Bool.and_eq_true, decide_eq_true_eq]
        exact ⟨h.1, ih h.2 (by omega)⟩

theorem tok_tset {n : Nat} {v : α} {l : Tbl α} (h : tok d l = true) : tok d (tset d l n v) = true := tset_ok h (Nat.zero_le _)

theorem tok_tsets {l : Tbl α} {ws : List (Nat × α)} (h : tok d l = true) : tok d (tsets d l ws) = true := by
  unfold tsets
  induction ws generalizing l with
  | nil => exact h
  | cons w ws ih => exact ih (tok_tset h)

theorem tokFrom_filter {lo : Nat} {l : Tbl α} (p : Nat × α → Bool) (h : tokFrom d lo l = true) : tokFrom d lo (l.filter p) = true := by
  induction l generalizing lo with
  | nil => rfl
  | cons q l ih =>
    obtain ⟨k, v⟩ := q
    simp only [tokFrom, Bool.and_eq_true, decide_eq_true_eq] at h
    by_cases hp : p (k, v) = true
    · simp only [List.filter_cons, hp, if_true, tokFrom, Bool.and_eq_true, decide_eq_true_eq]
      exact ⟨h.1, ih h.2⟩
    · simp only [List.filter_cons, hp]
      exact tokFrom_mono (ih h.2) (by omega)

theorem tok_filter {l : Tbl α} (p : Nat × α → Bool) (h : tok d l = true) : tok d (l.filter p) = true := tokFrom_filter p h

/-- A read after a write. -/
theorem tget_tset_from {lo n m : Nat} {v : α} {l : Tbl α} (h : tokFrom d lo l = true) :
    tget d (tset d l n v) m = if m = n then v else tget d l m := by
  induction l generalizing lo with
  | nil =>
    simp only [tset, tcons]
    by_cases hv : v = d <;> by_cases hm : m = n <;> simp [tget, hv, hm]
  | cons p l ih =>
    obtain ⟨k, u⟩ := p
    simp only [tokFrom, Bool.and_eq_true, decide_eq_true_eq] at h
    unfold tset
    by_cases hk : n = k
    · subst hk
      by_cases hv : v = d
      · by_cases hm : m = n
        · subst hm; simp [tcons, hv, tget_below h.2 (Nat.lt_succ_self _)]
        · by_cases hlt : m < n
          · simp [tcons, hv, tget, hm, hlt, tget_below h.2 (show m < n + 1 by omega)]
          · simp [tcons, hv, tget, hm, hlt]
      · by_cases hm : m = n <;> by_cases hlt : m < n <;> simp [tcons, hv, tget, hm, hlt]
    · by_cases hlt : n < k
      · by_cases hv : v = d
        · by_cases hm : m = n
          · subst hm; simp [tcons, hk, hlt, hv, tget]
          · simp [tcons, hk, hlt, hv, hm]
        · by_cases hm : m = n
          · subst hm; simp [tcons, hk, hlt, hv, tget]
          · by_cases hmn : m < n
            · have : m ≠ k ∧ m < k := by omega
              simp [tcons, hk, hlt, hv, tget, hm, hmn, this.1, this.2]
            · simp [tcons, hk, hlt, hv, tget, hm, hmn]
      · simp only [hk, hlt, if_false, tget]
        by_cases hm : m = k
        · simp [hm, Ne.symm hk]
        · by_cases hmk : m < k
          · have : m ≠ n := by omega
            simp [hm, hmk, this]
          · simp [hm, hmk, ih h.2]

theorem tget_tset {n m : Nat} {v : α} {l : Tbl α} (h : tok d l = true) :
    tget d (tset d l n v) m = if m = n then v else tget d l m := tget_tset_from h

theorem tget_tset_self {n : Nat} {v : α} {l : Tbl α} (h : tok d l = true) : tget d (tset d l n v) n = v := by simp [tget_tset h]
theorem tget_tset_ne {n m : Nat} {v : α} {l : Tbl α} (h : tok d l = true) (hm : m ≠ n) : tget d (tset d l n v) m = tget d l m := by
  simp [tget_tset h, hm]

/-- Writing the value that a key reads as changes nothing. -/
theorem tset_same_from {lo n : Nat} {l : Tbl α} (h : tokFrom d lo l = true) : tset d l n (tget d l n) = l := by
  induction l generalizing lo with
  | nil => simp [tset, tget, tcons]
  | cons p l ih =>
    obtain ⟨k, u⟩ := p
    simp only [tokFrom, Bool.and_eq_true, decide_eq_true_eq] at h
    unfold tset tget
    by_cases hk : n = k
    · subst hk; simp [tcons, h.1.2]
    · by_cases hlt : n < k
      · simp [hk, hlt, tcons]
      · simp [hk, hlt, ih h.2]

end Sys2Proof.Machine
end

