-- ==== Sys2Proof/Laws/Mem.lean ====
section
/-! SUPPORT. Main memory: which operations leave what the stacks hold alone, and that every other one keeps the canonical
form of memory. -/

namespace Sys2Proof.Machine

/-- A fold of steps each of which leaves a part of its state alone leaves it alone. -/
theorem foldl_same {α β γ : Type} (g : α → γ) (f : α → β → α) (h : ∀ a b, g (f a b) = g a) (l : List β) (a : α) : g (l.foldl f a) = g a := by
  induction l generalizing a with
  | nil => rfl
  | cons b l ih => exact (ih _).trans (h a b)

/-- A fold of steps each of which keeps a property keeps it. -/
theorem foldl_keeps {α β : Type} (p : α → Prop) (f : α → β → α) (h : ∀ a b, p a → p (f a b)) (l : List β) (a : α) (ha : p a) : p (l.foldl f a) := by
  induction l generalizing a with
  | nil => exact ha
  | cons b l ih => exact ih _ (h a b ha)

/-! ## Sets of the L2 -/

/-- A line shares its set with no more lines than the L2 has sectors; none is itself. -/
theorem MemSt.setmates_length_le (m : MemSt) (line : Nat) : (m.setmates line).length ≤ m.l2.length :=
  (List.length_filter_le _ _).trans ((List.dedup_sublist _).length_le.trans (List.length_map _).le)

/-! ## What leaves the stacks' bytes alone -/

@[simp] theorem MemSt.onStack_bytes (m : MemSt) (n : Nat) (f : Stack → Stack) : (m.onStack n f).bytes = m.bytes := rfl
@[simp] theorem MemSt.onStack_l2 (m : MemSt) (n : Nat) (f : Stack → Stack) : (m.onStack n f).l2 = m.l2 := rfl
@[simp] theorem MemSt.mark_bytes (m : MemSt) (g : Nat) : (m.mark g).bytes = m.bytes := rfl
@[simp] theorem MemSt.putByte_bytes (m : MemSt) (who : Option Writer) (how : How) (pa : Nat) (b : Byte) :
    (m.putByte who how pa b).bytes = m.bytes := rfl

@[simp] theorem MemSt.writeAs_bytes (m : MemSt) (who : Option Writer) (how : How) (ws : List (Nat × Byte)) : (m.writeAs who how ws).bytes = m.bytes :=
  foldl_same MemSt.bytes (fun (m : MemSt) (p : Nat × Byte) => m.putByte who how p.1 p.2) (fun m p => m.putByte_bytes who how p.1 p.2) ws m

@[simp] theorem MemSt.write_bytes (m : MemSt) (who : Option Writer) (ws : List (Nat × Byte)) : (m.write who ws).bytes = m.bytes :=
  m.writeAs_bytes who .store ws

@[simp] theorem MemSt.fill_bytes (m : MemSt) (g : Nat) : (m.fill g).bytes = m.bytes := by
  unfold MemSt.fill
  dsimp only
  split
  · rfl
  · split
    · rfl
    · split <;> rfl

@[simp] theorem MemSt.load_bytes (m : MemSt) (pa n : Nat) : (m.load pa n).1.bytes = m.bytes :=
  foldl_same MemSt.bytes _ (fun m g => m.fill_bytes g) _ m

@[simp] theorem MemSt.logPoison_bytes (m₀ m : MemSt) (gs : List Nat) : (m₀.logPoison m gs).bytes = m.bytes :=
  foldl_same MemSt.bytes _ (fun m _ => m.onStack_bytes _ _) _ m

@[simp] theorem State.poisonFrame_bytes (s : State) (pa : Nat) : (s.poisonFrame pa).mem.bytes = s.mem.bytes :=
  foldl_same MemSt.bytes _ (fun m g => m.mark_bytes g) _ s.mem

/-! ## What changes them keeps the form -/

/-- A sector written back. -/
theorem MemSt.writeback_wf (m : MemSt) (g : Nat) (h : Memory.wf m.bytes = true) : Memory.wf (m.writeback g).1.bytes = true := by
  unfold MemSt.writeback
  dsimp only
  split
  · exact h
  · split
    · exact h
    · exact tok_tsets h

/-- An entry of a launch's record does not touch memory. -/
theorem State.entryFor_mem (s : State) (id : Nat) (e : Entry) : (s.entryFor id e).mem = s.mem := by
  unfold State.entryFor State.onLaunch
  split <;> rfl

/-- Nor does what a write-back leaves to its writer. -/
theorem State.dropped_mem (s : State) (id l : Nat) (f : Warp → Warp) (e : Entry) : ((s.onWarp id f).entryOf l e).mem = s.mem := rfl

theorem State.writeback_wf (s : State) (g : Nat) (h : Memory.wf s.mem.bytes = true) : Memory.wf (s.writeback g).mem.bytes = true := by
  have := MemSt.writeback_wf s.mem g h
  unfold State.writeback
  dsimp only
  split
  · split
    · rw [State.dropped_mem]; exact this
    · exact this
  · exact this

/-- A line that gives up its way (05 R103). -/
theorem State.evict_wf (s : State) (line : Nat) (h : Memory.wf s.mem.bytes = true) : Memory.wf (s.evict line).mem.bytes = true := by
  unfold State.evict
  generalize List.range 4 = r
  induction r using List.reverseRecOn with
  | nil => exact h
  | append_singleton l i ih =>
    rw [List.foldl_append]
    exact State.writeback_wf _ (4 * line + i) ih

theorem State.makeRoom_wf (s : State) (line : Nat) (h : Memory.wf s.mem.bytes = true) : Memory.wf (s.makeRoom line).mem.bytes = true := by
  have he : ∀ n k, Memory.wf ({ s.evict n with freeCtr := k } : State).mem.bytes = true := fun n _ => State.evict_wf s n h
  unfold State.makeRoom
  split
  · exact h
  · dsimp only
    split
    · exact h
    · exact he _ _

theorem State.evictAll_wf (s : State) (h : Memory.wf s.mem.bytes = true) : Memory.wf s.evictAll.mem.bytes = true :=
  foldl_keeps (fun s : State => Memory.wf s.mem.bytes = true) State.evict (fun s k hs => s.evict_wf k hs) _ s h

/-- What Fjody, Caddy, the tier engine and the loader write. -/
theorem State.put_wf (s : State) (ws : List (Nat × Byte)) (h : Memory.wf s.mem.bytes = true) : Memory.wf (s.put ws).mem.bytes = true := by
  unfold State.put
  refine foldl_keeps (fun s : State => Memory.wf s.mem.bytes = true) _ (fun s k hs => ?_) _ s h
  simpa only [State.onMem, MemSt.write_bytes] using s.makeRoom_wf k hs

theorem State.poke_wf (s : State) (pa n x : Nat) (h : Memory.wf s.mem.bytes = true) : Memory.wf (s.poke pa n x).mem.bytes = true := s.put_wf _ h

/-- A page walk's reads. -/
theorem State.walkRead_wf (s : State) (ctx va : Nat) (h : Memory.wf s.mem.bytes = true) : Memory.wf (s.walkRead ctx va).mem.bytes = true := by
  unfold State.walkRead
  refine foldl_keeps (fun s : State => Memory.wf s.mem.bytes = true) _ (fun s a hs => ?_) _ s h
  simpa only [State.onMem, MemSt.fill_bytes] using s.makeRoom_wf (a / 128) hs

/-- Granules that a pool node's answer has lost. -/
@[simp] theorem MemSt.unread_bytes (m : MemSt) (gs : List Nat) : (m.unread gs).bytes = m.bytes := by
  unfold MemSt.unread
  refine foldl_same MemSt.bytes _ ?_ gs m
  intro m g
  rfl

/-- A frame filled from a pool node. -/
theorem State.fillKept_wf (s : State) (pa : Nat) (k : Kept) (h : Memory.wf s.mem.bytes = true) : Memory.wf (s.fillKept pa k).mem.bytes = true := by
  simp only [State.fillKept, MemSt.unread_bytes]
  exact tok_tsets (tok_filter _ h)

theorem State.fillFrame_wf (s : State) (g : Migr) (h : Memory.wf s.mem.bytes = true) : Memory.wf (s.fillFrame g).mem.bytes = true := by
  unfold State.fillFrame
  split
  · exact s.fillKept_wf _ _ h
  · exact State.fillKept_wf _ _ _ h

/-- A range cleared. -/
theorem State.clearRange_wf (s : State) (pa n : Nat) (h : Memory.wf s.mem.bytes = true) : Memory.wf (s.clearRange pa n).mem.bytes = true :=
  tok_filter _ h

/-- The memory of a machine after reset. -/
theorem reset_memory_wf : Memory.wf State.reset.mem.bytes = true := rfl

/-! ## Reading after writing -/

/-- A byte read after one was written (03 R72): the byte written, and every other as before. -/
theorem MemSt.putByte_byte (m : MemSt) (who : Option Writer) (how : How) (pa a : Nat) (b : Byte) (h : tok Sector.absent m.l2 = true)
    (hb : tok none (m.sector (pa / 32)).bytes = true) : (m.putByte who how pa b).byte a = if a = pa then b else m.byte a := by
  unfold MemSt.byte MemSt.putByte MemSt.sector MemSt.raw
  dsimp only
  by_cases hg : a / 32 = pa / 32
  · rw [hg, tget_tset_self h]
    dsimp only
    rw [show tget Sector.absent m.l2 (pa / 32) = m.sector (pa / 32) from rfl, tget_tset hb]
    by_cases ha : a = pa
    · simp [ha]
    · have : ¬ a % 32 = pa % 32 := by omega
      simp [ha, this]
  · have : a ≠ pa := fun e => hg (by rw [e])
    rw [tget_tset_ne h hg]
    simp [this]

end Sys2Proof.Machine
end

