-- ==== Sys2Proof/Laws/PerInstr.lean ====
section
/-! SUPPORT. Statements made for every instruction: the encoder's syllable reads back as the instruction
(02 Tables 2.5 to 2.19). A step of the machine has no encoding, and its lemma says nothing more. -/

set_option linter.unusedSimpArgs false

namespace Sys2Proof.Laws.Encoding

-- One proof after the other: each thread of a parallel run would reserve its own stack, and 298 of them do not fit the check's memory.
set_option Elab.async false

/-- The instruction's syllable reads back as the instruction. -/
def Statement (i : Instr) : Prop := i.Reads

theorem vnop : Statement .vnop := by
  intro sl h; cases h; decide

theorem vadd (h : VHead) (a : Opd) (b : Opd) (sat : Bool) : Statement (.vadd h a b sat) :=
  reads_vreg { op := 0x01, et := h.et.code, vd := h.d.reg.val, wbs := h.d.wbs.toNat, le := h.d.le.toNat, xn := h.d.xn.val, nm := h.nm.toNat, opa := a.sel.code, moda := a.md.code, opb := b.sel.code, modb := b.md.code, sat := sat.toNat } rfl rfl
    (by simp [VReg.Fits]) (by simp) (by simp [decodeVReg, VReg.head, VReg.oa, VReg.ob, VReg.oc, VReg.oaBad, VReg.obBad, VReg.ocBad, -Fin.ofNat_eq_cast]) (by simp [decodeVReg, VReg.head, VReg.oa, VReg.ob, VReg.oc, VReg.oaBad, VReg.obBad, VReg.ocBad])

theorem vsub (h : VHead) (a : Opd) (b : Opd) (sat : Bool) : Statement (.vsub h a b sat) :=
  reads_vreg { op := 0x02, et := h.et.code, vd := h.d.reg.val, wbs := h.d.wbs.toNat, le := h.d.le.toNat, xn := h.d.xn.val, nm := h.nm.toNat, opa := a.sel.code, moda := a.md.code, opb := b.sel.code, modb := b.md.code, sat := sat.toNat } rfl rfl
    (by simp [VReg.Fits]) (by simp) (by simp [decodeVReg, VReg.head, VReg.oa, VReg.ob, VReg.oc, VReg.oaBad, VReg.obBad, VReg.ocBad, -Fin.ofNat_eq_cast]) (by simp [decodeVReg, VReg.head, VReg.oa, VReg.ob, VReg.oc, VReg.oaBad, VReg.obBad, VReg.ocBad])

theorem vmul (h : VHead) (a : Opd) (b : Opd) (sat : Bool) : Statement (.vmul h a b sat) :=
  reads_vreg { op := 0x03, et := h.et.code, vd := h.d.reg.val, wbs := h.d.wbs.toNat, le := h.d.le.toNat, xn := h.d.xn.val, nm := h.nm.toNat, opa := a.sel.code, moda := a.md.code, opb := b.sel.code, modb := b.md.code, sat := sat.toNat } rfl rfl
    (by simp [VReg.Fits]) (by simp) (by simp [decodeVReg, VReg.head, VReg.oa, VReg.ob, VReg.oc, VReg.oaBad, VReg.obBad, VReg.ocBad, -Fin.ofNat_eq_cast]) (by simp [decodeVReg, VReg.head, VReg.oa, VReg.ob, VReg.oc, VReg.oaBad, VReg.obBad, VReg.ocBad])

theorem vmulh (h : VHead) (a : Opd) (b : Opd) : Statement (.vmulh h a b) :=
  reads_vreg { op := 0x04, et := h.et.code, vd := h.d.reg.val, wbs := h.d.wbs.toNat, le := h.d.le.toNat, xn := h.d.xn.val, nm := h.nm.toNat, opa := a.sel.code, moda := a.md.code, opb := b.sel.code, modb := b.md.code } rfl rfl
    (by simp [VReg.Fits]) (by simp) (by simp [decodeVReg, VReg.head, VReg.oa, VReg.ob, VReg.oc, VReg.oaBad, VReg.obBad, VReg.ocBad, -Fin.ofNat_eq_cast]) (by simp [decodeVReg, VReg.head, VReg.oa, VReg.ob, VReg.oc, VReg.oaBad, VReg.obBad, VReg.ocBad])

theorem vmad (h : VHead) (a : Opd) (b : Opd) (c : Opd) (sat : Bool) : Statement (.vmad h a b c sat) :=
  reads_vreg { op := 0x05, et := h.et.code, vd := h.d.reg.val, wbs := h.d.wbs.toNat, le := h.d.le.toNat, xn := h.d.xn.val, nm := h.nm.toNat, opa := a.sel.code, moda := a.md.code, opb := b.sel.code, modb := b.md.code, opc := c.sel.code, modc := c.md.code, sat := sat.toNat } rfl rfl
    (by simp [VReg.Fits]) (by simp) (by simp [decodeVReg, VReg.head, VReg.oa, VReg.ob, VReg.oc, VReg.oaBad, VReg.obBad, VReg.ocBad, -Fin.ofNat_eq_cast]) (by simp [decodeVReg, VReg.head, VReg.oa, VReg.ob, VReg.oc, VReg.oaBad, VReg.obBad, VReg.ocBad])

theorem vneg (h : VHead) (a : Opd) (sat : Bool) : Statement (.vneg h a sat) :=
  reads_vreg { op := 0x06, et := h.et.code, vd := h.d.reg.val, wbs := h.d.wbs.toNat, le := h.d.le.toNat, xn := h.d.xn.val, nm := h.nm.toNat, opa := a.sel.code, moda := a.md.code, sat := sat.toNat } rfl rfl
    (by simp [VReg.Fits]) (by simp) (by simp [decodeVReg, VReg.head, VReg.oa, VReg.ob, VReg.oc, VReg.oaBad, VReg.obBad, VReg.ocBad, -Fin.ofNat_eq_cast]) (by simp [decodeVReg, VReg.head, VReg.oa, VReg.ob, VReg.oc, VReg.oaBad, VReg.obBad, VReg.ocBad])

theorem vabs (h : VHead) (a : Opd) (sat : Bool) : Statement (.vabs h a sat) :=
  reads_vreg { op := 0x07, et := h.et.code, vd := h.d.reg.val, wbs := h.d.wbs.toNat, le := h.d.le.toNat, xn := h.d.xn.val, nm := h.nm.toNat, opa := a.sel.code, moda := a.md.code, sat := sat.toNat } rfl rfl
    (by simp [VReg.Fits]) (by simp) (by simp [decodeVReg, VReg.head, VReg.oa, VReg.ob, VReg.oc, VReg.oaBad, VReg.obBad, VReg.ocBad, -Fin.ofNat_eq_cast]) (by simp [decodeVReg, VReg.head, VReg.oa, VReg.ob, VReg.oc, VReg.oaBad, VReg.obBad, VReg.ocBad])

theorem vmin (h : VHead) (a : Opd) (b : Opd) : Statement (.vmin h a b) :=
  reads_vreg { op := 0x08, et := h.et.code, vd := h.d.reg.val, wbs := h.d.wbs.toNat, le := h.d.le.toNat, xn := h.d.xn.val, nm := h.nm.toNat, opa := a.sel.code, moda := a.md.code, opb := b.sel.code, modb := b.md.code } rfl rfl
    (by simp [VReg.Fits]) (by simp) (by simp [decodeVReg, VReg.head, VReg.oa, VReg.ob, VReg.oc, VReg.oaBad, VReg.obBad, VReg.ocBad, -Fin.ofNat_eq_cast]) (by simp [decodeVReg, VReg.head, VReg.oa, VReg.ob, VReg.oc, VReg.oaBad, VReg.obBad, VReg.ocBad])

theorem vmax (h : VHead) (a : Opd) (b : Opd) : Statement (.vmax h a b) :=
  reads_vreg { op := 0x09, et := h.et.code, vd := h.d.reg.val, wbs := h.d.wbs.toNat, le := h.d.le.toNat, xn := h.d.xn.val, nm := h.nm.toNat, opa := a.sel.code, moda := a.md.code, opb := b.sel.code, modb := b.md.code } rfl rfl
    (by simp [VReg.Fits]) (by simp) (by simp [decodeVReg, VReg.head, VReg.oa, VReg.ob, VReg.oc, VReg.oaBad, VReg.obBad, VReg.ocBad, -Fin.ofNat_eq_cast]) (by simp [decodeVReg, VReg.head, VReg.oa, VReg.ob, VReg.oc, VReg.oaBad, VReg.obBad, VReg.ocBad])

theorem vavg (h : VHead) (a : Opd) (b : Opd) (fl : Bool) : Statement (.vavg h a b fl) :=
  reads_vreg { op := 0x0A, et := h.et.code, vd := h.d.reg.val, wbs := h.d.wbs.toNat, le := h.d.le.toNat, xn := h.d.xn.val, nm := h.nm.toNat, opa := a.sel.code, moda := a.md.code, opb := b.sel.code, modb := b.md.code, sub := fl.toNat } rfl rfl
    (by simp [VReg.Fits]) (by simp) (by simp [decodeVReg, VReg.head, VReg.oa, VReg.ob, VReg.oc, VReg.oaBad, VReg.obBad, VReg.ocBad, -Fin.ofNat_eq_cast]) (by simp [decodeVReg, VReg.head, VReg.oa, VReg.ob, VReg.oc, VReg.oaBad, VReg.obBad, VReg.ocBad])

theorem vsad (h : VHead) (a : Opd) (b : Opd) (c : Opd) (sat : Bool) : Statement (.vsad h a b c sat) :=
  reads_vreg { op := 0x0B, et := h.et.code, vd := h.d.reg.val, wbs := h.d.wbs.toNat, le := h.d.le.toNat, xn := h.d.xn.val, nm := h.nm.toNat, opa := a.sel.code, moda := a.md.code, opb := b.sel.code, modb := b.md.code, opc := c.sel.code, modc := c.md.code, sat := sat.toNat } rfl rfl
    (by simp [VReg.Fits]) (by simp) (by simp [decodeVReg, VReg.head, VReg.oa, VReg.ob, VReg.oc, VReg.oaBad, VReg.obBad, VReg.ocBad, -Fin.ofNat_eq_cast]) (by simp [decodeVReg, VReg.head, VReg.oa, VReg.ob, VReg.oc, VReg.oaBad, VReg.obBad, VReg.ocBad])

theorem vdot (h : VHead) (a : Opd) (b : Opd) (c : Opd) (sat : Bool) : Statement (.vdot h a b c sat) :=
  reads_vreg { op := 0x0C, et := h.et.code, vd := h.d.reg.val, wbs := h.d.wbs.toNat, le := h.d.le.toNat, xn := h.d.xn.val, nm := h.nm.toNat, opa := a.sel.code, moda := a.md.code, opb := b.sel.code, modb := b.md.code, opc := c.sel.code, modc := c.md.code, sat := sat.toNat } rfl rfl
    (by simp [VReg.Fits]) (by simp) (by simp [decodeVReg, VReg.head, VReg.oa, VReg.ob, VReg.oc, VReg.oaBad, VReg.obBad, VReg.ocBad, -Fin.ofNat_eq_cast]) (by simp [decodeVReg, VReg.head, VReg.oa, VReg.ob, VReg.oc, VReg.oaBad, VReg.obBad, VReg.ocBad])

theorem vshl (h : VHead) (a : Opd) (b : Opd) (sat : Bool) : Statement (.vshl h a b sat) :=
  reads_vreg { op := 0x0D, et := h.et.code, vd := h.d.reg.val, wbs := h.d.wbs.toNat, le := h.d.le.toNat, xn := h.d.xn.val, nm := h.nm.toNat, opa := a.sel.code, moda := a.md.code, opb := b.sel.code, modb := b.md.code, sat := sat.toNat } rfl rfl
    (by simp [VReg.Fits]) (by simp) (by simp [decodeVReg, VReg.head, VReg.oa, VReg.ob, VReg.oc, VReg.oaBad, VReg.obBad, VReg.ocBad, -Fin.ofNat_eq_cast]) (by simp [decodeVReg, VReg.head, VReg.oa, VReg.ob, VReg.oc, VReg.oaBad, VReg.obBad, VReg.ocBad])

theorem vshr (h : VHead) (a : Opd) (b : Opd) : Statement (.vshr h a b) :=
  reads_vreg { op := 0x0E, et := h.et.code, vd := h.d.reg.val, wbs := h.d.wbs.toNat, le := h.d.le.toNat, xn := h.d.xn.val, nm := h.nm.toNat, opa := a.sel.code, moda := a.md.code, opb := b.sel.code, modb := b.md.code } rfl rfl
    (by simp [VReg.Fits]) (by simp) (by simp [decodeVReg, VReg.head, VReg.oa, VReg.ob, VReg.oc, VReg.oaBad, VReg.obBad, VReg.ocBad, -Fin.ofNat_eq_cast]) (by simp [decodeVReg, VReg.head, VReg.oa, VReg.ob, VReg.oc, VReg.oaBad, VReg.obBad, VReg.ocBad])

theorem vsra (h : VHead) (a : Opd) (b : Opd) : Statement (.vsra h a b) :=
  reads_vreg { op := 0x0F, et := h.et.code, vd := h.d.reg.val, wbs := h.d.wbs.toNat, le := h.d.le.toNat, xn := h.d.xn.val, nm := h.nm.toNat, opa := a.sel.code, moda := a.md.code, opb := b.sel.code, modb := b.md.code } rfl rfl
    (by simp [VReg.Fits]) (by simp) (by simp [decodeVReg, VReg.head, VReg.oa, VReg.ob, VReg.oc, VReg.oaBad, VReg.obBad, VReg.ocBad, -Fin.ofNat_eq_cast]) (by simp [decodeVReg, VReg.head, VReg.oa, VReg.ob, VReg.oc, VReg.oaBad, VReg.obBad, VReg.ocBad])

theorem vrot (h : VHead) (a : Opd) (b : Opd) : Statement (.vrot h a b) :=
  reads_vreg { op := 0x10, et := h.et.code, vd := h.d.reg.val, wbs := h.d.wbs.toNat, le := h.d.le.toNat, xn := h.d.xn.val, nm := h.nm.toNat, opa := a.sel.code, moda := a.md.code, opb := b.sel.code, modb := b.md.code } rfl rfl
    (by simp [VReg.Fits]) (by simp) (by simp [decodeVReg, VReg.head, VReg.oa, VReg.ob, VReg.oc, VReg.oaBad, VReg.obBad, VReg.ocBad, -Fin.ofNat_eq_cast]) (by simp [decodeVReg, VReg.head, VReg.oa, VReg.ob, VReg.oc, VReg.oaBad, VReg.obBad, VReg.ocBad])

theorem vand (h : VHead) (a : Opd) (b : Opd) : Statement (.vand h a b) :=
  reads_vreg { op := 0x11, et := h.et.code, vd := h.d.reg.val, wbs := h.d.wbs.toNat, le := h.d.le.toNat, xn := h.d.xn.val, nm := h.nm.toNat, opa := a.sel.code, moda := a.md.code, opb := b.sel.code, modb := b.md.code } rfl rfl
    (by simp [VReg.Fits]) (by simp) (by simp [decodeVReg, VReg.head, VReg.oa, VReg.ob, VReg.oc, VReg.oaBad, VReg.obBad, VReg.ocBad, -Fin.ofNat_eq_cast]) (by simp [decodeVReg, VReg.head, VReg.oa, VReg.ob, VReg.oc, VReg.oaBad, VReg.obBad, VReg.ocBad])

theorem vor (h : VHead) (a : Opd) (b : Opd) : Statement (.vor h a b) :=
  reads_vreg { op := 0x12, et := h.et.code, vd := h.d.reg.val, wbs := h.d.wbs.toNat, le := h.d.le.toNat, xn := h.d.xn.val, nm := h.nm.toNat, opa := a.sel.code, moda := a.md.code, opb := b.sel.code, modb := b.md.code } rfl rfl
    (by simp [VReg.Fits]) (by simp) (by simp [decodeVReg, VReg.head, VReg.oa, VReg.ob, VReg.oc, VReg.oaBad, VReg.obBad, VReg.ocBad, -Fin.ofNat_eq_cast]) (by simp [decodeVReg, VReg.head, VReg.oa, VReg.ob, VReg.oc, VReg.oaBad, VReg.obBad, VReg.ocBad])

theorem vxor (h : VHead) (a : Opd) (b : Opd) : Statement (.vxor h a b) :=
  reads_vreg { op := 0x13, et := h.et.code, vd := h.d.reg.val, wbs := h.d.wbs.toNat, le := h.d.le.toNat, xn := h.d.xn.val, nm := h.nm.toNat, opa := a.sel.code, moda := a.md.code, opb := b.sel.code, modb := b.md.code } rfl rfl
    (by simp [VReg.Fits]) (by simp) (by simp [decodeVReg, VReg.head, VReg.oa, VReg.ob, VReg.oc, VReg.oaBad, VReg.obBad, VReg.ocBad, -Fin.ofNat_eq_cast]) (by simp [decodeVReg, VReg.head, VReg.oa, VReg.ob, VReg.oc, VReg.oaBad, VReg.obBad, VReg.ocBad])

theorem vandn (h : VHead) (a : Opd) (b : Opd) : Statement (.vandn h a b) :=
  reads_vreg { op := 0x14, et := h.et.code, vd := h.d.reg.val, wbs := h.d.wbs.toNat, le := h.d.le.toNat, xn := h.d.xn.val, nm := h.nm.toNat, opa := a.sel.code, moda := a.md.code, opb := b.sel.code, modb := b.md.code } rfl rfl
    (by simp [VReg.Fits]) (by simp) (by simp [decodeVReg, VReg.head, VReg.oa, VReg.ob, VReg.oc, VReg.oaBad, VReg.obBad, VReg.ocBad, -Fin.ofNat_eq_cast]) (by simp [decodeVReg, VReg.head, VReg.oa, VReg.ob, VReg.oc, VReg.oaBad, VReg.obBad, VReg.ocBad])

theorem vnot (h : VHead) (a : Opd) : Statement (.vnot h a) :=
  reads_vreg { op := 0x15, et := h.et.code, vd := h.d.reg.val, wbs := h.d.wbs.toNat, le := h.d.le.toNat, xn := h.d.xn.val, nm := h.nm.toNat, opa := a.sel.code, moda := a.md.code } rfl rfl
    (by simp [VReg.Fits]) (by simp) (by simp [decodeVReg, VReg.head, VReg.oa, VReg.ob, VReg.oc, VReg.oaBad, VReg.obBad, VReg.ocBad, -Fin.ofNat_eq_cast]) (by simp [decodeVReg, VReg.head, VReg.oa, VReg.ob, VReg.oc, VReg.oaBad, VReg.obBad, VReg.ocBad])

theorem vclz (h : VHead) (a : Opd) : Statement (.vclz h a) :=
  reads_vreg { op := 0x16, et := h.et.code, vd := h.d.reg.val, wbs := h.d.wbs.toNat, le := h.d.le.toNat, xn := h.d.xn.val, nm := h.nm.toNat, opa := a.sel.code, moda := a.md.code } rfl rfl
    (by simp [VReg.Fits]) (by simp) (by simp [decodeVReg, VReg.head, VReg.oa, VReg.ob, VReg.oc, VReg.oaBad, VReg.obBad, VReg.ocBad, -Fin.ofNat_eq_cast]) (by simp [decodeVReg, VReg.head, VReg.oa, VReg.ob, VReg.oc, VReg.oaBad, VReg.obBad, VReg.ocBad])

theorem vpopc (h : VHead) (a : Opd) : Statement (.vpopc h a) :=
  reads_vreg { op := 0x17, et := h.et.code, vd := h.d.reg.val, wbs := h.d.wbs.toNat, le := h.d.le.toNat, xn := h.d.xn.val, nm := h.nm.toNat, opa := a.sel.code, moda := a.md.code } rfl rfl
    (by simp [VReg.Fits]) (by simp) (by simp [decodeVReg, VReg.head, VReg.oa, VReg.ob, VReg.oc, VReg.oaBad, VReg.obBad, VReg.ocBad, -Fin.ofNat_eq_cast]) (by simp [decodeVReg, VReg.head, VReg.oa, VReg.ob, VReg.oc, VReg.oaBad, VReg.obBad, VReg.ocBad])

theorem vbrev (h : VHead) (a : Opd) : Statement (.vbrev h a) :=
  reads_vreg { op := 0x18, et := h.et.code, vd := h.d.reg.val, wbs := h.d.wbs.toNat, le := h.d.le.toNat, xn := h.d.xn.val, nm := h.nm.toNat, opa := a.sel.code, moda := a.md.code } rfl rfl
    (by simp [VReg.Fits]) (by simp) (by simp [decodeVReg, VReg.head, VReg.oa, VReg.ob, VReg.oc, VReg.oaBad, VReg.obBad, VReg.ocBad, -Fin.ofNat_eq_cast]) (by simp [decodeVReg, VReg.head, VReg.oa, VReg.ob, VReg.oc, VReg.oaBad, VReg.obBad, VReg.ocBad])

theorem vbfx (h : VHead) (a : Opd) (b : Opd) : Statement (.vbfx h a b) :=
  reads_vreg { op := 0x19, et := h.et.code, vd := h.d.reg.val, wbs := h.d.wbs.toNat, le := h.d.le.toNat, xn := h.d.xn.val, nm := h.nm.toNat, opa := a.sel.code, moda := a.md.code, opb := b.sel.code, modb := b.md.code } rfl rfl
    (by simp [VReg.Fits]) (by simp) (by simp [decodeVReg, VReg.head, VReg.oa, VReg.ob, VReg.oc, VReg.oaBad, VReg.obBad, VReg.ocBad, -Fin.ofNat_eq_cast]) (by simp [decodeVReg, VReg.head, VReg.oa, VReg.ob, VReg.oc, VReg.oaBad, VReg.obBad, VReg.ocBad])

theorem vbfi (h : VHead) (a : Opd) (b : Opd) (c : Opd) : Statement (.vbfi h a b c) :=
  reads_vreg { op := 0x1A, et := h.et.code, vd := h.d.reg.val, wbs := h.d.wbs.toNat, le := h.d.le.toNat, xn := h.d.xn.val, nm := h.nm.toNat, opa := a.sel.code, moda := a.md.code, opb := b.sel.code, modb := b.md.code, opc := c.sel.code, modc := c.md.code } rfl rfl
    (by simp [VReg.Fits]) (by simp) (by simp [decodeVReg, VReg.head, VReg.oa, VReg.ob, VReg.oc, VReg.oaBad, VReg.obBad, VReg.ocBad, -Fin.ofNat_eq_cast]) (by simp [decodeVReg, VReg.head, VReg.oa, VReg.ob, VReg.oc, VReg.oaBad, VReg.obBad, VReg.ocBad])

theorem vcmp (h : VHead) (a : Opd) (b : Opd) (cc : Cmp) : Statement (.vcmp h a b cc) :=
  reads_vreg { op := 0x1B, et := h.et.code, vd := h.d.reg.val, wbs := h.d.wbs.toNat, le := h.d.le.toNat, xn := h.d.xn.val, nm := h.nm.toNat, opa := a.sel.code, moda := a.md.code, opb := b.sel.code, modb := b.md.code, sub := cc.code } rfl rfl
    (by simp [VReg.Fits]) (by simp) (by simp [decodeVReg, VReg.head, VReg.oa, VReg.ob, VReg.oc, VReg.oaBad, VReg.obBad, VReg.ocBad, -Fin.ofNat_eq_cast]) (by simp [decodeVReg, VReg.head, VReg.oa, VReg.ob, VReg.oc, VReg.oaBad, VReg.obBad, VReg.ocBad])

theorem vsel (h : VHead) (a : Opd) (b : Opd) (c : Opd) : Statement (.vsel h a b c) :=
  reads_vreg { op := 0x1C, et := h.et.code, vd := h.d.reg.val, wbs := h.d.wbs.toNat, le := h.d.le.toNat, xn := h.d.xn.val, nm := h.nm.toNat, opa := a.sel.code, moda := a.md.code, opb := b.sel.code, modb := b.md.code, opc := c.sel.code, modc := c.md.code } rfl rfl
    (by simp [VReg.Fits]) (by simp) (by simp [decodeVReg, VReg.head, VReg.oa, VReg.ob, VReg.oc, VReg.oaBad, VReg.obBad, VReg.ocBad, -Fin.ofNat_eq_cast]) (by simp [decodeVReg, VReg.head, VReg.oa, VReg.ob, VReg.oc, VReg.oaBad, VReg.obBad, VReg.ocBad])

theorem vmov (h : VHead) (a : Opd) : Statement (.vmov h a) :=
  reads_vreg { op := 0x1D, et := h.et.code, vd := h.d.reg.val, wbs := h.d.wbs.toNat, le := h.d.le.toNat, xn := h.d.xn.val, nm := h.nm.toNat, opa := a.sel.code, moda := a.md.code } rfl rfl
    (by simp [VReg.Fits]) (by simp) (by simp [decodeVReg, VReg.head, VReg.oa, VReg.ob, VReg.oc, VReg.oaBad, VReg.obBad, VReg.ocBad, -Fin.ofNat_eq_cast]) (by simp [decodeVReg, VReg.head, VReg.oa, VReg.ob, VReg.oc, VReg.oaBad, VReg.obBad, VReg.ocBad])

theorem vprm (h : VHead) (a : Opd) (b : Opd) (c : Opd) : Statement (.vprm h a b c) :=
  reads_vreg { op := 0x1E, et := h.et.code, vd := h.d.reg.val, wbs := h.d.wbs.toNat, le := h.d.le.toNat, xn := h.d.xn.val, nm := h.nm.toNat, opa := a.sel.code, moda := a.md.code, opb := b.sel.code, modb := b.md.code, opc := c.sel.code, modc := c.md.code } rfl rfl
    (by simp [VReg.Fits]) (by simp) (by simp [decodeVReg, VReg.head, VReg.oa, VReg.ob, VReg.oc, VReg.oaBad, VReg.obBad, VReg.ocBad, -Fin.ofNat_eq_cast]) (by simp [decodeVReg, VReg.head, VReg.oa, VReg.ob, VReg.oc, VReg.oaBad, VReg.obBad, VReg.ocBad])

theorem vlane (h : VHead) (m : LaneMode) : Statement (.vlane h m) :=
  reads_vreg { op := 0x1F, et := h.et.code, vd := h.d.reg.val, wbs := h.d.wbs.toNat, le := h.d.le.toNat, xn := h.d.xn.val, nm := h.nm.toNat, sub := m.code } rfl rfl
    (by simp [VReg.Fits]) (by simp) (by simp [decodeVReg, VReg.head, VReg.oa, VReg.ob, VReg.oc, VReg.oaBad, VReg.obBad, VReg.ocBad, -Fin.ofNat_eq_cast]) (by simp [decodeVReg, VReg.head, VReg.oa, VReg.ob, VReg.oc, VReg.oaBad, VReg.obBad, VReg.ocBad])

theorem vaddi (h : VImm) (a : Sel) (imm : BitVec 32) : Statement (.vaddi h a imm) :=
  reads_vimm { op := 0x20, et := h.et.code, vd := h.d.reg.val, wbs := h.d.wbs.toNat, le := h.d.le.toNat, xn := h.d.xn.val, opa := a.code, imm := imm.toNat } rfl rfl
    (by simp [VImmRaw.Fits]) (by simp) (by simp [decodeVImm, VImmRaw.head, VImmRaw.sel, VImmRaw.selBad, -Fin.ofNat_eq_cast]) (by simp [decodeVImm, VImmRaw.head, VImmRaw.sel, VImmRaw.selBad])

theorem vandi (h : VImm) (a : Sel) (imm : BitVec 32) : Statement (.vandi h a imm) :=
  reads_vimm { op := 0x21, et := h.et.code, vd := h.d.reg.val, wbs := h.d.wbs.toNat, le := h.d.le.toNat, xn := h.d.xn.val, opa := a.code, imm := imm.toNat } rfl rfl
    (by simp [VImmRaw.Fits]) (by simp) (by simp [decodeVImm, VImmRaw.head, VImmRaw.sel, VImmRaw.selBad, -Fin.ofNat_eq_cast]) (by simp [decodeVImm, VImmRaw.head, VImmRaw.sel, VImmRaw.selBad])

theorem vori (h : VImm) (a : Sel) (imm : BitVec 32) : Statement (.vori h a imm) :=
  reads_vimm { op := 0x22, et := h.et.code, vd := h.d.reg.val, wbs := h.d.wbs.toNat, le := h.d.le.toNat, xn := h.d.xn.val, opa := a.code, imm := imm.toNat } rfl rfl
    (by simp [VImmRaw.Fits]) (by simp) (by simp [decodeVImm, VImmRaw.head, VImmRaw.sel, VImmRaw.selBad, -Fin.ofNat_eq_cast]) (by simp [decodeVImm, VImmRaw.head, VImmRaw.sel, VImmRaw.selBad])

theorem vxori (h : VImm) (a : Sel) (imm : BitVec 32) : Statement (.vxori h a imm) :=
  reads_vimm { op := 0x23, et := h.et.code, vd := h.d.reg.val, wbs := h.d.wbs.toNat, le := h.d.le.toNat, xn := h.d.xn.val, opa := a.code, imm := imm.toNat } rfl rfl
    (by simp [VImmRaw.Fits]) (by simp) (by simp [decodeVImm, VImmRaw.head, VImmRaw.sel, VImmRaw.selBad, -Fin.ofNat_eq_cast]) (by simp [decodeVImm, VImmRaw.head, VImmRaw.sel, VImmRaw.selBad])

theorem vimm (h : VImm) (imm : BitVec 32) : Statement (.vimm h imm) :=
  reads_vimm { op := 0x24, et := h.et.code, vd := h.d.reg.val, wbs := h.d.wbs.toNat, le := h.d.le.toNat, xn := h.d.xn.val, imm := imm.toNat } rfl rfl
    (by simp [VImmRaw.Fits]) (by simp) (by simp [decodeVImm, VImmRaw.head, VImmRaw.sel, VImmRaw.selBad, -Fin.ofNat_eq_cast]) (by simp [decodeVImm, VImmRaw.head, VImmRaw.sel, VImmRaw.selBad])

theorem vfadd (h : VHead) (a : Opd) (b : Opd) (sat : Bool) (r : Rnd) : Statement (.vfadd h a b sat r) :=
  reads_vreg { op := 0x30, et := h.et.code, vd := h.d.reg.val, wbs := h.d.wbs.toNat, le := h.d.le.toNat, xn := h.d.xn.val, nm := h.nm.toNat, opa := a.sel.code, moda := a.md.code, opb := b.sel.code, modb := b.md.code, sat := sat.toNat, rnd := r.code } rfl rfl
    (by simp [VReg.Fits]) (by simp) (by simp [decodeVReg, VReg.head, VReg.oa, VReg.ob, VReg.oc, VReg.oaBad, VReg.obBad, VReg.ocBad, -Fin.ofNat_eq_cast]) (by simp [decodeVReg, VReg.head, VReg.oa, VReg.ob, VReg.oc, VReg.oaBad, VReg.obBad, VReg.ocBad])

theorem vfsub (h : VHead) (a : Opd) (b : Opd) (sat : Bool) (r : Rnd) : Statement (.vfsub h a b sat r) :=
  reads_vreg { op := 0x31, et := h.et.code, vd := h.d.reg.val, wbs := h.d.wbs.toNat, le := h.d.le.toNat, xn := h.d.xn.val, nm := h.nm.toNat, opa := a.sel.code, moda := a.md.code, opb := b.sel.code, modb := b.md.code, sat := sat.toNat, rnd := r.code } rfl rfl
    (by simp [VReg.Fits]) (by simp) (by simp [decodeVReg, VReg.head, VReg.oa, VReg.ob, VReg.oc, VReg.oaBad, VReg.obBad, VReg.ocBad, -Fin.ofNat_eq_cast]) (by simp [decodeVReg, VReg.head, VReg.oa, VReg.ob, VReg.oc, VReg.oaBad, VReg.obBad, VReg.ocBad])

theorem vfmul (h : VHead) (a : Opd) (b : Opd) (sat : Bool) (r : Rnd) : Statement (.vfmul h a b sat r) :=
  reads_vreg { op := 0x32, et := h.et.code, vd := h.d.reg.val, wbs := h.d.wbs.toNat, le := h.d.le.toNat, xn := h.d.xn.val, nm := h.nm.toNat, opa := a.sel.code, moda := a.md.code, opb := b.sel.code, modb := b.md.code, sat := sat.toNat, rnd := r.code } rfl rfl
    (by simp [VReg.Fits]) (by simp) (by simp [decodeVReg, VReg.head, VReg.oa, VReg.ob, VReg.oc, VReg.oaBad, VReg.obBad, VReg.ocBad, -Fin.ofNat_eq_cast]) (by simp [decodeVReg, VReg.head, VReg.oa, VReg.ob, VReg.oc, VReg.oaBad, VReg.obBad, VReg.ocBad])

theorem vfma (h : VHead) (a : Opd) (b : Opd) (c : Opd) (sat : Bool) (r : Rnd) : Statement (.vfma h a b c sat r) :=
  reads_vreg { op := 0x33, et := h.et.code, vd := h.d.reg.val, wbs := h.d.wbs.toNat, le := h.d.le.toNat, xn := h.d.xn.val, nm := h.nm.toNat, opa := a.sel.code, moda := a.md.code, opb := b.sel.code, modb := b.md.code, opc := c.sel.code, modc := c.md.code, sat := sat.toNat, rnd := r.code } rfl rfl
    (by simp [VReg.Fits]) (by simp) (by simp [decodeVReg, VReg.head, VReg.oa, VReg.ob, VReg.oc, VReg.oaBad, VReg.obBad, VReg.ocBad, -Fin.ofNat_eq_cast]) (by simp [decodeVReg, VReg.head, VReg.oa, VReg.ob, VReg.oc, VReg.oaBad, VReg.obBad, VReg.ocBad])

theorem vfnma (h : VHead) (a : Opd) (b : Opd) (c : Opd) (sat : Bool) (r : Rnd) : Statement (.vfnma h a b c sat r) :=
  reads_vreg { op := 0x34, et := h.et.code, vd := h.d.reg.val, wbs := h.d.wbs.toNat, le := h.d.le.toNat, xn := h.d.xn.val, nm := h.nm.toNat, opa := a.sel.code, moda := a.md.code, opb := b.sel.code, modb := b.md.code, opc := c.sel.code, modc := c.md.code, sat := sat.toNat, rnd := r.code } rfl rfl
    (by simp [VReg.Fits]) (by simp) (by simp [decodeVReg, VReg.head, VReg.oa, VReg.ob, VReg.oc, VReg.oaBad, VReg.obBad, VReg.ocBad, -Fin.ofNat_eq_cast]) (by simp [decodeVReg, VReg.head, VReg.oa, VReg.ob, VReg.oc, VReg.oaBad, VReg.obBad, VReg.ocBad])

theorem vfmin (h : VHead) (a : Opd) (b : Opd) : Statement (.vfmin h a b) :=
  reads_vreg { op := 0x35, et := h.et.code, vd := h.d.reg.val, wbs := h.d.wbs.toNat, le := h.d.le.toNat, xn := h.d.xn.val, nm := h.nm.toNat, opa := a.sel.code, moda := a.md.code, opb := b.sel.code, modb := b.md.code } rfl rfl
    (by simp [VReg.Fits]) (by simp) (by simp [decodeVReg, VReg.head, VReg.oa, VReg.ob, VReg.oc, VReg.oaBad, VReg.obBad, VReg.ocBad, -Fin.ofNat_eq_cast]) (by simp [decodeVReg, VReg.head, VReg.oa, VReg.ob, VReg.oc, VReg.oaBad, VReg.obBad, VReg.ocBad])

theorem vfmax (h : VHead) (a : Opd) (b : Opd) : Statement (.vfmax h a b) :=
  reads_vreg { op := 0x36, et := h.et.code, vd := h.d.reg.val, wbs := h.d.wbs.toNat, le := h.d.le.toNat, xn := h.d.xn.val, nm := h.nm.toNat, opa := a.sel.code, moda := a.md.code, opb := b.sel.code, modb := b.md.code } rfl rfl
    (by simp [VReg.Fits]) (by simp) (by simp [decodeVReg, VReg.head, VReg.oa, VReg.ob, VReg.oc, VReg.oaBad, VReg.obBad, VReg.ocBad, -Fin.ofNat_eq_cast]) (by simp [decodeVReg, VReg.head, VReg.oa, VReg.ob, VReg.oc, VReg.oaBad, VReg.obBad, VReg.ocBad])

theorem vfcmp (h : VHead) (a : Opd) (b : Opd) (cc : FCmp) : Statement (.vfcmp h a b cc) :=
  reads_vreg { op := 0x37, et := h.et.code, vd := h.d.reg.val, wbs := h.d.wbs.toNat, le := h.d.le.toNat, xn := h.d.xn.val, nm := h.nm.toNat, opa := a.sel.code, moda := a.md.code, opb := b.sel.code, modb := b.md.code, sub := cc.code } rfl rfl
    (by simp [VReg.Fits]) (by simp) (by simp [decodeVReg, VReg.head, VReg.oa, VReg.ob, VReg.oc, VReg.oaBad, VReg.obBad, VReg.ocBad, -Fin.ofNat_eq_cast]) (by simp [decodeVReg, VReg.head, VReg.oa, VReg.ob, VReg.oc, VReg.oaBad, VReg.obBad, VReg.ocBad])

theorem vfclass (h : VHead) (a : Opd) : Statement (.vfclass h a) :=
  reads_vreg { op := 0x38, et := h.et.code, vd := h.d.reg.val, wbs := h.d.wbs.toNat, le := h.d.le.toNat, xn := h.d.xn.val, nm := h.nm.toNat, opa := a.sel.code, moda := a.md.code } rfl rfl
    (by simp [VReg.Fits]) (by simp) (by simp [decodeVReg, VReg.head, VReg.oa, VReg.ob, VReg.oc, VReg.oaBad, VReg.obBad, VReg.ocBad, -Fin.ofNat_eq_cast]) (by simp [decodeVReg, VReg.head, VReg.oa, VReg.ob, VReg.oc, VReg.oaBad, VReg.obBad, VReg.ocBad])

theorem vfrnd (h : VHead) (a : Opd) (r : Rnd) : Statement (.vfrnd h a r) :=
  reads_vreg { op := 0x39, et := h.et.code, vd := h.d.reg.val, wbs := h.d.wbs.toNat, le := h.d.le.toNat, xn := h.d.xn.val, nm := h.nm.toNat, opa := a.sel.code, moda := a.md.code, rnd := r.code } rfl rfl
    (by simp [VReg.Fits]) (by simp) (by simp [decodeVReg, VReg.head, VReg.oa, VReg.ob, VReg.oc, VReg.oaBad, VReg.obBad, VReg.ocBad, -Fin.ofNat_eq_cast]) (by simp [decodeVReg, VReg.head, VReg.oa, VReg.ob, VReg.oc, VReg.oaBad, VReg.obBad, VReg.ocBad])

theorem vfscl (h : VHead) (a : Opd) (b : Opd) (sat : Bool) (r : Rnd) : Statement (.vfscl h a b sat r) :=
  reads_vreg { op := 0x3A, et := h.et.code, vd := h.d.reg.val, wbs := h.d.wbs.toNat, le := h.d.le.toNat, xn := h.d.xn.val, nm := h.nm.toNat, opa := a.sel.code, moda := a.md.code, opb := b.sel.code, modb := b.md.code, sat := sat.toNat, rnd := r.code } rfl rfl
    (by simp [VReg.Fits]) (by simp) (by simp [decodeVReg, VReg.head, VReg.oa, VReg.ob, VReg.oc, VReg.oaBad, VReg.obBad, VReg.ocBad, -Fin.ofNat_eq_cast]) (by simp [decodeVReg, VReg.head, VReg.oa, VReg.ob, VReg.oc, VReg.oaBad, VReg.obBad, VReg.ocBad])

theorem vfdot2 (h : VHead) (a : Opd) (b : Opd) (c : Opd) (sat : Bool) (r : Rnd) : Statement (.vfdot2 h a b c sat r) :=
  reads_vreg { op := 0x3B, et := h.et.code, vd := h.d.reg.val, wbs := h.d.wbs.toNat, le := h.d.le.toNat, xn := h.d.xn.val, nm := h.nm.toNat, opa := a.sel.code, moda := a.md.code, opb := b.sel.code, modb := b.md.code, opc := c.sel.code, modc := c.md.code, sat := sat.toNat, rnd := r.code } rfl rfl
    (by simp [VReg.Fits]) (by simp) (by simp [decodeVReg, VReg.head, VReg.oa, VReg.ob, VReg.oc, VReg.oaBad, VReg.obBad, VReg.ocBad, -Fin.ofNat_eq_cast]) (by simp [decodeVReg, VReg.head, VReg.oa, VReg.ob, VReg.oc, VReg.oaBad, VReg.obBad, VReg.ocBad])

theorem vfkey (h : VHead) (a : Opd) : Statement (.vfkey h a) :=
  reads_vreg { op := 0x3C, et := h.et.code, vd := h.d.reg.val, wbs := h.d.wbs.toNat, le := h.d.le.toNat, xn := h.d.xn.val, nm := h.nm.toNat, opa := a.sel.code, moda := a.md.code } rfl rfl
    (by simp [VReg.Fits]) (by simp) (by simp [decodeVReg, VReg.head, VReg.oa, VReg.ob, VReg.oc, VReg.oaBad, VReg.obBad, VReg.ocBad, -Fin.ofNat_eq_cast]) (by simp [decodeVReg, VReg.head, VReg.oa, VReg.ob, VReg.oc, VReg.oaBad, VReg.obBad, VReg.ocBad])

theorem vcvt (h : VHead) (a : Opd) (src : Etype) (sat : Bool) (r : Rnd) : Statement (.vcvt h a src sat r) :=
  reads_vreg { op := 0x40, et := h.et.code, vd := h.d.reg.val, wbs := h.d.wbs.toNat, le := h.d.le.toNat, xn := h.d.xn.val, nm := h.nm.toNat, opa := a.sel.code, moda := a.md.code, sub := src.code, sat := sat.toNat, rnd := r.code } rfl rfl
    (by simp [VReg.Fits]) (by simp) (by simp [decodeVReg, VReg.head, VReg.oa, VReg.ob, VReg.oc, VReg.oaBad, VReg.obBad, VReg.ocBad, -Fin.ofNat_eq_cast]) (by simp [decodeVReg, VReg.head, VReg.oa, VReg.ob, VReg.oc, VReg.oaBad, VReg.obBad, VReg.ocBad])

theorem vpack (h : VHead) (a : Opd) (b : Opd) (src : Etype) (sat : Bool) (r : Rnd) : Statement (.vpack h a b src sat r) :=
  reads_vreg { op := 0x41, et := h.et.code, vd := h.d.reg.val, wbs := h.d.wbs.toNat, le := h.d.le.toNat, xn := h.d.xn.val, nm := h.nm.toNat, opa := a.sel.code, moda := a.md.code, opb := b.sel.code, modb := b.md.code, sub := src.code, sat := sat.toNat, rnd := r.code } rfl rfl
    (by simp [VReg.Fits]) (by simp) (by simp [decodeVReg, VReg.head, VReg.oa, VReg.ob, VReg.oc, VReg.oaBad, VReg.obBad, VReg.ocBad, -Fin.ofNat_eq_cast]) (by simp [decodeVReg, VReg.head, VReg.oa, VReg.ob, VReg.oc, VReg.oaBad, VReg.obBad, VReg.ocBad])

theorem vunpk (h : VHead) (a : Opd) (src : Etype) : Statement (.vunpk h a src) :=
  reads_vreg { op := 0x42, et := h.et.code, vd := h.d.reg.val, wbs := h.d.wbs.toNat, le := h.d.le.toNat, xn := h.d.xn.val, nm := h.nm.toNat, opa := a.sel.code, moda := a.md.code, sub := src.code } rfl rfl
    (by simp [VReg.Fits]) (by simp) (by simp [decodeVReg, VReg.head, VReg.oa, VReg.ob, VReg.oc, VReg.oaBad, VReg.obBad, VReg.ocBad, -Fin.ofNat_eq_cast]) (by simp [decodeVReg, VReg.head, VReg.oa, VReg.ob, VReg.oc, VReg.oaBad, VReg.obBad, VReg.ocBad])

theorem vbexp (h : VHead) (a : Opd) : Statement (.vbexp h a) :=
  reads_vreg { op := 0x43, et := h.et.code, vd := h.d.reg.val, wbs := h.d.wbs.toNat, le := h.d.le.toNat, xn := h.d.xn.val, nm := h.nm.toNat, opa := a.sel.code, moda := a.md.code } rfl rfl
    (by simp [VReg.Fits]) (by simp) (by simp [decodeVReg, VReg.head, VReg.oa, VReg.ob, VReg.oc, VReg.oaBad, VReg.obBad, VReg.ocBad, -Fin.ofNat_eq_cast]) (by simp [decodeVReg, VReg.head, VReg.oa, VReg.ob, VReg.oc, VReg.oaBad, VReg.obBad, VReg.ocBad])

theorem vbq (h : VHead) (a : Opd) : Statement (.vbq h a) :=
  reads_vreg { op := 0x44, et := h.et.code, vd := h.d.reg.val, wbs := h.d.wbs.toNat, le := h.d.le.toNat, xn := h.d.xn.val, nm := h.nm.toNat, opa := a.sel.code, moda := a.md.code } rfl rfl
    (by simp [VReg.Fits]) (by simp) (by simp [decodeVReg, VReg.head, VReg.oa, VReg.ob, VReg.oc, VReg.oaBad, VReg.obBad, VReg.ocBad, -Fin.ofNat_eq_cast]) (by simp [decodeVReg, VReg.head, VReg.oa, VReg.ob, VReg.oc, VReg.oaBad, VReg.obBad, VReg.ocBad])

theorem vbdq (h : VHead) (a : Opd) (sat : Bool) (r : Rnd) : Statement (.vbdq h a sat r) :=
  reads_vreg { op := 0x45, et := h.et.code, vd := h.d.reg.val, wbs := h.d.wbs.toNat, le := h.d.le.toNat, xn := h.d.xn.val, nm := h.nm.toNat, opa := a.sel.code, moda := a.md.code, sat := sat.toNat, rnd := r.code } rfl rfl
    (by simp [VReg.Fits]) (by simp) (by simp [decodeVReg, VReg.head, VReg.oa, VReg.ob, VReg.oc, VReg.oaBad, VReg.obBad, VReg.ocBad, -Fin.ofNat_eq_cast]) (by simp [decodeVReg, VReg.head, VReg.oa, VReg.ob, VReg.oc, VReg.oaBad, VReg.obBad, VReg.ocBad])

theorem vrcp (h : VHead) (a : Opd) (sat : Bool) : Statement (.vrcp h a sat) :=
  reads_vreg { op := 0x50, et := h.et.code, vd := h.d.reg.val, wbs := h.d.wbs.toNat, le := h.d.le.toNat, xn := h.d.xn.val, nm := h.nm.toNat, opa := a.sel.code, moda := a.md.code, sat := sat.toNat } rfl rfl
    (by simp [VReg.Fits]) (by simp) (by simp [decodeVReg, VReg.head, VReg.oa, VReg.ob, VReg.oc, VReg.oaBad, VReg.obBad, VReg.ocBad, -Fin.ofNat_eq_cast]) (by simp [decodeVReg, VReg.head, VReg.oa, VReg.ob, VReg.oc, VReg.oaBad, VReg.obBad, VReg.ocBad])

theorem vrsq (h : VHead) (a : Opd) (sat : Bool) : Statement (.vrsq h a sat) :=
  reads_vreg { op := 0x51, et := h.et.code, vd := h.d.reg.val, wbs := h.d.wbs.toNat, le := h.d.le.toNat, xn := h.d.xn.val, nm := h.nm.toNat, opa := a.sel.code, moda := a.md.code, sat := sat.toNat } rfl rfl
    (by simp [VReg.Fits]) (by simp) (by simp [decodeVReg, VReg.head, VReg.oa, VReg.ob, VReg.oc, VReg.oaBad, VReg.obBad, VReg.ocBad, -Fin.ofNat_eq_cast]) (by simp [decodeVReg, VReg.head, VReg.oa, VReg.ob, VReg.oc, VReg.oaBad, VReg.obBad, VReg.ocBad])

theorem vsqrt (h : VHead) (a : Opd) (sat : Bool) : Statement (.vsqrt h a sat) :=
  reads_vreg { op := 0x52, et := h.et.code, vd := h.d.reg.val, wbs := h.d.wbs.toNat, le := h.d.le.toNat, xn := h.d.xn.val, nm := h.nm.toNat, opa := a.sel.code, moda := a.md.code, sat := sat.toNat } rfl rfl
    (by simp [VReg.Fits]) (by simp) (by simp [decodeVReg, VReg.head, VReg.oa, VReg.ob, VReg.oc, VReg.oaBad, VReg.obBad, VReg.ocBad, -Fin.ofNat_eq_cast]) (by simp [decodeVReg, VReg.head, VReg.oa, VReg.ob, VReg.oc, VReg.oaBad, VReg.obBad, VReg.ocBad])

theorem vexp2 (h : VHead) (a : Opd) (sat : Bool) : Statement (.vexp2 h a sat) :=
  reads_vreg { op := 0x53, et := h.et.code, vd := h.d.reg.val, wbs := h.d.wbs.toNat, le := h.d.le.toNat, xn := h.d.xn.val, nm := h.nm.toNat, opa := a.sel.code, moda := a.md.code, sat := sat.toNat } rfl rfl
    (by simp [VReg.Fits]) (by simp) (by simp [decodeVReg, VReg.head, VReg.oa, VReg.ob, VReg.oc, VReg.oaBad, VReg.obBad, VReg.ocBad, -Fin.ofNat_eq_cast]) (by simp [decodeVReg, VReg.head, VReg.oa, VReg.ob, VReg.oc, VReg.oaBad, VReg.obBad, VReg.ocBad])

theorem vlog2 (h : VHead) (a : Opd) (sat : Bool) : Statement (.vlog2 h a sat) :=
  reads_vreg { op := 0x54, et := h.et.code, vd := h.d.reg.val, wbs := h.d.wbs.toNat, le := h.d.le.toNat, xn := h.d.xn.val, nm := h.nm.toNat, opa := a.sel.code, moda := a.md.code, sat := sat.toNat } rfl rfl
    (by simp [VReg.Fits]) (by simp) (by simp [decodeVReg, VReg.head, VReg.oa, VReg.ob, VReg.oc, VReg.oaBad, VReg.obBad, VReg.ocBad, -Fin.ofNat_eq_cast]) (by simp [decodeVReg, VReg.head, VReg.oa, VReg.ob, VReg.oc, VReg.oaBad, VReg.obBad, VReg.ocBad])

theorem vsinp (h : VHead) (a : Opd) (sat : Bool) : Statement (.vsinp h a sat) :=
  reads_vreg { op := 0x55, et := h.et.code, vd := h.d.reg.val, wbs := h.d.wbs.toNat, le := h.d.le.toNat, xn := h.d.xn.val, nm := h.nm.toNat, opa := a.sel.code, moda := a.md.code, sat := sat.toNat } rfl rfl
    (by simp [VReg.Fits]) (by simp) (by simp [decodeVReg, VReg.head, VReg.oa, VReg.ob, VReg.oc, VReg.oaBad, VReg.obBad, VReg.ocBad, -Fin.ofNat_eq_cast]) (by simp [decodeVReg, VReg.head, VReg.oa, VReg.ob, VReg.oc, VReg.oaBad, VReg.obBad, VReg.ocBad])

theorem vcosp (h : VHead) (a : Opd) (sat : Bool) : Statement (.vcosp h a sat) :=
  reads_vreg { op := 0x56, et := h.et.code, vd := h.d.reg.val, wbs := h.d.wbs.toNat, le := h.d.le.toNat, xn := h.d.xn.val, nm := h.nm.toNat, opa := a.sel.code, moda := a.md.code, sat := sat.toNat } rfl rfl
    (by simp [VReg.Fits]) (by simp) (by simp [decodeVReg, VReg.head, VReg.oa, VReg.ob, VReg.oc, VReg.oaBad, VReg.obBad, VReg.ocBad, -Fin.ofNat_eq_cast]) (by simp [decodeVReg, VReg.head, VReg.oa, VReg.ob, VReg.oc, VReg.oaBad, VReg.obBad, VReg.ocBad])

theorem vtanh (h : VHead) (a : Opd) (sat : Bool) : Statement (.vtanh h a sat) :=
  reads_vreg { op := 0x57, et := h.et.code, vd := h.d.reg.val, wbs := h.d.wbs.toNat, le := h.d.le.toNat, xn := h.d.xn.val, nm := h.nm.toNat, opa := a.sel.code, moda := a.md.code, sat := sat.toNat } rfl rfl
    (by simp [VReg.Fits]) (by simp) (by simp [decodeVReg, VReg.head, VReg.oa, VReg.ob, VReg.oc, VReg.oaBad, VReg.obBad, VReg.ocBad, -Fin.ofNat_eq_cast]) (by simp [decodeVReg, VReg.head, VReg.oa, VReg.ob, VReg.oc, VReg.oaBad, VReg.obBad, VReg.ocBad])

theorem vshfl (h : VHead) (a : Opd) (b : Opd) : Statement (.vshfl h a b) :=
  reads_vreg { op := 0x60, et := h.et.code, vd := h.d.reg.val, wbs := h.d.wbs.toNat, le := h.d.le.toNat, xn := h.d.xn.val, nm := h.nm.toNat, opa := a.sel.code, moda := a.md.code, opb := b.sel.code, modb := b.md.code } rfl rfl
    (by simp [VReg.Fits]) (by simp) (by simp [decodeVReg, VReg.head, VReg.oa, VReg.ob, VReg.oc, VReg.oaBad, VReg.obBad, VReg.ocBad, -Fin.ofNat_eq_cast]) (by simp [decodeVReg, VReg.head, VReg.oa, VReg.ob, VReg.oc, VReg.oaBad, VReg.obBad, VReg.ocBad])

theorem vshflr (h : VHead) (a : Opd) (b : Opd) (m : ShflMode) : Statement (.vshflr h a b m) :=
  reads_vreg { op := 0x61, et := h.et.code, vd := h.d.reg.val, wbs := h.d.wbs.toNat, le := h.d.le.toNat, xn := h.d.xn.val, nm := h.nm.toNat, opa := a.sel.code, moda := a.md.code, opb := b.sel.code, modb := b.md.code, sub := m.code } rfl rfl
    (by simp [VReg.Fits]) (by simp) (by simp [decodeVReg, VReg.head, VReg.oa, VReg.ob, VReg.oc, VReg.oaBad, VReg.obBad, VReg.ocBad, -Fin.ofNat_eq_cast]) (by simp [decodeVReg, VReg.head, VReg.oa, VReg.ob, VReg.oc, VReg.oaBad, VReg.obBad, VReg.ocBad])

theorem vbcst (h : VHead) (a : Opd) (b : Opd) : Statement (.vbcst h a b) :=
  reads_vreg { op := 0x62, et := h.et.code, vd := h.d.reg.val, wbs := h.d.wbs.toNat, le := h.d.le.toNat, xn := h.d.xn.val, nm := h.nm.toNat, opa := a.sel.code, moda := a.md.code, opb := b.sel.code, modb := b.md.code } rfl rfl
    (by simp [VReg.Fits]) (by simp) (by simp [decodeVReg, VReg.head, VReg.oa, VReg.ob, VReg.oc, VReg.oaBad, VReg.obBad, VReg.ocBad, -Fin.ofNat_eq_cast]) (by simp [decodeVReg, VReg.head, VReg.oa, VReg.ob, VReg.oc, VReg.oaBad, VReg.obBad, VReg.ocBad])

theorem vscan (h : VHead) (a : Opd) (sat : Bool) (r : Rnd) (op : RedOp) (ex : Bool) : Statement (.vscan h a sat r op ex) :=
  reads_vreg { op := 0x63, et := h.et.code, vd := h.d.reg.val, wbs := h.d.wbs.toNat, le := h.d.le.toNat, xn := h.d.xn.val, nm := h.nm.toNat, opa := a.sel.code, moda := a.md.code, sat := sat.toNat, rnd := r.code, sub := op.code + 8 * ex.toNat } rfl rfl
    (by simp [VReg.Fits]) (by simp) (by simp [decodeVReg, VReg.head, VReg.oa, VReg.ob, VReg.oc, VReg.oaBad, VReg.obBad, VReg.ocBad, -Fin.ofNat_eq_cast]) (by simp [decodeVReg, VReg.head, VReg.oa, VReg.ob, VReg.oc, VReg.oaBad, VReg.obBad, VReg.ocBad])

theorem vred (h : VHead) (a : Opd) (sat : Bool) (r : Rnd) (op : RedOp) : Statement (.vred h a sat r op) :=
  reads_vreg { op := 0x64, et := h.et.code, vd := h.d.reg.val, wbs := h.d.wbs.toNat, le := h.d.le.toNat, xn := h.d.xn.val, nm := h.nm.toNat, opa := a.sel.code, moda := a.md.code, sat := sat.toNat, rnd := r.code, sub := op.code } rfl rfl
    (by simp [VReg.Fits]) (by simp) (by simp [decodeVReg, VReg.head, VReg.oa, VReg.ob, VReg.oc, VReg.oaBad, VReg.obBad, VReg.ocBad, -Fin.ofNat_eq_cast]) (by simp [decodeVReg, VReg.head, VReg.oa, VReg.ob, VReg.oc, VReg.oaBad, VReg.obBad, VReg.ocBad])

theorem vcomp (h : VHead) (a : Opd) : Statement (.vcomp h a) :=
  reads_vreg { op := 0x65, et := h.et.code, vd := h.d.reg.val, wbs := h.d.wbs.toNat, le := h.d.le.toNat, xn := h.d.xn.val, nm := h.nm.toNat, opa := a.sel.code, moda := a.md.code } rfl rfl
    (by simp [VReg.Fits]) (by simp) (by simp [decodeVReg, VReg.head, VReg.oa, VReg.ob, VReg.oc, VReg.oaBad, VReg.obBad, VReg.ocBad, -Fin.ofNat_eq_cast]) (by simp [decodeVReg, VReg.head, VReg.oa, VReg.ob, VReg.oc, VReg.oaBad, VReg.obBad, VReg.ocBad])

theorem vget (h : VHead) (a : Opd) (b : Opd) : Statement (.vget h a b) :=
  reads_vreg { op := 0x66, et := h.et.code, vd := h.d.reg.val, wbs := h.d.wbs.toNat, le := h.d.le.toNat, xn := h.d.xn.val, nm := h.nm.toNat, opa := a.sel.code, moda := a.md.code, opb := b.sel.code, modb := b.md.code } rfl rfl
    (by simp [VReg.Fits]) (by simp) (by simp [decodeVReg, VReg.head, VReg.oa, VReg.ob, VReg.oc, VReg.oaBad, VReg.obBad, VReg.ocBad, -Fin.ofNat_eq_cast]) (by simp [decodeVReg, VReg.head, VReg.oa, VReg.ob, VReg.oc, VReg.oaBad, VReg.obBad, VReg.ocBad])

theorem vins (h : VHead) (a : Opd) (b : Opd) : Statement (.vins h a b) :=
  reads_vreg { op := 0x67, et := h.et.code, vd := h.d.reg.val, wbs := h.d.wbs.toNat, le := h.d.le.toNat, xn := h.d.xn.val, nm := h.nm.toNat, opa := a.sel.code, moda := a.md.code, opb := b.sel.code, modb := b.md.code } rfl rfl
    (by simp [VReg.Fits]) (by simp) (by simp [decodeVReg, VReg.head, VReg.oa, VReg.ob, VReg.oc, VReg.oaBad, VReg.obBad, VReg.ocBad, -Fin.ofNat_eq_cast]) (by simp [decodeVReg, VReg.head, VReg.oa, VReg.ob, VReg.oc, VReg.oaBad, VReg.obBad, VReg.ocBad])

theorem vtrd (h : VHead) (hd : Reg) (b : Opd) : Statement (.vtrd h hd b) :=
  reads_vreg { op := 0x70, et := h.et.code, vd := h.d.reg.val, wbs := h.d.wbs.toNat, le := h.d.le.toNat, xn := h.d.xn.val, nm := h.nm.toNat, opa := hd.val, opb := b.sel.code, modb := b.md.code } rfl rfl
    (by simp [VReg.Fits]) (by simp) (by simp [decodeVReg, VReg.head, VReg.oa, VReg.ob, VReg.oc, VReg.oaBad, VReg.obBad, VReg.ocBad, -Fin.ofNat_eq_cast]) (by simp [decodeVReg, VReg.head, VReg.oa, VReg.ob, VReg.oc, VReg.oaBad, VReg.obBad, VReg.ocBad])

theorem vtwr (h : VHead) (a : Opd) (b : Opd) : Statement (.vtwr h a b) :=
  reads_vreg { op := 0x71, et := h.et.code, vd := h.d.reg.val, wbs := h.d.wbs.toNat, le := h.d.le.toNat, xn := h.d.xn.val, nm := h.nm.toNat, opa := a.sel.code, moda := a.md.code, opb := b.sel.code, modb := b.md.code } rfl rfl
    (by simp [VReg.Fits]) (by simp) (by simp [decodeVReg, VReg.head, VReg.oa, VReg.ob, VReg.oc, VReg.oaBad, VReg.obBad, VReg.ocBad, -Fin.ofNat_eq_cast]) (by simp [decodeVReg, VReg.head, VReg.oa, VReg.ob, VReg.oc, VReg.oaBad, VReg.obBad, VReg.ocBad])

theorem mnop : Statement .mnop := by
  intro sl h; cases h; decide

theorem lld (d : Reg) (w : Width) (a : LAddr) (le : Bool) (xn : Fin 8) : Statement (.lld d w a le xn) :=
  reads_m { op := 0x01, dr := d.val, width := w.code, sb := a.sb.val, vi := a.vi.val, imm := a.imm.toNat, low7 := (a.uni.toNat + 2 * a.sx.toNat) + 64 * le.toNat + 8 * xn.val } rfl rfl
    (by simp [MRaw.Fits, low7_back])  (by simp [decodeM, MRaw.laddr, MRaw.gaddr, MRaw.mhead, MRaw.fno, MRaw.oflag, MRaw.le, MRaw.xn, MRaw.sBad, MRaw.noLe, MRaw.aZero, MRaw.widthBad, MRaw.scBad, MRaw.feBad, MRaw.aopBad, low7_back, -Fin.ofNat_eq_cast]) (by simp [decodeM, MRaw.laddr, MRaw.gaddr, MRaw.mhead, MRaw.fno, MRaw.oflag, MRaw.le, MRaw.xn, MRaw.sBad, MRaw.noLe, MRaw.aZero, MRaw.widthBad, MRaw.scBad, MRaw.feBad, MRaw.aopBad, low7_back])

theorem lst (d : Reg) (w : Width) (a : LAddr) : Statement (.lst d w a) :=
  reads_m { op := 0x02, dr := d.val, width := w.code, sb := a.sb.val, vi := a.vi.val, imm := a.imm.toNat, low7 := (a.uni.toNat + 2 * a.sx.toNat) } rfl rfl
    (by simp [MRaw.Fits, low7_addr])  (by simp [decodeM, MRaw.laddr, MRaw.gaddr, MRaw.mhead, MRaw.fno, MRaw.oflag, MRaw.le, MRaw.xn, MRaw.sBad, MRaw.noLe, MRaw.aZero, MRaw.widthBad, MRaw.scBad, MRaw.feBad, MRaw.aopBad, low7_addr, -Fin.ofNat_eq_cast]) (by simp [decodeM, MRaw.laddr, MRaw.gaddr, MRaw.mhead, MRaw.fno, MRaw.oflag, MRaw.le, MRaw.xn, MRaw.sBad, MRaw.noLe, MRaw.aZero, MRaw.widthBad, MRaw.scBad, MRaw.feBad, MRaw.aopBad, low7_addr])

theorem llds (d : Reg) (w : Width) (sb : Reg) (imm : BitVec 16) : Statement (.llds d w sb imm) :=
  reads_m { op := 0x03, dr := d.val, width := w.code, sb := sb.val, imm := imm.toNat } rfl rfl
    (by simp [MRaw.Fits])  (by simp [decodeM, MRaw.laddr, MRaw.gaddr, MRaw.mhead, MRaw.fno, MRaw.oflag, MRaw.le, MRaw.xn, MRaw.sBad, MRaw.noLe, MRaw.aZero, MRaw.widthBad, MRaw.scBad, MRaw.feBad, MRaw.aopBad, fld, -Fin.ofNat_eq_cast]) (by simp [decodeM, MRaw.laddr, MRaw.gaddr, MRaw.mhead, MRaw.fno, MRaw.oflag, MRaw.le, MRaw.xn, MRaw.sBad, MRaw.noLe, MRaw.aZero, MRaw.widthBad, MRaw.scBad, MRaw.feBad, MRaw.aopBad, fld])

theorem lsts (d : Reg) (w : Width) (sb : Reg) (imm : BitVec 16) : Statement (.lsts d w sb imm) :=
  reads_m { op := 0x04, dr := d.val, width := w.code, sb := sb.val, imm := imm.toNat } rfl rfl
    (by simp [MRaw.Fits])  (by simp [decodeM, MRaw.laddr, MRaw.gaddr, MRaw.mhead, MRaw.fno, MRaw.oflag, MRaw.le, MRaw.xn, MRaw.sBad, MRaw.noLe, MRaw.aZero, MRaw.widthBad, MRaw.scBad, MRaw.feBad, MRaw.aopBad, fld, -Fin.ofNat_eq_cast]) (by simp [decodeM, MRaw.laddr, MRaw.gaddr, MRaw.mhead, MRaw.fno, MRaw.oflag, MRaw.le, MRaw.xn, MRaw.sBad, MRaw.noLe, MRaw.aZero, MRaw.widthBad, MRaw.scBad, MRaw.feBad, MRaw.aopBad, fld])

theorem latom (d : Reg) (w : Width) (a : GAddr) (op : Aop) : Statement (.latom d w a op) :=
  reads_m { op := 0x05, dr := d.val, width := w.code, sb := a.sb.val, vi := a.vi.val, imm := a.imm.toNat, low7 := op.code } rfl rfl
    (by simp [MRaw.Fits])  (by simp [decodeM, MRaw.laddr, MRaw.gaddr, MRaw.mhead, MRaw.fno, MRaw.oflag, MRaw.le, MRaw.xn, MRaw.sBad, MRaw.noLe, MRaw.aZero, MRaw.widthBad, MRaw.scBad, MRaw.feBad, MRaw.aopBad, fld, -Fin.ofNat_eq_cast]) (by simp [decodeM, MRaw.laddr, MRaw.gaddr, MRaw.mhead, MRaw.fno, MRaw.oflag, MRaw.le, MRaw.xn, MRaw.sBad, MRaw.noLe, MRaw.aZero, MRaw.widthBad, MRaw.scBad, MRaw.feBad, MRaw.aopBad, fld])

theorem lcas (d : Reg) (w : Width) (a : GAddr) : Statement (.lcas d w a) :=
  reads_m { op := 0x06, dr := d.val, width := w.code, sb := a.sb.val, vi := a.vi.val, imm := a.imm.toNat } rfl rfl
    (by simp [MRaw.Fits])  (by simp [decodeM, MRaw.laddr, MRaw.gaddr, MRaw.mhead, MRaw.fno, MRaw.oflag, MRaw.le, MRaw.xn, MRaw.sBad, MRaw.noLe, MRaw.aZero, MRaw.widthBad, MRaw.scBad, MRaw.feBad, MRaw.aopBad, fld, -Fin.ofNat_eq_cast]) (by simp [decodeM, MRaw.laddr, MRaw.gaddr, MRaw.mhead, MRaw.fno, MRaw.oflag, MRaw.le, MRaw.xn, MRaw.sBad, MRaw.noLe, MRaw.aZero, MRaw.widthBad, MRaw.scBad, MRaw.feBad, MRaw.aopBad, fld])

theorem qenq (d : Reg) (w : Width) (sb : Reg) (imm : BitVec 16) : Statement (.qenq d w sb imm) :=
  reads_m { op := 0x08, dr := d.val, width := w.code, sb := sb.val, imm := imm.toNat } rfl rfl
    (by simp [MRaw.Fits])  (by simp [decodeM, MRaw.laddr, MRaw.gaddr, MRaw.mhead, MRaw.fno, MRaw.oflag, MRaw.le, MRaw.xn, MRaw.sBad, MRaw.noLe, MRaw.aZero, MRaw.widthBad, MRaw.scBad, MRaw.feBad, MRaw.aopBad, fld, -Fin.ofNat_eq_cast]) (by simp [decodeM, MRaw.laddr, MRaw.gaddr, MRaw.mhead, MRaw.fno, MRaw.oflag, MRaw.le, MRaw.xn, MRaw.sBad, MRaw.noLe, MRaw.aZero, MRaw.widthBad, MRaw.scBad, MRaw.feBad, MRaw.aopBad, fld])

theorem qdeq (d : Reg) (w : Width) (sb : Reg) (imm : BitVec 16) (le : Bool) (xn : Fin 8) : Statement (.qdeq d w sb imm le xn) :=
  reads_m { op := 0x09, dr := d.val, width := w.code, sb := sb.val, imm := imm.toNat, low7 := 64 * le.toNat + 8 * xn.val } rfl rfl
    (by simp [MRaw.Fits, low7_latch])  (by simp [decodeM, MRaw.laddr, MRaw.gaddr, MRaw.mhead, MRaw.fno, MRaw.oflag, MRaw.le, MRaw.xn, MRaw.sBad, MRaw.noLe, MRaw.aZero, MRaw.widthBad, MRaw.scBad, MRaw.feBad, MRaw.aopBad, low7_latch, -Fin.ofNat_eq_cast]) (by simp [decodeM, MRaw.laddr, MRaw.gaddr, MRaw.mhead, MRaw.fno, MRaw.oflag, MRaw.le, MRaw.xn, MRaw.sBad, MRaw.noLe, MRaw.aZero, MRaw.widthBad, MRaw.scBad, MRaw.feBad, MRaw.aopBad, low7_latch])

theorem qstat (d : Reg) (sb : Reg) (imm : BitVec 16) : Statement (.qstat d sb imm) :=
  reads_m { op := 0x0A, dr := d.val, sb := sb.val, imm := imm.toNat } rfl rfl
    (by simp [MRaw.Fits])  (by simp [decodeM, MRaw.laddr, MRaw.gaddr, MRaw.mhead, MRaw.fno, MRaw.oflag, MRaw.le, MRaw.xn, MRaw.sBad, MRaw.noLe, MRaw.aZero, MRaw.widthBad, MRaw.scBad, MRaw.feBad, MRaw.aopBad, fld, -Fin.ofNat_eq_cast]) (by simp [decodeM, MRaw.laddr, MRaw.gaddr, MRaw.mhead, MRaw.fno, MRaw.oflag, MRaw.le, MRaw.xn, MRaw.sBad, MRaw.noLe, MRaw.aZero, MRaw.widthBad, MRaw.scBad, MRaw.feBad, MRaw.aopBad, fld])

theorem gld (k : MHead) (f : FlagNo) (d : Reg) (w : Width) (a : GAddr) : Statement (.gld k f d w a) :=
  reads_m { op := 0x10, cls := k.cls.val, scope := k.sc.code, fe := 1, flag := f.val, dr := d.val, width := w.code, sb := a.sb.val, vi := a.vi.val, imm := a.imm.toNat } rfl rfl
    (by simp [MRaw.Fits])  (by simp [decodeM, MRaw.laddr, MRaw.gaddr, MRaw.mhead, MRaw.fno, MRaw.oflag, MRaw.le, MRaw.xn, MRaw.sBad, MRaw.noLe, MRaw.aZero, MRaw.widthBad, MRaw.scBad, MRaw.feBad, MRaw.aopBad, fld, -Fin.ofNat_eq_cast]) (by simp [decodeM, MRaw.laddr, MRaw.gaddr, MRaw.mhead, MRaw.fno, MRaw.oflag, MRaw.le, MRaw.xn, MRaw.sBad, MRaw.noLe, MRaw.aZero, MRaw.widthBad, MRaw.scBad, MRaw.feBad, MRaw.aopBad, fld])

theorem gst (k : MHead) (f : Option FlagNo) (d : Reg) (w : Width) (a : GAddr) : Statement (.gst k f d w a) :=
  reads_m { op := 0x11, cls := k.cls.val, scope := k.sc.code, fe := (feOf f), flag := (flagOf f), dr := d.val, width := w.code, sb := a.sb.val, vi := a.vi.val, imm := a.imm.toNat } rfl rfl
    (by simp [MRaw.Fits])  (by simp [decodeM, MRaw.laddr, MRaw.gaddr, MRaw.mhead, MRaw.fno, MRaw.oflag, MRaw.le, MRaw.xn, MRaw.sBad, MRaw.noLe, MRaw.aZero, MRaw.widthBad, MRaw.scBad, MRaw.feBad, MRaw.aopBad, fld, -Fin.ofNat_eq_cast]) (by simp [decodeM, MRaw.laddr, MRaw.gaddr, MRaw.mhead, MRaw.fno, MRaw.oflag, MRaw.le, MRaw.xn, MRaw.sBad, MRaw.noLe, MRaw.aZero, MRaw.widthBad, MRaw.scBad, MRaw.feBad, MRaw.aopBad, fld])

theorem gatom (k : MHead) (f : FlagNo) (d : Reg) (w : Width) (a : GAddr) (op : Aop) : Statement (.gatom k f d w a op) :=
  reads_m { op := 0x12, cls := k.cls.val, scope := k.sc.code, fe := 1, flag := f.val, dr := d.val, width := w.code, sb := a.sb.val, vi := a.vi.val, imm := a.imm.toNat, low7 := op.code } rfl rfl
    (by simp [MRaw.Fits])  (by simp [decodeM, MRaw.laddr, MRaw.gaddr, MRaw.mhead, MRaw.fno, MRaw.oflag, MRaw.le, MRaw.xn, MRaw.sBad, MRaw.noLe, MRaw.aZero, MRaw.widthBad, MRaw.scBad, MRaw.feBad, MRaw.aopBad, fld, -Fin.ofNat_eq_cast]) (by simp [decodeM, MRaw.laddr, MRaw.gaddr, MRaw.mhead, MRaw.fno, MRaw.oflag, MRaw.le, MRaw.xn, MRaw.sBad, MRaw.noLe, MRaw.aZero, MRaw.widthBad, MRaw.scBad, MRaw.feBad, MRaw.aopBad, fld])

theorem gred (k : MHead) (f : Option FlagNo) (d : Reg) (w : Width) (a : GAddr) (op : Aop) : Statement (.gred k f d w a op) :=
  reads_m { op := 0x13, cls := k.cls.val, scope := k.sc.code, fe := (feOf f), flag := (flagOf f), dr := d.val, width := w.code, sb := a.sb.val, vi := a.vi.val, imm := a.imm.toNat, low7 := op.code } rfl rfl
    (by simp [MRaw.Fits])  (by simp [decodeM, MRaw.laddr, MRaw.gaddr, MRaw.mhead, MRaw.fno, MRaw.oflag, MRaw.le, MRaw.xn, MRaw.sBad, MRaw.noLe, MRaw.aZero, MRaw.widthBad, MRaw.scBad, MRaw.feBad, MRaw.aopBad, fld, -Fin.ofNat_eq_cast]) (by simp [decodeM, MRaw.laddr, MRaw.gaddr, MRaw.mhead, MRaw.fno, MRaw.oflag, MRaw.le, MRaw.xn, MRaw.sBad, MRaw.noLe, MRaw.aZero, MRaw.widthBad, MRaw.scBad, MRaw.feBad, MRaw.aopBad, fld])

theorem gcas (k : MHead) (f : FlagNo) (d : Reg) (w : Width) (a : GAddr) : Statement (.gcas k f d w a) :=
  reads_m { op := 0x14, cls := k.cls.val, scope := k.sc.code, fe := 1, flag := f.val, dr := d.val, width := w.code, sb := a.sb.val, vi := a.vi.val, imm := a.imm.toNat } rfl rfl
    (by simp [MRaw.Fits])  (by simp [decodeM, MRaw.laddr, MRaw.gaddr, MRaw.mhead, MRaw.fno, MRaw.oflag, MRaw.le, MRaw.xn, MRaw.sBad, MRaw.noLe, MRaw.aZero, MRaw.widthBad, MRaw.scBad, MRaw.feBad, MRaw.aopBad, fld, -Fin.ofNat_eq_cast]) (by simp [decodeM, MRaw.laddr, MRaw.gaddr, MRaw.mhead, MRaw.fno, MRaw.oflag, MRaw.le, MRaw.xn, MRaw.sBad, MRaw.noLe, MRaw.aZero, MRaw.widthBad, MRaw.scBad, MRaw.feBad, MRaw.aopBad, fld])

theorem gldc (k : MHead) (d : Reg) (w : Width) (a : LAddr) (le : Bool) (xn : Fin 8) : Statement (.gldc k d w a le xn) :=
  reads_m { op := 0x15, cls := k.cls.val, scope := k.sc.code, dr := d.val, width := w.code, sb := a.sb.val, vi := a.vi.val, imm := a.imm.toNat, low7 := (a.uni.toNat + 2 * a.sx.toNat) + 64 * le.toNat + 8 * xn.val } rfl rfl
    (by simp [MRaw.Fits, low7_back])  (by simp [decodeM, MRaw.laddr, MRaw.gaddr, MRaw.mhead, MRaw.fno, MRaw.oflag, MRaw.le, MRaw.xn, MRaw.sBad, MRaw.noLe, MRaw.aZero, MRaw.widthBad, MRaw.scBad, MRaw.feBad, MRaw.aopBad, low7_back, -Fin.ofNat_eq_cast]) (by simp [decodeM, MRaw.laddr, MRaw.gaddr, MRaw.mhead, MRaw.fno, MRaw.oflag, MRaw.le, MRaw.xn, MRaw.sBad, MRaw.noLe, MRaw.aZero, MRaw.widthBad, MRaw.scBad, MRaw.feBad, MRaw.aopBad, low7_back])

theorem sldc (k : MHead) (d : Reg) (w : Width) (sb : Reg) (imm : BitVec 16) : Statement (.sldc k d w sb imm) :=
  reads_m { op := 0x16, cls := k.cls.val, scope := k.sc.code, dr := d.val, width := w.code, sb := sb.val, imm := imm.toNat } rfl rfl
    (by simp [MRaw.Fits])  (by simp [decodeM, MRaw.laddr, MRaw.gaddr, MRaw.mhead, MRaw.fno, MRaw.oflag, MRaw.le, MRaw.xn, MRaw.sBad, MRaw.noLe, MRaw.aZero, MRaw.widthBad, MRaw.scBad, MRaw.feBad, MRaw.aopBad, fld, -Fin.ofNat_eq_cast]) (by simp [decodeM, MRaw.laddr, MRaw.gaddr, MRaw.mhead, MRaw.fno, MRaw.oflag, MRaw.le, MRaw.xn, MRaw.sBad, MRaw.noLe, MRaw.aZero, MRaw.widthBad, MRaw.scBad, MRaw.feBad, MRaw.aopBad, fld])

theorem sgld (k : MHead) (f : FlagNo) (d : Reg) (w : Width) (sb : Reg) (imm : BitVec 16) : Statement (.sgld k f d w sb imm) :=
  reads_m { op := 0x17, cls := k.cls.val, scope := k.sc.code, fe := 1, flag := f.val, dr := d.val, width := w.code, sb := sb.val, imm := imm.toNat } rfl rfl
    (by simp [MRaw.Fits])  (by simp [decodeM, MRaw.laddr, MRaw.gaddr, MRaw.mhead, MRaw.fno, MRaw.oflag, MRaw.le, MRaw.xn, MRaw.sBad, MRaw.noLe, MRaw.aZero, MRaw.widthBad, MRaw.scBad, MRaw.feBad, MRaw.aopBad, fld, -Fin.ofNat_eq_cast]) (by simp [decodeM, MRaw.laddr, MRaw.gaddr, MRaw.mhead, MRaw.fno, MRaw.oflag, MRaw.le, MRaw.xn, MRaw.sBad, MRaw.noLe, MRaw.aZero, MRaw.widthBad, MRaw.scBad, MRaw.feBad, MRaw.aopBad, fld])

theorem sgst (k : MHead) (f : Option FlagNo) (d : Reg) (w : Width) (sb : Reg) (imm : BitVec 16) : Statement (.sgst k f d w sb imm) :=
  reads_m { op := 0x18, cls := k.cls.val, scope := k.sc.code, fe := (feOf f), flag := (flagOf f), dr := d.val, width := w.code, sb := sb.val, imm := imm.toNat } rfl rfl
    (by simp [MRaw.Fits])  (by simp [decodeM, MRaw.laddr, MRaw.gaddr, MRaw.mhead, MRaw.fno, MRaw.oflag, MRaw.le, MRaw.xn, MRaw.sBad, MRaw.noLe, MRaw.aZero, MRaw.widthBad, MRaw.scBad, MRaw.feBad, MRaw.aopBad, fld, -Fin.ofNat_eq_cast]) (by simp [decodeM, MRaw.laddr, MRaw.gaddr, MRaw.mhead, MRaw.fno, MRaw.oflag, MRaw.le, MRaw.xn, MRaw.sBad, MRaw.noLe, MRaw.aZero, MRaw.widthBad, MRaw.scBad, MRaw.feBad, MRaw.aopBad, fld])

theorem fence (kind : FenceKind) (sc : Scope) (f : Option FlagNo) (mask : BitVec 16) : Statement (.fence kind sc f mask) :=
  reads_m { op := 0x20, dr := kind.code, scope := sc.code, fe := (feOf f), flag := (flagOf f), imm := mask.toNat } rfl rfl
    (by simp [MRaw.Fits])  (by simp [decodeM, MRaw.laddr, MRaw.gaddr, MRaw.mhead, MRaw.fno, MRaw.oflag, MRaw.le, MRaw.xn, MRaw.sBad, MRaw.noLe, MRaw.aZero, MRaw.widthBad, MRaw.scBad, MRaw.feBad, MRaw.aopBad, fld, -Fin.ofNat_eq_cast]) (by simp [decodeM, MRaw.laddr, MRaw.gaddr, MRaw.mhead, MRaw.fno, MRaw.oflag, MRaw.le, MRaw.xn, MRaw.sBad, MRaw.noLe, MRaw.aZero, MRaw.widthBad, MRaw.scBad, MRaw.feBad, MRaw.aopBad, fld])

theorem l1inv  : Statement (.l1inv ) :=
  reads_m { op := 0x21 } rfl rfl
    (by simp [MRaw.Fits])  (by simp [decodeM, MRaw.laddr, MRaw.gaddr, MRaw.mhead, MRaw.fno, MRaw.oflag, MRaw.le, MRaw.xn, MRaw.sBad, MRaw.noLe, MRaw.aZero, MRaw.widthBad, MRaw.scBad, MRaw.feBad, MRaw.aopBad, fld, -Fin.ofNat_eq_cast]) (by simp [decodeM, MRaw.laddr, MRaw.gaddr, MRaw.mhead, MRaw.fno, MRaw.oflag, MRaw.le, MRaw.xn, MRaw.sBad, MRaw.noLe, MRaw.aZero, MRaw.widthBad, MRaw.scBad, MRaw.feBad, MRaw.aopBad, fld])

theorem wcfl (f : FlagNo) : Statement (.wcfl f) :=
  reads_m { op := 0x22, fe := 1, flag := f.val } rfl rfl
    (by simp [MRaw.Fits])  (by simp [decodeM, MRaw.laddr, MRaw.gaddr, MRaw.mhead, MRaw.fno, MRaw.oflag, MRaw.le, MRaw.xn, MRaw.sBad, MRaw.noLe, MRaw.aZero, MRaw.widthBad, MRaw.scBad, MRaw.feBad, MRaw.aopBad, fld, -Fin.ofNat_eq_cast]) (by simp [decodeM, MRaw.laddr, MRaw.gaddr, MRaw.mhead, MRaw.fno, MRaw.oflag, MRaw.le, MRaw.xn, MRaw.sBad, MRaw.noLe, MRaw.aZero, MRaw.widthBad, MRaw.scBad, MRaw.feBad, MRaw.aopBad, fld])

theorem pref (w : Width) (a : LAddr) : Statement (.pref w a) :=
  reads_m { op := 0x23, width := w.code, sb := a.sb.val, vi := a.vi.val, imm := a.imm.toNat, low7 := (a.uni.toNat + 2 * a.sx.toNat) } rfl rfl
    (by simp [MRaw.Fits, low7_addr])  (by simp [decodeM, MRaw.laddr, MRaw.gaddr, MRaw.mhead, MRaw.fno, MRaw.oflag, MRaw.le, MRaw.xn, MRaw.sBad, MRaw.noLe, MRaw.aZero, MRaw.widthBad, MRaw.scBad, MRaw.feBad, MRaw.aopBad, low7_addr, -Fin.ofNat_eq_cast]) (by simp [decodeM, MRaw.laddr, MRaw.gaddr, MRaw.mhead, MRaw.fno, MRaw.oflag, MRaw.le, MRaw.xn, MRaw.sBad, MRaw.noLe, MRaw.aZero, MRaw.widthBad, MRaw.scBad, MRaw.feBad, MRaw.aopBad, low7_addr])

theorem hint (f : Option FlagNo) (d : Reg) (sb : Reg) (sh : Reg) (imm : BitVec 16) : Statement (.hint f d sb sh imm) :=
  reads_m { op := 0x24, fe := (feOf f), flag := (flagOf f), dr := d.val, sb := sb.val, vi := sh.val, imm := imm.toNat } rfl rfl
    (by simp [MRaw.Fits])  (by simp [decodeM, MRaw.laddr, MRaw.gaddr, MRaw.mhead, MRaw.fno, MRaw.oflag, MRaw.le, MRaw.xn, MRaw.sBad, MRaw.noLe, MRaw.aZero, MRaw.widthBad, MRaw.scBad, MRaw.feBad, MRaw.aopBad, fld, -Fin.ofNat_eq_cast]) (by simp [decodeM, MRaw.laddr, MRaw.gaddr, MRaw.mhead, MRaw.fno, MRaw.oflag, MRaw.le, MRaw.xn, MRaw.sBad, MRaw.noLe, MRaw.aZero, MRaw.widthBad, MRaw.scBad, MRaw.feBad, MRaw.aopBad, fld])

theorem phase (imm : BitVec 16) : Statement (.phase imm) :=
  reads_m { op := 0x25, imm := imm.toNat } rfl rfl
    (by simp [MRaw.Fits])  (by simp [decodeM, MRaw.laddr, MRaw.gaddr, MRaw.mhead, MRaw.fno, MRaw.oflag, MRaw.le, MRaw.xn, MRaw.sBad, MRaw.noLe, MRaw.aZero, MRaw.widthBad, MRaw.scBad, MRaw.feBad, MRaw.aopBad, fld, -Fin.ofNat_eq_cast]) (by simp [decodeM, MRaw.laddr, MRaw.gaddr, MRaw.mhead, MRaw.fno, MRaw.oflag, MRaw.le, MRaw.xn, MRaw.sBad, MRaw.noLe, MRaw.aZero, MRaw.widthBad, MRaw.scBad, MRaw.feBad, MRaw.aopBad, fld])

theorem signal (k : MHead) (f : Option FlagNo) (d : Reg) (sb : Reg) (imm : BitVec 16) (op : Aop) : Statement (.signal k f d sb imm op) :=
  reads_m { op := 0x28, cls := k.cls.val, scope := k.sc.code, fe := (feOf f), flag := (flagOf f), dr := d.val, sb := sb.val, imm := imm.toNat, low7 := op.code, width := 3 } rfl rfl
    (by simp [MRaw.Fits])  (by simp [decodeM, MRaw.laddr, MRaw.gaddr, MRaw.mhead, MRaw.fno, MRaw.oflag, MRaw.le, MRaw.xn, MRaw.sBad, MRaw.noLe, MRaw.aZero, MRaw.widthBad, MRaw.scBad, MRaw.feBad, MRaw.aopBad, fld, -Fin.ofNat_eq_cast]) (by simp [decodeM, MRaw.laddr, MRaw.gaddr, MRaw.mhead, MRaw.fno, MRaw.oflag, MRaw.le, MRaw.xn, MRaw.sBad, MRaw.noLe, MRaw.aZero, MRaw.widthBad, MRaw.scBad, MRaw.feBad, MRaw.aopBad, fld])

theorem sack (sb : Reg) (imm : BitVec 16) : Statement (.sack sb imm) :=
  reads_m { op := 0x29, sb := sb.val, imm := imm.toNat } rfl rfl
    (by simp [MRaw.Fits])  (by simp [decodeM, MRaw.laddr, MRaw.gaddr, MRaw.mhead, MRaw.fno, MRaw.oflag, MRaw.le, MRaw.xn, MRaw.sBad, MRaw.noLe, MRaw.aZero, MRaw.widthBad, MRaw.scBad, MRaw.feBad, MRaw.aopBad, fld, -Fin.ofNat_eq_cast]) (by simp [decodeM, MRaw.laddr, MRaw.gaddr, MRaw.mhead, MRaw.fno, MRaw.oflag, MRaw.le, MRaw.xn, MRaw.sBad, MRaw.noLe, MRaw.aZero, MRaw.widthBad, MRaw.scBad, MRaw.feBad, MRaw.aopBad, fld])

theorem quiet (f : FlagNo) (d : Reg) : Statement (.quiet f d) :=
  reads_m { op := 0x2A, fe := 1, flag := f.val, dr := d.val } rfl rfl
    (by simp [MRaw.Fits])  (by simp [decodeM, MRaw.laddr, MRaw.gaddr, MRaw.mhead, MRaw.fno, MRaw.oflag, MRaw.le, MRaw.xn, MRaw.sBad, MRaw.noLe, MRaw.aZero, MRaw.widthBad, MRaw.scBad, MRaw.feBad, MRaw.aopBad, fld, -Fin.ofNat_eq_cast]) (by simp [decodeM, MRaw.laddr, MRaw.gaddr, MRaw.mhead, MRaw.fno, MRaw.oflag, MRaw.le, MRaw.xn, MRaw.sBad, MRaw.noLe, MRaw.aZero, MRaw.widthBad, MRaw.scBad, MRaw.feBad, MRaw.aopBad, fld])

theorem sarm (q : Fin 16) (sb : Reg) (imm : BitVec 16) : Statement (.sarm q sb imm) := by
  all_goals
    refine reads_m _ rfl rfl ?_  ?_ ?_
    all_goals simp [MRaw.Fits, decodeM, cRegForm, MRaw.laddr, MRaw.gaddr, MRaw.mhead, MRaw.fno, MRaw.oflag, MRaw.le, MRaw.xn, MRaw.sBad, MRaw.noLe, MRaw.aZero, MRaw.widthBad, MRaw.scBad, MRaw.feBad, MRaw.aopBad, fld, decide_eq_false_iff_not, -Fin.ofNat_eq_cast]

theorem sarmOff (sb : Reg) (imm : BitVec 16) : Statement (.sarmOff sb imm) :=
  reads_m { op := 0x2B, sb := sb.val, imm := imm.toNat, dr := 32 } rfl rfl
    (by simp [MRaw.Fits])  (by simp [decodeM, MRaw.laddr, MRaw.gaddr, MRaw.mhead, MRaw.fno, MRaw.oflag, MRaw.le, MRaw.xn, MRaw.sBad, MRaw.noLe, MRaw.aZero, MRaw.widthBad, MRaw.scBad, MRaw.feBad, MRaw.aopBad, fld, -Fin.ofNat_eq_cast]) (by simp [decodeM, MRaw.laddr, MRaw.gaddr, MRaw.mhead, MRaw.fno, MRaw.oflag, MRaw.le, MRaw.xn, MRaw.sBad, MRaw.noLe, MRaw.aZero, MRaw.widthBad, MRaw.scBad, MRaw.feBad, MRaw.aopBad, fld])

theorem launch (f : FlagNo) (d : Reg) (sb : Reg) (imm : BitVec 16) : Statement (.launch f d sb imm) :=
  reads_m { op := 0x30, fe := 1, flag := f.val, dr := d.val, sb := sb.val, imm := imm.toNat } rfl rfl
    (by simp [MRaw.Fits])  (by simp [decodeM, MRaw.laddr, MRaw.gaddr, MRaw.mhead, MRaw.fno, MRaw.oflag, MRaw.le, MRaw.xn, MRaw.sBad, MRaw.noLe, MRaw.aZero, MRaw.widthBad, MRaw.scBad, MRaw.feBad, MRaw.aopBad, fld, -Fin.ofNat_eq_cast]) (by simp [decodeM, MRaw.laddr, MRaw.gaddr, MRaw.mhead, MRaw.fno, MRaw.oflag, MRaw.le, MRaw.xn, MRaw.sBad, MRaw.noLe, MRaw.aZero, MRaw.widthBad, MRaw.scBad, MRaw.feBad, MRaw.aopBad, fld])

theorem pgfetch (f : FlagNo) (kind : PgKind) (d : Reg) (sb : Reg) (imm : BitVec 16) : Statement (.pgfetch f kind d sb imm) :=
  reads_m { op := 0x38, fe := 1, flag := f.val, width := kind.code, dr := d.val, sb := sb.val, imm := imm.toNat } rfl rfl
    (by simp [MRaw.Fits])  (by simp [decodeM, MRaw.laddr, MRaw.gaddr, MRaw.mhead, MRaw.fno, MRaw.oflag, MRaw.le, MRaw.xn, MRaw.sBad, MRaw.noLe, MRaw.aZero, MRaw.widthBad, MRaw.scBad, MRaw.feBad, MRaw.aopBad, fld, -Fin.ofNat_eq_cast]) (by simp [decodeM, MRaw.laddr, MRaw.gaddr, MRaw.mhead, MRaw.fno, MRaw.oflag, MRaw.le, MRaw.xn, MRaw.sBad, MRaw.noLe, MRaw.aZero, MRaw.widthBad, MRaw.scBad, MRaw.feBad, MRaw.aopBad, fld])

theorem xinv (f : Option FlagNo) (d : Reg) (sb : Reg) (imm : BitVec 16) : Statement (.xinv f d sb imm) :=
  reads_m { op := 0x39, fe := (feOf f), flag := (flagOf f), dr := d.val, sb := sb.val, imm := imm.toNat } rfl rfl
    (by simp [MRaw.Fits])  (by simp [decodeM, MRaw.laddr, MRaw.gaddr, MRaw.mhead, MRaw.fno, MRaw.oflag, MRaw.le, MRaw.xn, MRaw.sBad, MRaw.noLe, MRaw.aZero, MRaw.widthBad, MRaw.scBad, MRaw.feBad, MRaw.aopBad, fld, -Fin.ofNat_eq_cast]) (by simp [decodeM, MRaw.laddr, MRaw.gaddr, MRaw.mhead, MRaw.fno, MRaw.oflag, MRaw.le, MRaw.xn, MRaw.sBad, MRaw.noLe, MRaw.aZero, MRaw.widthBad, MRaw.scBad, MRaw.feBad, MRaw.aopBad, fld])

theorem enop : Statement .enop := by
  intro sl h; cases h; decide

theorem cpygl (k : MHead) (f : FlagNo) (sa : Reg) (sd : Reg) (sg : Reg) (sx : Reg) : Statement (.cpygl k f sa sd sg sx) :=
  reads_ecopy { op := 0x01, cls := k.cls.val, scope := k.sc.code, fe := 1, flag := f.val, sa := sa.val, sd := sd.val, sg := sg.val, sx := sx.val } rfl rfl
    (by simp [ECopy.Fits]) (by simp) (by simp [decodeECopy, ECopy.fno, ECopy.mhead, ECopy.feBad, ECopy.scBad, -Fin.ofNat_eq_cast]) (by simp [decodeECopy, ECopy.fno, ECopy.mhead, ECopy.feBad, ECopy.scBad])

theorem cpylg (k : MHead) (f : FlagNo) (sa : Reg) (sd : Reg) (sg : Reg) (sx : Reg) : Statement (.cpylg k f sa sd sg sx) :=
  reads_ecopy { op := 0x02, cls := k.cls.val, scope := k.sc.code, fe := 1, flag := f.val, sa := sa.val, sd := sd.val, sg := sg.val, sx := sx.val } rfl rfl
    (by simp [ECopy.Fits]) (by simp) (by simp [decodeECopy, ECopy.fno, ECopy.mhead, ECopy.feBad, ECopy.scBad, -Fin.ofNat_eq_cast]) (by simp [decodeECopy, ECopy.fno, ECopy.mhead, ECopy.feBad, ECopy.scBad])

theorem cpyll (f : FlagNo) (sa : Reg) (sd : Reg) (sg : Reg) (sx : Reg) : Statement (.cpyll f sa sd sg sx) :=
  reads_ecopy { op := 0x03, fe := 1, flag := f.val, sa := sa.val, sd := sd.val, sg := sg.val, sx := sx.val } rfl rfl
    (by simp [ECopy.Fits]) (by simp) (by simp [decodeECopy, ECopy.fno, ECopy.mhead, ECopy.feBad, ECopy.scBad, -Fin.ofNat_eq_cast]) (by simp [decodeECopy, ECopy.fno, ECopy.mhead, ECopy.feBad, ECopy.scBad])

theorem cpygg (k : MHead) (f : FlagNo) (sa : Reg) (sd : Reg) (sg : Reg) (sx : Reg) (pk : Bool) : Statement (.cpygg k f sa sd sg sx pk) :=
  reads_ecopy { op := 0x04, cls := k.cls.val, scope := k.sc.code, fe := 1, flag := f.val, sa := sa.val, sd := sd.val, sg := sg.val, sx := sx.val, sub := pk.toNat } rfl rfl
    (by simp [ECopy.Fits]) (by simp) (by simp [decodeECopy, ECopy.fno, ECopy.mhead, ECopy.feBad, ECopy.scBad, -Fin.ofNat_eq_cast]) (by simp [decodeECopy, ECopy.fno, ECopy.mhead, ECopy.feBad, ECopy.scBad])

theorem cpyfil (f : FlagNo) (sd : Reg) (sg : Reg) (imm : BitVec 16) (hi : Bool) (g : Option CpyG) : Statement (.cpyfil f sd sg imm hi g) := by
  cases hi <;> rcases g with _ | ⟨⟨c, sc⟩, x⟩
  all_goals
    refine reads_ecopy _ rfl rfl ?_ ?_ ?_ ?_
    all_goals simp [ECopy.Fits, decodeECopy, cRegForm, ECopy.fno, ECopy.mhead, ECopy.feBad, ECopy.scBad, fld, decide_eq_false_iff_not, -Fin.ofNat_eq_cast]
    all_goals exact decide_eq_false (by simp)

theorem cpyp (f : FlagNo) (sa : Reg) (sg : Reg) (ch : BitVec 16) : Statement (.cpyp f sa sg ch) :=
  reads_ecopy { op := 0x06, fe := 1, flag := f.val, sa := sa.val, sg := sg.val, imm := ch.toNat } rfl rfl
    (by simp [ECopy.Fits]) (by simp) (by simp [decodeECopy, ECopy.fno, ECopy.mhead, ECopy.feBad, ECopy.scBad, -Fin.ofNat_eq_cast]) (by simp [decodeECopy, ECopy.fno, ECopy.mhead, ECopy.feBad, ECopy.scBad])

theorem tld (f : Option FlagNo) (hd : Reg) (base : Reg) (pit : Reg) (tr : Bool) : Statement (.tld f hd base pit tr) :=
  reads_emat { op := 0x08, fe := (feOf f), flag := (flagOf f), hd := hd.val, ha := base.val, hb := pit.val, sub := tr.toNat } rfl rfl
    (by simp [EMat.Fits]) (by simp) (by simp [decodeEMat, EMat.fno, EMat.oflag, EMat.feBad, EMat.etBad, EMat.zBad, EMat.win, -Fin.ofNat_eq_cast]) (by simp [decodeEMat, EMat.fno, EMat.oflag, EMat.feBad, EMat.etBad, EMat.zBad, EMat.win])

theorem tst (f : FlagNo) (hd : Reg) (base : Reg) (pit : Reg) (tr : Bool) : Statement (.tst f hd base pit tr) :=
  reads_emat { op := 0x09, fe := 1, flag := f.val, hd := hd.val, ha := base.val, hb := pit.val, sub := tr.toNat } rfl rfl
    (by simp [EMat.Fits]) (by simp) (by simp [decodeEMat, EMat.fno, EMat.oflag, EMat.feBad, EMat.etBad, EMat.zBad, EMat.win, -Fin.ofNat_eq_cast]) (by simp [decodeEMat, EMat.fno, EMat.oflag, EMat.feBad, EMat.etBad, EMat.zBad, EMat.win])

theorem talloc (hd : Reg) (sdesc : Reg) (sst : Reg) : Statement (.talloc hd sdesc sst) :=
  reads_emat { op := 0x10, hd := hd.val, ha := sdesc.val, hb := sst.val } rfl rfl
    (by simp [EMat.Fits]) (by simp) (by simp [decodeEMat, EMat.fno, EMat.oflag, EMat.feBad, EMat.etBad, EMat.zBad, EMat.win, -Fin.ofNat_eq_cast]) (by simp [decodeEMat, EMat.fno, EMat.oflag, EMat.feBad, EMat.etBad, EMat.zBad, EMat.win])

theorem tfree (hd : Reg) : Statement (.tfree hd) :=
  reads_emat { op := 0x11, hd := hd.val } rfl rfl
    (by simp [EMat.Fits]) (by simp) (by simp [decodeEMat, EMat.fno, EMat.oflag, EMat.feBad, EMat.etBad, EMat.zBad, EMat.win, -Fin.ofNat_eq_cast]) (by simp [decodeEMat, EMat.fno, EMat.oflag, EMat.feBad, EMat.etBad, EMat.zBad, EMat.win])

theorem thand (hd : Reg) (st : Reg) : Statement (.thand hd st) :=
  reads_emat { op := 0x12, hd := hd.val, ha := st.val } rfl rfl
    (by simp [EMat.Fits]) (by simp) (by simp [decodeEMat, EMat.fno, EMat.oflag, EMat.feBad, EMat.etBad, EMat.zBad, EMat.win, -Fin.ofNat_eq_cast]) (by simp [decodeEMat, EMat.fno, EMat.oflag, EMat.feBad, EMat.etBad, EMat.zBad, EMat.win])

theorem ttake (hd : Reg) (se : Reg) (sst : Reg) : Statement (.ttake hd se sst) :=
  reads_emat { op := 0x13, hd := hd.val, ha := se.val, hb := sst.val } rfl rfl
    (by simp [EMat.Fits]) (by simp) (by simp [decodeEMat, EMat.fno, EMat.oflag, EMat.feBad, EMat.etBad, EMat.zBad, EMat.win, -Fin.ofNat_eq_cast]) (by simp [decodeEMat, EMat.fno, EMat.oflag, EMat.feBad, EMat.etBad, EMat.zBad, EMat.win])

theorem tdesc (hd : Reg) (sd : Reg) : Statement (.tdesc hd sd) :=
  reads_emat { op := 0x14, hd := hd.val, hb := sd.val } rfl rfl
    (by simp [EMat.Fits]) (by simp) (by simp [decodeEMat, EMat.fno, EMat.oflag, EMat.feBad, EMat.etBad, EMat.zBad, EMat.win, -Fin.ofNat_eq_cast]) (by simp [decodeEMat, EMat.fno, EMat.oflag, EMat.feBad, EMat.etBad, EMat.zBad, EMat.win])

theorem tsetd (hd : Reg) (sdesc : Reg) : Statement (.tsetd hd sdesc) :=
  reads_emat { op := 0x15, hd := hd.val, ha := sdesc.val } rfl rfl
    (by simp [EMat.Fits]) (by simp) (by simp [decodeEMat, EMat.fno, EMat.oflag, EMat.feBad, EMat.etBad, EMat.zBad, EMat.win, -Fin.ofNat_eq_cast]) (by simp [decodeEMat, EMat.fno, EMat.oflag, EMat.feBad, EMat.etBad, EMat.zBad, EMat.win])

theorem mzero (f : Option FlagNo) (hd : Reg) : Statement (.mzero f hd) :=
  reads_emat { op := 0x20, fe := (feOf f), flag := (flagOf f), hd := hd.val } rfl rfl
    (by simp [EMat.Fits]) (by simp) (by simp [decodeEMat, EMat.fno, EMat.oflag, EMat.feBad, EMat.etBad, EMat.zBad, EMat.win, -Fin.ofNat_eq_cast]) (by simp [decodeEMat, EMat.fno, EMat.oflag, EMat.feBad, EMat.etBad, EMat.zBad, EMat.win])

theorem mhfa (f : Option FlagNo) (et : MType) (hd : Reg) (ha : Reg) (hb : Reg) (x32 : Bool) (win : Option Win) : Statement (.mhfa f et hd ha hb x32 win) := by
  rcases win with _ | ⟨dy, dx⟩
  all_goals
    refine reads_emat _ rfl rfl ?_ ?_ ?_ ?_
    all_goals simp [EMat.Fits, decodeEMat, cRegForm, EMat.fno, EMat.oflag, EMat.feBad, EMat.etBad, EMat.zBad, EMat.win, fld, decide_eq_false_iff_not, -Fin.ofNat_eq_cast]

theorem mbmm (f : Option FlagNo) (rg : RungSel) (hd : Reg) (ha : Reg) (hb : Reg) (win : Option Win) : Statement (.mbmm f rg hd ha hb win) := by
  rcases win with _ | ⟨dy, dx⟩
  all_goals
    refine reads_emat _ rfl rfl ?_ ?_ ?_ ?_
    all_goals simp [EMat.Fits, decodeEMat, cRegForm, EMat.fno, EMat.oflag, EMat.feBad, EMat.etBad, EMat.zBad, EMat.win, fld, decide_eq_false_iff_not, -Fin.ofNat_eq_cast]

theorem msca (f : Option FlagNo) (hd : Reg) (ha : Reg) : Statement (.msca f hd ha) :=
  reads_emat { op := 0x23, fe := (feOf f), flag := (flagOf f), hd := hd.val, ha := ha.val, et := 3 } rfl rfl
    (by simp [EMat.Fits]) (by simp) (by simp [decodeEMat, EMat.fno, EMat.oflag, EMat.feBad, EMat.etBad, EMat.zBad, EMat.win, -Fin.ofNat_eq_cast]) (by simp [decodeEMat, EMat.fno, EMat.oflag, EMat.feBad, EMat.etBad, EMat.zBad, EMat.win])

theorem mhad (f : Option FlagNo) (et : MType) (hd : Reg) : Statement (.mhad f et hd) :=
  reads_emat { op := 0x24, fe := (feOf f), flag := (flagOf f), et := et.code, hd := hd.val } rfl rfl
    (by simp [EMat.Fits]) (by simp) (by simp [decodeEMat, EMat.fno, EMat.oflag, EMat.feBad, EMat.etBad, EMat.zBad, EMat.win, -Fin.ofNat_eq_cast]) (by simp [decodeEMat, EMat.fno, EMat.oflag, EMat.feBad, EMat.etBad, EMat.zBad, EMat.win])

theorem mdrn (f : Option FlagNo) (hd : Reg) (ha : Reg) (blk : Fin 16) : Statement (.mdrn f hd ha blk) :=
  reads_emat { op := 0x25, fe := (feOf f), flag := (flagOf f), hd := hd.val, ha := ha.val, sub := blk.val, et := 2 } rfl rfl
    (by simp [EMat.Fits]) (by simp) (by simp [decodeEMat, EMat.fno, EMat.oflag, EMat.feBad, EMat.etBad, EMat.zBad, EMat.win, -Fin.ofNat_eq_cast]) (by simp [decodeEMat, EMat.fno, EMat.oflag, EMat.feBad, EMat.etBad, EMat.zBad, EMat.win])

theorem mcvt (f : Option FlagNo) (et : MType) (hd : Reg) (ha : Reg) : Statement (.mcvt f et hd ha) :=
  reads_emat { op := 0x26, fe := (feOf f), flag := (flagOf f), et := et.code, hd := hd.val, ha := ha.val } rfl rfl
    (by simp [EMat.Fits]) (by simp) (by simp [decodeEMat, EMat.fno, EMat.oflag, EMat.feBad, EMat.etBad, EMat.zBad, EMat.win, -Fin.ofNat_eq_cast]) (by simp [decodeEMat, EMat.fno, EMat.oflag, EMat.feBad, EMat.etBad, EMat.zBad, EMat.win])

theorem madd (f : Option FlagNo) (et : MType) (hd : Reg) (ha : Reg) : Statement (.madd f et hd ha) :=
  reads_emat { op := 0x27, fe := (feOf f), flag := (flagOf f), et := et.code, hd := hd.val, ha := ha.val } rfl rfl
    (by simp [EMat.Fits]) (by simp) (by simp [decodeEMat, EMat.fno, EMat.oflag, EMat.feBad, EMat.etBad, EMat.zBad, EMat.win, -Fin.ofNat_eq_cast]) (by simp [decodeEMat, EMat.fno, EMat.oflag, EMat.feBad, EMat.etBad, EMat.zBad, EMat.win])

theorem mscl (f : Option FlagNo) (hd : Reg) (ha : Reg) (row : Bool) : Statement (.mscl f hd ha row) :=
  reads_emat { op := 0x28, fe := (feOf f), flag := (flagOf f), hd := hd.val, ha := ha.val, sub := row.toNat, et := 3 } rfl rfl
    (by simp [EMat.Fits]) (by simp) (by simp [decodeEMat, EMat.fno, EMat.oflag, EMat.feBad, EMat.etBad, EMat.zBad, EMat.win, -Fin.ofNat_eq_cast]) (by simp [decodeEMat, EMat.fno, EMat.oflag, EMat.feBad, EMat.etBad, EMat.zBad, EMat.win])

theorem msetd (f : Option FlagNo) (sa : Reg) : Statement (.msetd f sa) :=
  reads_emat { op := 0x29, fe := (feOf f), flag := (flagOf f), ha := sa.val } rfl rfl
    (by simp [EMat.Fits]) (by simp) (by simp [decodeEMat, EMat.fno, EMat.oflag, EMat.feBad, EMat.etBad, EMat.zBad, EMat.win, -Fin.ofNat_eq_cast]) (by simp [decodeEMat, EMat.fno, EMat.oflag, EMat.feBad, EMat.etBad, EMat.zBad, EMat.win])

theorem cnop : Statement .cnop := by
  intro sl h; cases h; decide

theorem sadd (d : Reg) (a : Reg) (b : Reg) : Statement (.sadd d a b) :=
  reads_creg { op := 0x01, sd := d.val, sa := a.val, sb := b.val } rfl rfl
    (by simp [CReg.Fits]) (by simp) rfl rfl (by simp [decodeCReg, CReg.zBad, -Fin.ofNat_eq_cast]) (by simp [decodeCReg, CReg.zBad])

theorem ssub (d : Reg) (a : Reg) (b : Reg) : Statement (.ssub d a b) :=
  reads_creg { op := 0x02, sd := d.val, sa := a.val, sb := b.val } rfl rfl
    (by simp [CReg.Fits]) (by simp) rfl rfl (by simp [decodeCReg, CReg.zBad, -Fin.ofNat_eq_cast]) (by simp [decodeCReg, CReg.zBad])

theorem smul (d : Reg) (a : Reg) (b : Reg) : Statement (.smul d a b) :=
  reads_creg { op := 0x03, sd := d.val, sa := a.val, sb := b.val } rfl rfl
    (by simp [CReg.Fits]) (by simp) rfl rfl (by simp [decodeCReg, CReg.zBad, -Fin.ofNat_eq_cast]) (by simp [decodeCReg, CReg.zBad])

theorem smulh (d : Reg) (a : Reg) (b : Reg) (u : Bool) : Statement (.smulh d a b u) :=
  reads_creg { op := 0x04, sd := d.val, sa := a.val, sb := b.val, sub := u.toNat } rfl rfl
    (by simp [CReg.Fits]) (by simp) rfl rfl (by simp [decodeCReg, CReg.zBad, -Fin.ofNat_eq_cast]) (by simp [decodeCReg, CReg.zBad])

theorem sdiv (d : Reg) (a : Reg) (b : Reg) (u : Bool) : Statement (.sdiv d a b u) :=
  reads_creg { op := 0x05, sd := d.val, sa := a.val, sb := b.val, sub := u.toNat } rfl rfl
    (by simp [CReg.Fits]) (by simp) rfl rfl (by simp [decodeCReg, CReg.zBad, -Fin.ofNat_eq_cast]) (by simp [decodeCReg, CReg.zBad])

theorem srem (d : Reg) (a : Reg) (b : Reg) (u : Bool) : Statement (.srem d a b u) :=
  reads_creg { op := 0x06, sd := d.val, sa := a.val, sb := b.val, sub := u.toNat } rfl rfl
    (by simp [CReg.Fits]) (by simp) rfl rfl (by simp [decodeCReg, CReg.zBad, -Fin.ofNat_eq_cast]) (by simp [decodeCReg, CReg.zBad])

theorem sand (d : Reg) (a : Reg) (b : Reg) : Statement (.sand d a b) :=
  reads_creg { op := 0x07, sd := d.val, sa := a.val, sb := b.val } rfl rfl
    (by simp [CReg.Fits]) (by simp) rfl rfl (by simp [decodeCReg, CReg.zBad, -Fin.ofNat_eq_cast]) (by simp [decodeCReg, CReg.zBad])

theorem sor (d : Reg) (a : Reg) (b : Reg) : Statement (.sor d a b) :=
  reads_creg { op := 0x08, sd := d.val, sa := a.val, sb := b.val } rfl rfl
    (by simp [CReg.Fits]) (by simp) rfl rfl (by simp [decodeCReg, CReg.zBad, -Fin.ofNat_eq_cast]) (by simp [decodeCReg, CReg.zBad])

theorem sxor (d : Reg) (a : Reg) (b : Reg) : Statement (.sxor d a b) :=
  reads_creg { op := 0x09, sd := d.val, sa := a.val, sb := b.val } rfl rfl
    (by simp [CReg.Fits]) (by simp) rfl rfl (by simp [decodeCReg, CReg.zBad, -Fin.ofNat_eq_cast]) (by simp [decodeCReg, CReg.zBad])

theorem sandn (d : Reg) (a : Reg) (b : Reg) : Statement (.sandn d a b) :=
  reads_creg { op := 0x0A, sd := d.val, sa := a.val, sb := b.val } rfl rfl
    (by simp [CReg.Fits]) (by simp) rfl rfl (by simp [decodeCReg, CReg.zBad, -Fin.ofNat_eq_cast]) (by simp [decodeCReg, CReg.zBad])

theorem sshl (d : Reg) (a : Reg) (b : Reg) : Statement (.sshl d a b) :=
  reads_creg { op := 0x0B, sd := d.val, sa := a.val, sb := b.val } rfl rfl
    (by simp [CReg.Fits]) (by simp) rfl rfl (by simp [decodeCReg, CReg.zBad, -Fin.ofNat_eq_cast]) (by simp [decodeCReg, CReg.zBad])

theorem sshr (d : Reg) (a : Reg) (b : Reg) : Statement (.sshr d a b) :=
  reads_creg { op := 0x0C, sd := d.val, sa := a.val, sb := b.val } rfl rfl
    (by simp [CReg.Fits]) (by simp) rfl rfl (by simp [decodeCReg, CReg.zBad, -Fin.ofNat_eq_cast]) (by simp [decodeCReg, CReg.zBad])

theorem ssra (d : Reg) (a : Reg) (b : Reg) : Statement (.ssra d a b) :=
  reads_creg { op := 0x0D, sd := d.val, sa := a.val, sb := b.val } rfl rfl
    (by simp [CReg.Fits]) (by simp) rfl rfl (by simp [decodeCReg, CReg.zBad, -Fin.ofNat_eq_cast]) (by simp [decodeCReg, CReg.zBad])

theorem smin (d : Reg) (a : Reg) (b : Reg) (u : Bool) : Statement (.smin d a b u) :=
  reads_creg { op := 0x0E, sd := d.val, sa := a.val, sb := b.val, sub := u.toNat } rfl rfl
    (by simp [CReg.Fits]) (by simp) rfl rfl (by simp [decodeCReg, CReg.zBad, -Fin.ofNat_eq_cast]) (by simp [decodeCReg, CReg.zBad])

theorem smax (d : Reg) (a : Reg) (b : Reg) (u : Bool) : Statement (.smax d a b u) :=
  reads_creg { op := 0x0F, sd := d.val, sa := a.val, sb := b.val, sub := u.toNat } rfl rfl
    (by simp [CReg.Fits]) (by simp) rfl rfl (by simp [decodeCReg, CReg.zBad, -Fin.ofNat_eq_cast]) (by simp [decodeCReg, CReg.zBad])

theorem scmp (cc : Cmp) (d : Reg) (a : Reg) (b : Reg) : Statement (.scmp cc d a b) :=
  reads_creg { op := 0x10, sub := cc.code, sd := d.val, sa := a.val, sb := b.val } rfl rfl
    (by simp [CReg.Fits]) (by simp) rfl rfl (by simp [decodeCReg, CReg.zBad, -Fin.ofNat_eq_cast]) (by simp [decodeCReg, CReg.zBad])

theorem ssel (d : Reg) (a : Reg) (b : Reg) (c : Reg) : Statement (.ssel d a b c) :=
  reads_creg { op := 0x11, sd := d.val, sa := a.val, sb := b.val, sc := c.val } rfl rfl
    (by simp [CReg.Fits]) (by simp) rfl rfl (by simp [decodeCReg, CReg.zBad, -Fin.ofNat_eq_cast]) (by simp [decodeCReg, CReg.zBad])

theorem spopc (d : Reg) (a : Reg) : Statement (.spopc d a) :=
  reads_creg { op := 0x12, sd := d.val, sa := a.val } rfl rfl
    (by simp [CReg.Fits]) (by simp) rfl rfl (by simp [decodeCReg, CReg.zBad, -Fin.ofNat_eq_cast]) (by simp [decodeCReg, CReg.zBad])

theorem sclz (d : Reg) (a : Reg) : Statement (.sclz d a) :=
  reads_creg { op := 0x13, sd := d.val, sa := a.val } rfl rfl
    (by simp [CReg.Fits]) (by simp) rfl rfl (by simp [decodeCReg, CReg.zBad, -Fin.ofNat_eq_cast]) (by simp [decodeCReg, CReg.zBad])

theorem sctz (d : Reg) (a : Reg) : Statement (.sctz d a) :=
  reads_creg { op := 0x14, sd := d.val, sa := a.val } rfl rfl
    (by simp [CReg.Fits]) (by simp) rfl rfl (by simp [decodeCReg, CReg.zBad, -Fin.ofNat_eq_cast]) (by simp [decodeCReg, CReg.zBad])

theorem sbfx (d : Reg) (a : Reg) (b : Reg) (sx : Bool) : Statement (.sbfx d a b sx) :=
  reads_creg { op := 0x15, sd := d.val, sa := a.val, sb := b.val, sub := sx.toNat } rfl rfl
    (by simp [CReg.Fits]) (by simp) rfl rfl (by simp [decodeCReg, CReg.zBad, -Fin.ofNat_eq_cast]) (by simp [decodeCReg, CReg.zBad])

theorem sbfi (d : Reg) (a : Reg) (b : Reg) (c : Reg) : Statement (.sbfi d a b c) :=
  reads_creg { op := 0x16, sd := d.val, sa := a.val, sb := b.val, sc := c.val } rfl rfl
    (by simp [CReg.Fits]) (by simp) rfl rfl (by simp [decodeCReg, CReg.zBad, -Fin.ofNat_eq_cast]) (by simp [decodeCReg, CReg.zBad])

theorem saddi (d : Reg) (a : Reg) (imm : BitVec 32) : Statement (.saddi d a imm) :=
  reads_cimm { op := 0x18, sd := d.val, sa := a.val, imm := imm.toNat } rfl rfl
    (by simp [CImm.Fits]) (by simp) (by simp [cRegForm]) rfl (by simp [decodeCImm, -Fin.ofNat_eq_cast]) (by simp [decodeCImm])

theorem sandi (d : Reg) (a : Reg) (imm : BitVec 32) : Statement (.sandi d a imm) :=
  reads_cimm { op := 0x19, sd := d.val, sa := a.val, imm := imm.toNat } rfl rfl
    (by simp [CImm.Fits]) (by simp) (by simp [cRegForm]) rfl (by simp [decodeCImm, -Fin.ofNat_eq_cast]) (by simp [decodeCImm])

theorem sori (d : Reg) (a : Reg) (imm : BitVec 32) : Statement (.sori d a imm) :=
  reads_cimm { op := 0x1A, sd := d.val, sa := a.val, imm := imm.toNat } rfl rfl
    (by simp [CImm.Fits]) (by simp) (by simp [cRegForm]) rfl (by simp [decodeCImm, -Fin.ofNat_eq_cast]) (by simp [decodeCImm])

theorem sxori (d : Reg) (a : Reg) (imm : BitVec 32) : Statement (.sxori d a imm) :=
  reads_cimm { op := 0x1B, sd := d.val, sa := a.val, imm := imm.toNat } rfl rfl
    (by simp [CImm.Fits]) (by simp) (by simp [cRegForm]) rfl (by simp [decodeCImm, -Fin.ofNat_eq_cast]) (by simp [decodeCImm])

theorem sli (d : Reg) (imm : BitVec 32) : Statement (.sli d imm) :=
  reads_cimm { op := 0x1C, sd := d.val, imm := imm.toNat } rfl rfl
    (by simp [CImm.Fits]) (by simp) (by simp [cRegForm]) rfl (by simp [decodeCImm, -Fin.ofNat_eq_cast]) (by simp [decodeCImm])

theorem slih (d : Reg) (a : Reg) (imm : BitVec 32) : Statement (.slih d a imm) :=
  reads_cimm { op := 0x1D, sd := d.val, sa := a.val, imm := imm.toNat } rfl rfl
    (by simp [CImm.Fits]) (by simp) (by simp [cRegForm]) rfl (by simp [decodeCImm, -Fin.ofNat_eq_cast]) (by simp [decodeCImm])

theorem sshli (d : Reg) (a : Reg) (n : Fin 64) : Statement (.sshli d a n) :=
  reads_cimm { op := 0x1E, sd := d.val, sa := a.val, imm := n.val } rfl rfl
    (by simp [CImm.Fits]) (by simp) (by simp [cRegForm]) rfl (by simp [decodeCImm, -Fin.ofNat_eq_cast]) (by simp [decodeCImm])

theorem sshri (d : Reg) (a : Reg) (n : Fin 64) (ar : Bool) : Statement (.sshri d a n ar) :=
  reads_cimm { op := 0x1F, sd := d.val, sa := a.val, imm := n.val, sub := ar.toNat } rfl rfl
    (by simp [CImm.Fits]) (by simp) (by simp [cRegForm]) rfl (by simp [decodeCImm, -Fin.ofNat_eq_cast]) (by simp [decodeCImm])

theorem sget (d : Reg) (n : BitVec 8) : Statement (.sget d n) :=
  reads_cimm { op := 0x20, sd := d.val, imm := n.toNat } rfl rfl
    (by simp [CImm.Fits]) (by simp) (by simp [cRegForm]) rfl (by simp [decodeCImm, -Fin.ofNat_eq_cast]) (by simp [decodeCImm])

theorem sset (n : BitVec 8) (a : Reg) : Statement (.sset n a) :=
  reads_cimm { op := 0x21, imm := n.toNat, sa := a.val } rfl rfl
    (by simp [CImm.Fits]) (by simp) (by simp [cRegForm]) rfl (by simp [decodeCImm, -Fin.ofNat_eq_cast]) (by simp [decodeCImm])

theorem emset (a : Reg) : Statement (.emset a) :=
  reads_creg { op := 0x24, sa := a.val } rfl rfl
    (by simp [CReg.Fits]) (by simp) rfl rfl (by simp [decodeCReg, CReg.zBad, -Fin.ofNat_eq_cast]) (by simp [decodeCReg, CReg.zBad])

theorem emand (d : Reg) (a : Reg) : Statement (.emand d a) :=
  reads_creg { op := 0x25, sd := d.val, sa := a.val } rfl rfl
    (by simp [CReg.Fits]) (by simp) rfl rfl (by simp [decodeCReg, CReg.zBad, -Fin.ofNat_eq_cast]) (by simp [decodeCReg, CReg.zBad])

theorem emget (d : Reg) : Statement (.emget d) :=
  reads_creg { op := 0x26, sd := d.val } rfl rfl
    (by simp [CReg.Fits]) (by simp) rfl rfl (by simp [decodeCReg, CReg.zBad, -Fin.ofNat_eq_cast]) (by simp [decodeCReg, CReg.zBad])

theorem exit (m : Option Reg) : Statement (.exit m) := by
  rcases m with _ | q
  all_goals
    refine reads_creg _ rfl rfl ?_ ?_ ?_ ?_ ?_ ?_
    all_goals simp [CReg.Fits, decodeCReg, cRegForm, CReg.zBad, fld, decide_eq_false_iff_not, -Fin.ofNat_eq_cast]

theorem br (off : BitVec 32) : Statement (.br off) :=
  reads_cimm { op := 0x30, imm := off.toNat } rfl rfl
    (by simp [CImm.Fits]) (by simp) (by simp [cRegForm]) rfl (by simp [decodeCImm, -Fin.ofNat_eq_cast]) (by simp [decodeCImm])

theorem bc (cc : BCond) (cr : Reg) (off : BitVec 32) : Statement (.bc cc cr off) :=
  reads_cimm { op := 0x31, sub := cc.code, sa := cr.val, imm := off.toNat } rfl rfl
    (by simp [CImm.Fits]) (by simp) (by simp [cRegForm]) rfl (by simp [decodeCImm, -Fin.ofNat_eq_cast]) (by simp [decodeCImm])

theorem bzm (off : BitVec 32) : Statement (.bzm off) :=
  reads_cimm { op := 0x32, imm := off.toNat } rfl rfl
    (by simp [CImm.Fits]) (by simp) (by simp [cRegForm]) rfl (by simp [decodeCImm, -Fin.ofNat_eq_cast]) (by simp [decodeCImm])

theorem jr (a : Reg) (kind : Fin 16) : Statement (.jr a kind) :=
  reads_creg { op := 0x33, sa := a.val, sub := kind.val } rfl rfl
    (by simp [CReg.Fits]) (by simp) rfl rfl (by simp [decodeCReg, CReg.zBad, -Fin.ofNat_eq_cast]) (by simp [decodeCReg, CReg.zBad])

theorem call (d : Reg) (off : BitVec 32) : Statement (.call d off) :=
  reads_cimm { op := 0x34, sd := d.val, imm := off.toNat } rfl rfl
    (by simp [CImm.Fits]) (by simp) (by simp [cRegForm]) rfl (by simp [decodeCImm, -Fin.ofNat_eq_cast]) (by simp [decodeCImm])

theorem callr (d : Reg) (a : Reg) (kind : Fin 16) : Statement (.callr d a kind) :=
  reads_creg { op := 0x35, sd := d.val, sa := a.val, sub := kind.val } rfl rfl
    (by simp [CReg.Fits]) (by simp) rfl rfl (by simp [decodeCReg, CReg.zBad, -Fin.ofNat_eq_cast]) (by simp [decodeCReg, CReg.zBad])

theorem ret (a : Reg) : Statement (.ret a) :=
  reads_creg { op := 0x36, sa := a.val } rfl rfl
    (by simp [CReg.Fits]) (by simp) rfl rfl (by simp [decodeCReg, CReg.zBad, -Fin.ofNat_eq_cast]) (by simp [decodeCReg, CReg.zBad])

theorem lpad (kind : Fin 16) : Statement (.lpad kind) :=
  reads_cimm { op := 0x37, sub := kind.val } rfl rfl
    (by simp [CImm.Fits]) (by simp) (by simp [cRegForm]) rfl (by simp [decodeCImm, -Fin.ofNat_eq_cast]) (by simp [decodeCImm])

theorem loop (lvl : Fin 2) (cr : Reg) (off : BitVec 32) : Statement (.loop lvl cr off) :=
  reads_cimm { op := 0x38, sub := lvl.val, sa := cr.val, imm := off.toNat } rfl rfl
    (by simp [CImm.Fits]) (by simp) (by simp [cRegForm]) rfl (by simp [decodeCImm, -Fin.ofNat_eq_cast]) (by simp [decodeCImm])

theorem loopi (lvl : Fin 2) (cnt : BitVec 16) (fin : BitVec 16) : Statement (.loopi lvl cnt fin) :=
  reads_cimm { op := 0x39, sub := lvl.val, imm := (cnt.toNat * 65536 + fin.toNat) } rfl rfl
    (by simp [CImm.Fits, loopi_back]) (by simp) (by simp [cRegForm]) rfl (by simp [decodeCImm, CImm.word, loopi_back, -Fin.ofNat_eq_cast]) (by simp [decodeCImm, CImm.word, loopi_back])

theorem loopx (lvl : Fin 2) : Statement (.loopx lvl) :=
  reads_creg { op := 0x3A, sub := lvl.val } rfl rfl
    (by simp [CReg.Fits]) (by simp) rfl rfl (by simp [decodeCReg, CReg.zBad, -Fin.ofNat_eq_cast]) (by simp [decodeCReg, CReg.zBad])

theorem waitf (t : Option WaitArg) : Statement (.waitf t) := by
  rcases t with _ | ⟨q, n⟩
  all_goals
    refine reads_creg _ rfl rfl ?_ ?_ ?_ ?_ ?_ ?_
    all_goals simp [CReg.Fits, decodeCReg, cRegForm, CReg.zBad, fld, decide_eq_false_iff_not, -Fin.ofNat_eq_cast]

theorem yield  : Statement (.yield ) :=
  reads_creg { op := 0x41 } rfl rfl
    (by simp [CReg.Fits]) (by simp) rfl rfl (by simp [decodeCReg, CReg.zBad, -Fin.ofNat_eq_cast]) (by simp [decodeCReg, CReg.zBad])

theorem bjoin (a : Reg) (imm : BitVec 32) : Statement (.bjoin a imm) :=
  reads_cimm { op := 0x42, sa := a.val, imm := imm.toNat } rfl rfl
    (by simp [CImm.Fits]) (by simp) (by simp [cRegForm]) rfl (by simp [decodeCImm, -Fin.ofNat_eq_cast]) (by simp [decodeCImm])

theorem bleave (a : Reg) (imm : BitVec 32) : Statement (.bleave a imm) :=
  reads_cimm { op := 0x43, sa := a.val, imm := imm.toNat } rfl rfl
    (by simp [CImm.Fits]) (by simp) (by simp [cRegForm]) rfl (by simp [decodeCImm, -Fin.ofNat_eq_cast]) (by simp [decodeCImm])

theorem barv (a : Reg) (imm : BitVec 32) : Statement (.barv a imm) :=
  reads_cimm { op := 0x44, sa := a.val, imm := imm.toNat } rfl rfl
    (by simp [CImm.Fits]) (by simp) (by simp [cRegForm]) rfl (by simp [decodeCImm, -Fin.ofNat_eq_cast]) (by simp [decodeCImm])

theorem bwait (a : Reg) (imm : BitVec 32) : Statement (.bwait a imm) :=
  reads_cimm { op := 0x45, sa := a.val, imm := imm.toNat } rfl rfl
    (by simp [CImm.Fits]) (by simp) (by simp [cRegForm]) rfl (by simp [decodeCImm, -Fin.ofNat_eq_cast]) (by simp [decodeCImm])

theorem bsync (a : Reg) (imm : BitVec 32) : Statement (.bsync a imm) :=
  reads_cimm { op := 0x46, sa := a.val, imm := imm.toNat } rfl rfl
    (by simp [CImm.Fits]) (by simp) (by simp [cRegForm]) rfl (by simp [decodeCImm, -Fin.ofNat_eq_cast]) (by simp [decodeCImm])

theorem sent  : Statement (.sent ) :=
  reads_creg { op := 0x47 } rfl rfl
    (by simp [CReg.Fits]) (by simp) rfl rfl (by simp [decodeCReg, CReg.zBad, -Fin.ofNat_eq_cast]) (by simp [decodeCReg, CReg.zBad])

theorem sentClose  : Statement (.sentClose ) :=
  reads_creg { op := 0x47, sub := 1 } rfl rfl
    (by simp [CReg.Fits]) (by simp) rfl rfl (by simp [decodeCReg, CReg.zBad, -Fin.ofNat_eq_cast]) (by simp [decodeCReg, CReg.zBad])

theorem step (a : Reg) : Statement (.step a) :=
  reads_creg { op := 0x48, sa := a.val } rfl rfl
    (by simp [CReg.Fits]) (by simp) rfl rfl (by simp [decodeCReg, CReg.zBad, -Fin.ofNat_eq_cast]) (by simp [decodeCReg, CReg.zBad])

theorem trap (imm : BitVec 16) : Statement (.trap imm) :=
  reads_cimm { op := 0x50, imm := imm.toNat } rfl rfl
    (by simp [CImm.Fits]) (by simp) (by simp [cRegForm]) rfl (by simp [decodeCImm, -Fin.ofNat_eq_cast]) (by simp [decodeCImm])

theorem rft  : Statement (.rft ) :=
  reads_creg { op := 0x51 } rfl rfl
    (by simp [CReg.Fits]) (by simp) rfl rfl (by simp [decodeCReg, CReg.zBad, -Fin.ofNat_eq_cast]) (by simp [decodeCReg, CReg.zBad])

theorem tfrd (d : Reg) (a : Reg) (imm : BitVec 32) : Statement (.tfrd d a imm) :=
  reads_cimm { op := 0x52, sd := d.val, sa := a.val, imm := imm.toNat } rfl rfl
    (by simp [CImm.Fits]) (by simp) (by simp [cRegForm]) rfl (by simp [decodeCImm, -Fin.ofNat_eq_cast]) (by simp [decodeCImm])

theorem tfwr (v : Reg) (a : Reg) (imm : BitVec 32) : Statement (.tfwr v a imm) :=
  reads_cimm { op := 0x53, sd := v.val, sa := a.val, imm := imm.toNat } rfl rfl
    (by simp [CImm.Fits]) (by simp) (by simp [cRegForm]) rfl (by simp [decodeCImm, -Fin.ofNat_eq_cast]) (by simp [decodeCImm])

theorem brk (imm : BitVec 12) : Statement (.brk imm) :=
  reads_cimm { op := 0x54, imm := imm.toNat } rfl rfl
    (by simp [CImm.Fits]) (by simp) (by simp [cRegForm]) rfl (by simp [decodeCImm, -Fin.ofNat_eq_cast]) (by simp [decodeCImm])

theorem haltw  : Statement (.haltw ) :=
  reads_creg { op := 0x55 } rfl rfl
    (by simp [CReg.Fits]) (by simp) rfl rfl (by simp [decodeCReg, CReg.zBad, -Fin.ofNat_eq_cast]) (by simp [decodeCReg, CReg.zBad])

theorem bundleIssue (core : Nat) : Statement (.bundleIssue core) := fun _ h => nomatch h

theorem resultWriteback (core : Nat) : Statement (.resultWriteback core) := fun _ h => nomatch h

theorem asyncResultWrite (core : Nat) (id : Nat) : Statement (.asyncResultWrite core id) := fun _ h => nomatch h

theorem accessComplete (core : Nat) (id : Nat) : Statement (.accessComplete core id) := fun _ h => nomatch h

theorem trapDelivery (wid : Nat) : Statement (.trapDelivery wid) := fun _ h => nomatch h

theorem sentenceRestart (wid : Nat) : Statement (.sentenceRestart wid) := fun _ h => nomatch h

theorem lockstepDisagreement (wid : Nat) : Statement (.lockstepDisagreement wid) := fun _ h => nomatch h

theorem warpSwitch (core : Nat) : Statement (.warpSwitch core) := fun _ h => nomatch h

theorem quantumExpiry (core : Nat) : Statement (.quantumExpiry core) := fun _ h => nomatch h

theorem holdtmo (core : Nat) : Statement (.holdtmo core) := fun _ h => nomatch h

theorem waitfWake (wid : Nat) : Statement (.waitfWake wid) := fun _ h => nomatch h

theorem barrierRelease (cid : Nat) (b : Nat) : Statement (.barrierRelease cid b) := fun _ h => nomatch h

theorem fifoOpResume (core : Nat) : Statement (.fifoOpResume core) := fun _ h => nomatch h

theorem phaseDrainEnd (cid : Nat) : Statement (.phaseDrainEnd cid) := fun _ h => nomatch h

theorem warpResourceRelease (wid : Nat) : Statement (.warpResourceRelease wid) := fun _ h => nomatch h

theorem slotClearDone (core : Nat) (slot : Nat) : Statement (.slotClearDone core slot) := fun _ h => nomatch h

theorem vtwrCommit (core : Nat) : Statement (.vtwrCommit core) := fun _ h => nomatch h

theorem matrixEntryStart (core : Nat) : Statement (.matrixEntryStart core) := fun _ h => nomatch h

theorem mbmmPassEnd (core : Nat) (id : Nat) : Statement (.mbmmPassEnd core id) := fun _ h => nomatch h

theorem matrixEntryFinish (core : Nat) (id : Nat) : Statement (.matrixEntryFinish core id) := fun _ h => nomatch h

theorem copyComplete (core : Nat) (id : Nat) : Statement (.copyComplete core id) := fun _ h => nomatch h

theorem copySuspend (core : Nat) (id : Nat) : Statement (.copySuspend core id) := fun _ h => nomatch h

theorem cpypFlitArrival (core : Nat) (id : Nat) : Statement (.cpypFlitArrival core id) := fun _ h => nomatch h

theorem signalRecordAppend (core : Nat) (slot : Nat) : Statement (.signalRecordAppend core slot) := fun _ h => nomatch h

theorem lineRequest (core : Nat) (id : Nat) : Statement (.lineRequest core id) := fun _ h => nomatch h

theorem l2Atomic (core : Nat) (id : Nat) : Statement (.l2Atomic core id) := fun _ h => nomatch h

theorem pinRetryReplay (line : Nat) : Statement (.pinRetryReplay line) := fun _ h => nomatch h

theorem pinTimeout (line : Nat) : Statement (.pinTimeout line) := fun _ h => nomatch h

theorem l2Writeback (g : Nat) : Statement (.l2Writeback g) := fun _ h => nomatch h

theorem eccWriteback (g : Nat) : Statement (.eccWriteback g) := fun _ h => nomatch h

theorem scrub (g : Nat) : Statement (.scrub g) := fun _ h => nomatch h

theorem heartbeatReceived (stack : Nat) : Statement (.heartbeatReceived stack) := fun _ h => nomatch h

theorem heartbeatMiss (stack : Nat) : Statement (.heartbeatMiss stack) := fun _ h => nomatch h

theorem stackFailed (stack : Nat) : Statement (.stackFailed stack) := fun _ h => nomatch h

theorem stackRetrainDone (stack : Nat) : Statement (.stackRetrainDone stack) := fun _ h => nomatch h

theorem tlbWalkStart (core : Nat) (ctx : Nat) (va : Nat) : Statement (.tlbWalkStart core ctx va) := fun _ h => nomatch h

theorem walkComplete (die : Nat) (ctx : Nat) (va : Nat) : Statement (.walkComplete die ctx va) := fun _ h => nomatch h

theorem tierPromote (ctx : Nat) (p : TierMove) : Statement (.tierPromote ctx p) := fun _ h => nomatch h

theorem migrationComplete (ctx : Nat) (va : Nat) : Statement (.migrationComplete ctx va) := fun _ h => nomatch h

theorem migrationNodeFailure (ctx : Nat) (va : Nat) : Statement (.migrationNodeFailure ctx va) := fun _ h => nomatch h

theorem wcAgeDrain (core : Nat) (id : Nat) : Statement (.wcAgeDrain core id) := fun _ h => nomatch h

theorem linkTrain (trunk : Nat) (r : TrainResult) : Statement (.linkTrain trunk r) := fun _ h => nomatch h

theorem laneStateChange (lane : Nat) (m : LaneMargin) : Statement (.laneStateChange lane m) := fun _ h => nomatch h

theorem laneRetire (lane : Nat) : Statement (.laneRetire lane) := fun _ h => nomatch h

theorem pathDown (path : Nat) : Statement (.pathDown path) := fun _ h => nomatch h

theorem retransmit (path : Nat) : Statement (.retransmit path) := fun _ h => nomatch h

theorem remoteRequestArrival (q : RemReq) : Statement (.remoteRequestArrival q) := fun _ h => nomatch h

theorem streamResume (st : Stream) : Statement (.streamResume st) := fun _ h => nomatch h

theorem streamAbort (st : Stream) : Statement (.streamAbort st) := fun _ h => nomatch h

theorem remoteReply (rid : Nat) (ans : Answer) : Statement (.remoteReply rid ans) := fun _ h => nomatch h

theorem drcExpire (port : Nat) : Statement (.drcExpire port) := fun _ h => nomatch h

theorem waveStart (job : Nat) : Statement (.waveStart job) := fun _ h => nomatch h

theorem waveEnd (job : Nat) (p1 : WaveSum) (p2 : WaveSum) : Statement (.waveEnd job p1 p2) := fun _ h => nomatch h

theorem qtmoExpiry (core : Nat) (id : Nat) : Statement (.qtmoExpiry core id) := fun _ h => nomatch h

theorem participantTimeout (job : Nat) (p : Member) : Statement (.participantTimeout job p) := fun _ h => nomatch h

theorem nodeFailure (node : Nat) : Statement (.nodeFailure node) := fun _ h => nomatch h

theorem gangPlace (part : Nat) (p : Placement) : Statement (.gangPlace part p) := fun _ h => nomatch h

theorem launchComplete (uid : Nat) : Statement (.launchComplete uid) := fun _ h => nomatch h

theorem watchdogExpiry (uid : Nat) : Statement (.watchdogExpiry uid) := fun _ h => nomatch h

theorem stubRedirect (ctx : Nat) (stub : Nat) (off : BitVec 32) : Statement (.stubRedirect ctx stub off) := fun _ h => nomatch h

theorem powerOn (t : SelfTest) : Statement (.powerOn t) := fun _ h => nomatch h

theorem inputDisconnect (volts : Nat) : Statement (.inputDisconnect volts) := fun _ h => nomatch h

theorem railSample (rail : Nat) (r : RailValue) : Statement (.railSample rail r) := fun _ h => nomatch h

theorem fluxEstimate (die : Nat) (flux : Nat) (pwr : Nat) : Statement (.fluxEstimate die flux pwr) := fun _ h => nomatch h

theorem backstop (die : Nat) : Statement (.backstop die) := fun _ h => nomatch h

theorem caddyExtInterrupt (die : Nat) : Statement (.caddyExtInterrupt die) := fun _ h => nomatch h

theorem caddyTimerInterrupt (die : Nat) : Statement (.caddyTimerInterrupt die) := fun _ h => nomatch h

theorem alertClear (die : Nat) (w : AlertWrite) : Statement (.alertClear die w) := fun _ h => nomatch h

theorem throtWrite (die : Nat) (g : Nat) (val : Word) : Statement (.throtWrite die g val) := fun _ h => nomatch h

theorem capfluxWrite (die : Nat) (val : Word) : Statement (.capfluxWrite die val) := fun _ h => nomatch h

theorem pcapWrite (die : Nat) (val : Word) : Statement (.pcapWrite die val) := fun _ h => nomatch h

theorem powerRegWrite (die : Nat) (off : Nat) (val : Word) : Statement (.powerRegWrite die off val) := fun _ h => nomatch h

theorem otherDatagram (d : Datagram) : Statement (.otherDatagram d) := fun _ h => nomatch h

theorem session (k : Hdr) : Statement (.session k) := fun _ h => nomatch h

theorem ctxnew (k : Hdr) (ctx : Nat) (root : Nat) : Statement (.ctxnew k ctx root) := fun _ h => nomatch h

theorem ctxend (k : Hdr) (ctx : Nat) : Statement (.ctxend k ctx) := fun _ h => nomatch h

theorem map (k : Hdr) (ctx : Nat) (r : MapReq) : Statement (.map k ctx r) := fun _ h => nomatch h

theorem unmap (k : Hdr) (ctx : Nat) (va : Nat) (pages : Nat) (sz : PageSize) : Statement (.unmap k ctx va pages sz) := fun _ h => nomatch h

theorem write (k : Hdr) (ctx : Nat) (va : Nat) (data : List Byte) : Statement (.write k ctx va data) := fun _ h => nomatch h

theorem read (k : Hdr) (ctx : Nat) (va : Nat) (len : Nat) : Statement (.read k ctx va len) := fun _ h => nomatch h

theorem modload (k : Hdr) (ctx : Nat) (m : ModuleImage) : Statement (.modload k ctx m) := fun _ h => nomatch h

theorem hostLaunch (k : Hdr) (q : Nat) (b : LaunchBatch) : Statement (.hostLaunch k q b) := fun _ h => nomatch h

theorem queueCreate (k : Hdr) (q : Nat) (part : Nat) (level : Nat) (cap : Nat) : Statement (.queueCreate k q part level cap) := fun _ h => nomatch h

theorem queueBind (k : Hdr) (q : Nat) (part : Nat) : Statement (.queueBind k q part) := fun _ h => nomatch h

theorem queueEnd (k : Hdr) (q : Nat) : Statement (.queueEnd k q) := fun _ h => nomatch h

theorem queueSet (k : Hdr) (q : Nat) (level : Nat) (cap : Nat) (wdt : Nat) : Statement (.queueSet k q level cap wdt) := fun _ h => nomatch h

theorem part (k : Hdr) (ps : List PartReq) : Statement (.part k ps) := fun _ h => nomatch h

theorem preempt (k : Hdr) (gang : Nat) : Statement (.preempt k gang) := fun _ h => nomatch h

theorem resume (k : Hdr) (gang : Nat) (p : Placement) : Statement (.resume k gang p) := fun _ h => nomatch h

theorem reset (k : Hdr) (t : SelfTest) : Statement (.reset k t) := fun _ h => nomatch h

theorem qfix (k : Hdr) (job : Nat) (r : QfixReq) : Statement (.qfix k job r) := fun _ h => nomatch h

theorem stackcfg (k : Hdr) (stack : Nat) (ratio : LaneRatio) : Statement (.stackcfg k stack ratio) := fun _ h => nomatch h

theorem window (k : Hdr) (win : Nat) (w0 : Word) (w1 : Word) (path : Nat) (alt : Option Nat) : Statement (.window k win w0 w1 path alt) := fun _ h => nomatch h

theorem telem (k : Hdr) (what : TelemSel) : Statement (.telem k what) := fun _ h => nomatch h

theorem attest (k : Hdr) (nonce : BitVec 256) : Statement (.attest k nonce) := fun _ h => nomatch h

theorem power (k : Hdr) (die : Nat) (pcap : Nat) (capflux : Nat) : Statement (.power k die pcap capflux) := fun _ h => nomatch h

theorem fjodyDebug (k : Hdr) (cmd : DbgCmd) : Statement (.fjodyDebug k cmd) := fun _ h => nomatch h

theorem landingPadCheck (wid : Nat) : Statement (.landingPadCheck wid) := fun _ h => nomatch h

theorem inflightReplay (wid : Nat) : Statement (.inflightReplay wid) := fun _ h => nomatch h

theorem refreshHandBack (stack : Nat) : Statement (.refreshHandBack stack) := fun _ h => nomatch h

theorem registerParticipantSet (job : Nat) (set : MemberList) : Statement (.registerParticipantSet job set) := fun _ h => nomatch h

theorem softError (e : ErrSite) : Statement (.softError e) := fun _ h => nomatch h

end Sys2Proof.Laws.Encoding
end

