-- ==== Sys2Proof/Laws/Slot.lean ====
section
/-! SUPPORT. What an instruction's own effect comes to once its bundle has closed: results of the next cycle are written,
later ones stay in flight, an update of other parts of the warp stands. -/

namespace Sys2Proof.Machine

/-! ## The close, by kind of effect -/

theorem goOn_fly_now {u : State} {f : Flight} {n : Word} {k : Nat} (h : f.due = u.now + k) :
    (u.fly f).goOn (u.fly f).w n k = (u.goOn u.w n k).onW fun w => w.wrDest f := by
  have hg : (u.fly f).going (u.fly f).w n k = (u.going u.w n k).fly f := rfl
  unfold State.goOn
  rw [hg]
  exact fly_advance_now (s := u.going u.w n k) h (Nat.le_add_right _ _)

theorem goOn_fly_later {u : State} {f : Flight} {n : Word} {k : Nat} (h : u.now + k < f.due) :
    (u.fly f).goOn (u.fly f).w n k = (u.goOn u.w n k).fly f := by
  have hg : (u.fly f).going (u.fly f).w n k = (u.going u.w n k).fly f := rfl
  have hm : max u.now (u.now + k) = u.now + k := Nat.max_eq_right (Nat.le_add_right _ _)
  unfold State.goOn
  rw [hg]
  refine fly_advance_later (s := u.going u.w n k) ?_
  show max u.now (u.now + k) < f.due
  omega

theorem goOn_flyAll_later {l : List Flight} {u : State} {n : Word} {k : Nat} (h : ∀ f ∈ l, u.now + k < f.due) :
    (u.flyAll l).goOn (u.flyAll l).w n k = (u.goOn u.w n k).flyAll l := by
  induction l generalizing u with
  | nil => rfl
  | cons f l ih =>
    have hf : u.now + k < f.due := h f (by simp)
    show ((u.fly f).flyAll l).goOn ((u.fly f).flyAll l).w n k = _
    rw [ih (u := u.fly f) (fun g hg => h g (by simp [hg])), goOn_fly_later hf]; rfl

/-- An update that touches neither what falls due nor the sequencing stands after the close. -/
theorem goOn_aside {f : Warp → Warp} (hf : Aside f)
    (hp : ∀ (w : Warp) a b c, f { w with pc := a, nextIssue := b, lastIssue := c } = { f w with pc := a, nextIssue := b, lastIssue := c })
    (u : State) (n : Word) (k : Nat) : (u.onW f).goOn (f u.w) n k = (u.goOn u.w n k).onW f := by
  have hg : (u.onW f).going (f u.w) n k = (u.going u.w n k).onW f := by
    have h := hp u.w n (u.now + k) (u.now + 1)
    simp only [State.going, State.onW]
    rw [h]; rfl
  unfold State.goOn
  rw [hg]
  exact hf.advance _ _

/-- The loop-end action changes nothing but the loop counts. -/
theorem loopEnd_eq (w : Warp) (pc : Word) : ∃ a b, (w.loopEnd pc).1 = { w with lpc0 := a, lpc1 := b } := by
  unfold Warp.loopEnd
  dsimp only
  split
  · split
    · split
      · split
        · exact ⟨_, _, rfl⟩
        · exact ⟨_, _, rfl⟩
      · exact ⟨_, _, rfl⟩
    · exact ⟨_, _, rfl⟩
  · split
    · split
      · exact ⟨_, _, rfl⟩
      · exact ⟨_, _, rfl⟩
    · exact ⟨w.lpc0, w.lpc1, rfl⟩

/-! ## An instruction alone in its bundle -/

/-- What stands against an instruction at an undisturbed boundary: nothing. -/
structure Clear (i : Instr) (op : SlotOp) (s : State) : Prop where
  calm : s.calm = true
  admits : s.admits i = true
  causes : op.causes s = []
  hold : op.hold s = none
  bad : op.bad s = none
  flag : s.overFull op.flag.toList = false

/-- The bundle under issue, as its instruction's effect finds it. -/
def State.issOf (s : State) (next : Word) : Issue := { pc := s.w.pc, next := next, t := s.now, gap := 0, ys := false, yielded := false }

theorem Clear.commits {i : Instr} {op : SlotOp} {s : State} {sl : Slot} (h : Clear i op s) (hs : i.slot = some sl) :
    issueOne i op s = .next (((oneBun i op).commit s).afterCommit s.w.id) :=
  issue_commits h.calm h.admits h.causes h.hold h.bad (by rw [oneBun_flags hs]; exact h.flag)

/-- A V, M or E instruction: its effect, and the machine one bundle on. -/
theorem exec_vme {i : Instr} {op : SlotOp} {s E : State} {sl : Slot} (h : Clear i op s) (hs : i.slot = some sl) (hsl : sl ≠ .C)
    (hE : op.effect (s.begun op s.nextPc) = { E with iss := s.issOf s.nextPc }) (hrun : E.w.run = .ready) (hnow : E.now = s.now)
    (hpc : E.w.pc = s.w.pc) (hnext : E.nextPc = s.nextPc) (has : E.asyncCauses = []) : issueOne i op s = .next E.stepOn := by
  rw [h.commits hs]
  obtain ⟨heff, htk⟩ := effects_vme (op := op) s hs hsl
  rw [hE] at heff
  obtain ⟨a, b, hl⟩ := loopEnd_eq E.w s.w.pc
  rw [commit_goes_on (next := s.nextPc) (calm_iff h.calm) heff htk (by simp [State.onW, hl, hrun]) rfl hnow ?_]
  · unfold State.stepOn
    rw [← hnext, hpc]
    simp only [State.nextPc, hpc]
    rfl
  · refine async_nil has ?_ ?_ ?_ rfl <;> simp [State.onW, hl]

/-- A C instruction that transfers no control and whose effect is an update of the warp that the clock does not touch. -/
theorem exec_c {i : Instr} {op : SlotOp} {s : State} {f : Warp → Warp} (h : Clear i op s) (hs : i.slot = some .C)
    (hn : op.next s = none)
    (hE : op.effect ((s.begun op s.nextPc).onW fun w => (w.loopEnd s.w.pc).1) =
      (({ s with iss := s.issOf s.nextPc }.onW fun w => (w.loopEnd s.w.pc).1).onW f))
    (hf : Aside f)
    (hp : ∀ (w : Warp) a b c, f { w with pc := a, nextIssue := b, lastIssue := c } = { f w with pc := a, nextIssue := b, lastIssue := c })
    (hk : ∀ w, (f w).run = w.run ∧ (f w).id = w.id ∧ (f w).hm = w.hm ∧ (f w).pend = w.pend) :
    issueOne i op s = .next (s.stepOn.onW f) := by
  rw [h.commits hs]
  obtain ⟨heff, htk⟩ := effects_c (op := op) hs hn
  rw [hE] at heff
  have hc := calm_iff h.calm
  obtain ⟨a, b, hl⟩ := loopEnd_eq s.w s.w.pc
  rw [commit_goes_on (next := s.nextPc) hc heff htk (by simp [State.onW, hl, hk, hc.run]) rfl rfl ?_]
  · have := goOn_aside hf hp (({ s with iss := s.issOf s.nextPc }.onW fun w => (w.loopEnd s.w.pc).1)) s.nextPc 1
    exact congrArg _ this
  · refine async_nil hc.async ?_ ?_ ?_ rfl <;> simp [State.onW, hl, hk]

/-- A C instruction of latency 1: its scalar result is written as the next bundle issues. -/
theorem exec_c_scalar {i : Instr} {op : SlotOp} {s : State} {d : Reg} {x : Word} (h : Clear i op s) (hs : i.slot = some .C)
    (hn : op.next s = none)
    (hE : op.effect ((s.begun op s.nextPc).onW fun w => (w.loopEnd s.w.pc).1) =
      (({ s with iss := s.issOf s.nextPc }.onW fun w => (w.loopEnd s.w.pc).1).sLater 1 d x)) :
    issueOne i op s = .next (s.stepOn.onW fun w => w.wrS d.val x) := by
  rw [h.commits hs]
  obtain ⟨heff, htk⟩ := effects_c (op := op) hs hn
  rw [hE] at heff
  have hc := calm_iff h.calm
  obtain ⟨a, b, hl⟩ := loopEnd_eq s.w s.w.pc
  have hd : ∀ u : State, u.sLater 1 d x = if d.val = 0 then u else u.fly { due := u.now + 1, dst := .s d.val, mask := 0, lanes := [], word := x } := by
    intro u; rfl
  rw [hd] at heff
  by_cases h0 : d.val = 0
  · rw [if_pos h0] at heff
    rw [commit_goes_on (next := s.nextPc) hc heff htk (by simp [State.onW, hl, hc.run]) rfl rfl ?_]
    · simp only [Warp.wrS, h0, if_true]; rfl
    · refine async_nil hc.async ?_ ?_ ?_ rfl <;> simp [State.onW, hl]
  · rw [if_neg h0] at heff
    rw [commit_goes_on (next := s.nextPc) hc heff htk (by simp [State.fly, State.onW, hl, hc.run]) rfl rfl ?_]
    · simp only [Bool.false_eq_true, if_false]
      rw [goOn_fly_now rfl]
      have hw : ∀ w : Warp, w.wrDest { due := s.now + 1, dst := .s d.val, mask := 0, lanes := [], word := x } = w.wrS d.val x := fun w => wrDest_same rfl w
      exact congrArg (fun g => Host.Outcome.next (State.onW _ g)) (funext hw)
    · refine async_nil hc.async ?_ ?_ ?_ rfl <;> simp [State.fly, State.onW, hl]

/-- A C instruction of a greater latency: its scalar result stays in flight. -/
theorem exec_c_later {i : Instr} {op : SlotOp} {s : State} {d : Reg} {x : Word} {L : Nat} (h : Clear i op s) (hs : i.slot = some .C)
    (hn : op.next s = none) (hL : 1 < L)
    (hE : op.effect ((s.begun op s.nextPc).onW fun w => (w.loopEnd s.w.pc).1) =
      (({ s with iss := s.issOf s.nextPc }.onW fun w => (w.loopEnd s.w.pc).1).flyAll (sFlights (s.now + L) d x))) :
    issueOne i op s = .next (s.stepOn.flyAll (sFlights (s.now + L) d x)) := by
  rw [h.commits hs]
  obtain ⟨heff, htk⟩ := effects_c (op := op) hs hn
  rw [hE] at heff
  have hc := calm_iff h.calm
  obtain ⟨a, b, hl⟩ := loopEnd_eq s.w s.w.pc
  have hkeep : ∀ (l : List Flight) (u : State), (u.flyAll l).w.run = u.w.run ∧ (u.flyAll l).iss = u.iss ∧ (u.flyAll l).now = u.now ∧
      (u.flyAll l).w.id = u.w.id ∧ (u.flyAll l).w.hm = u.w.hm ∧ (u.flyAll l).w.pend = u.w.pend ∧ (u.flyAll l).core = u.core := by
    intro l
    induction l with
    | nil => intro u; simp [State.flyAll]
    | cons f l ih => intro u; exact ih (u.fly f)
  obtain ⟨k1, k2, k3, k4, k5, k6, k7⟩ := hkeep (sFlights (s.now + L) d x) ({ s with iss := s.issOf s.nextPc }.onW fun w => (w.loopEnd s.w.pc).1)
  rw [commit_goes_on (next := s.nextPc) hc heff htk (by rw [k1]; simp [State.onW, hl, hc.run]) (by rw [k2]; rfl) (by rw [k3]; rfl) ?_]
  · simp only [Bool.false_eq_true, if_false]
    rw [goOn_flyAll_later]
    · rfl
    · intro f hf
      have : f.due = s.now + L := by
        unfold sFlights at hf
        split at hf
        · simp at hf
        · simp only [List.mem_singleton] at hf; rw [hf]
      rw [this]
      show s.now + 1 < s.now + L
      omega
  · refine async_nil hc.async ?_ ?_ ?_ ?_
    · rw [k4]; simp [State.onW, hl]
    · rw [k5]; simp [State.onW, hl]
    · rw [k6]; simp [State.onW, hl]
    · rw [k7]; rfl

/-- A taken transfer to t, with an update of the warp that the clock does not touch. -/
theorem exec_jump {i : Instr} {op : SlotOp} {s : State} {t : Word} {f : Warp → Warp} (h : Clear i op s) (hs : i.slot = some .C)
    (hn : op.next s = some t)
    (hE : op.effect ((s.begun op t).onW fun w => w.leaveLoops t) = (({ s with iss := s.issOf t }.onW fun w => w.leaveLoops t).onW f))
    (hf : Aside f)
    (hp : ∀ (w : Warp) a b c, f { w with pc := a, nextIssue := b, lastIssue := c } = { f w with pc := a, nextIssue := b, lastIssue := c })
    (hk : ∀ w, (f w).run = w.run ∧ (f w).id = w.id ∧ (f w).hm = w.hm ∧ (f w).pend = w.pend) :
    issueOne i op s = .next ((s.jumpTo t).onW f) := by
  rw [h.commits hs]
  obtain ⟨heff, htk⟩ := effects_jump (op := op) hs hn
  rw [hE] at heff
  have hc := calm_iff h.calm
  have hl : ∃ a b, s.w.leaveLoops t = { s.w with lpc0 := a, lpc1 := b } := by
    unfold Warp.leaveLoops Warp.leaveLoop
    dsimp only
    split
    · exact ⟨_, _, rfl⟩
    · split
      · exact ⟨_, _, rfl⟩
      · exact ⟨s.w.lpc0, s.w.lpc1, rfl⟩
  obtain ⟨a, b, hl⟩ := hl
  rw [commit_goes_on (next := t) hc heff htk (by simp [State.onW, hl, hk, hc.run]) rfl rfl ?_]
  · have := goOn_aside hf hp (({ s with iss := s.issOf t }.onW fun w => w.leaveLoops t)) t 3
    exact congrArg _ this
  · refine async_nil hc.async ?_ ?_ ?_ rfl <;> simp [State.onW, hl, hk]

end Sys2Proof.Machine
end

