-- ==== Sys2Proof/Laws/Vec.lean ====
section
/-! SUPPORT. The V slot at an undisturbed boundary: once for each shape of V instruction, what its bundle leaves. -/

namespace Sys2Proof.Machine

/-! ## Results in flight -/

/-- Results in flight are a matter of the warp's list of them. -/
theorem flyAll_eq (l : List Flight) (s : State) :
    s.flyAll l = s.onW fun w => { w with fly := l.foldl (fun a f => insFly f a) w.fly } := by
  induction l generalizing s with
  | nil => rfl
  | cons f l ih => exact ih (s.fly f)

theorem vWrite_eq (s : State) (L : Nat) (d : Dst) (m : Mask) (l : Lanes) :
    s.vWrite L d m l = s.flyAll (vFlights (s.now + L) d m l) := by
  unfold State.vWrite vFlights
  split
  · rfl
  · cases d.wbs <;> cases d.le <;> rfl

theorem sLater_eq (s : State) (L : Nat) (r : Reg) (x : Word) : s.sLater L r x = s.flyAll (sFlights (s.now + L) r x) := by
  unfold State.sLater sFlights
  split <;> rfl

theorem vScalar_eq (s : State) (L : Nat) (d : Dst) (x : Word) :
    s.vScalar L d x = s.flyAll (if d.wbs then [] else sFlights (s.now + L) d.reg x) := by
  unfold State.vScalar
  cases d.wbs
  · exact sLater_eq s L d.reg x
  · rfl

/-! ## The next bundle -/

/-- Where the loop-end action sends control, written out (16 R317). -/
theorem loopEnd_next (w : Warp) (pc : Word) :
    (w.loopEnd pc).2 =
      if w.lpc1 != 0 && pc == w.lpe1 && w.lpc1 != 1 then some (bundleAddr w.lps1)
      else if w.lpc0 != 0 && pc == w.lpe0 && w.lpc0 != 1 then some (bundleAddr w.lps0) else none := by
  unfold Warp.loopEnd
  dsimp only
  simp only [apply_ite Prod.snd]
  generalize w.lpc1 = c1
  generalize w.lpc0 = c0
  by_cases h1 : c1 = 1
  · subst h1
    by_cases h3 : c0 = 1
    · subst h3; simp
    · simp only [beq_iff_eq, h3, if_false, bne_iff_ne, ne_eq, Bool.and_eq_true, not_true_eq_false, and_false, not_false_eq_true,
        and_true, if_true, ite_self]
  · by_cases h3 : c0 = 1
    · subst h3; simp only [h1, if_false, bne_iff_ne, ne_eq, Bool.and_eq_true, not_true_eq_false, and_false, not_false_eq_true,
        and_true, if_true, ite_self]
    · simp only [h1, h3, if_false, bne_iff_ne, ne_eq, Bool.and_eq_true, not_false_eq_true, and_true]

/-- The next bundle depends on the address and the loop registers alone. -/
theorem nextPc_of {s t : State} (hpc : t.w.pc = s.w.pc) (h1 : t.w.lps0 = s.w.lps0) (h2 : t.w.lpe0 = s.w.lpe0)
    (h3 : t.w.lpc0 = s.w.lpc0) (h4 : t.w.lps1 = s.w.lps1) (h5 : t.w.lpe1 = s.w.lpe1) (h6 : t.w.lpc1 = s.w.lpc1) :
    t.nextPc = s.nextPc := by
  unfold State.nextPc
  rw [loopEnd_next, loopEnd_next, hpc, h1, h2, h3, h4, h5, h6]

/-! ## Instructions that count no flag and update the warp -/

/-- A V, M or E instruction without a flag whose effect is E, whatever bundle is under issue. -/
theorem exec_plain {i : Instr} {op : SlotOp} {s : State} {sl : Slot} (h : Clear i op s) (hs : i.slot = some sl) (hsl : sl ≠ .C)
    (he : op.early = id) (hf : op.flag = none) {F : State → State} (hE : ∀ (t : State) (j : Issue), op.effect { t with iss := j } = { F t with iss := j })
    (hrun : (F s).w.run = s.w.run) (hnow : (F s).now = s.now) (hpc : (F s).w.pc = s.w.pc) (hnext : (F s).nextPc = s.nextPc)
    (has : (F s).asyncCauses = []) : issueOne i op s = .next (F s).stepOn := by
  refine exec_vme h hs hsl ?_ (hrun.trans (calm_iff h.calm).run) hnow hpc hnext has
  unfold State.begun
  rw [he, hf]
  exact hE s _

/-- Results in flight and FPSTAT, put into the warp, disturb nothing. -/
theorem exec_fly {i : Instr} {op : SlotOp} {s : State} {l : State → List Flight} {fp : State → Word} (h : Clear i op s)
    (hs : i.slot = some .V) (he : op.early = id) (hf : op.flag = none)
    (hE : ∀ (t : State) (j : Issue),
      op.effect { t with iss := j } = { (t.flyAll (l t)).onW (fun w => { w with fpstat := fp t }) with iss := j }) :
    issueOne i op s = .next ((s.flyAll (l s)).onW fun w => { w with fpstat := fp s }).stepOn := by
  refine exec_plain h hs (by decide) he hf (F := fun t => (t.flyAll (l t)).onW fun w => { w with fpstat := fp t }) hE ?_ ?_ ?_ ?_ ?_
  · simp [flyAll_eq, State.onW]
  · rw [flyAll_eq]; rfl
  · simp [flyAll_eq, State.onW]
  · refine nextPc_of ?_ ?_ ?_ ?_ ?_ ?_ ?_ <;> simp [flyAll_eq, State.onW]
  · refine async_nil (calm_iff h.calm).async ?_ ?_ ?_ ?_
    · simp [flyAll_eq, State.onW]
    · simp [flyAll_eq, State.onW]
    · simp [flyAll_eq, State.onW]
    · rw [flyAll_eq]; rfl

/-- A V instruction without checks, holds and flags at an undisturbed boundary. -/
theorem clear_v {i : Instr} {op : SlotOp} {s : State} (hc : s.calm = true) (ha : s.admits i = true) (h1 : ∀ s, op.causes s = [])
    (h2 : ∀ s, op.hold s = none) (h3 : ∀ s, op.bad s = none) (h4 : op.flag = none) : Clear i op s :=
  ⟨hc, ha, h1 s, h2 s, h3 s, by rw [h4]; rfl⟩

/-- An effect that is only results in flight. -/
theorem fly_only (t : State) (l : List Flight) (j : Issue) :
    ({ t with iss := j } : State).flyAll l = { (t.flyAll l).onW (fun w => { w with fpstat := t.w.fpstat }) with iss := j } := by
  rw [flyAll_eq, flyAll_eq]; rfl

theorem fly_only_s (t : State) (l : List Flight) :
    ((t.flyAll l).onW fun w => { w with fpstat := t.w.fpstat }) = t.flyAll l := by
  rw [flyAll_eq]; rfl

/-- A V instruction that raises no flag (11 R209, R210). -/
theorem runs_vplain {i : Instr} {L : Nat} {d : Dst} {S : Warp → Mask} {f : Warp → Nat → LaneVal} {s : State}
    (hs : i.slot = some .V) (hc : s.calm = true) (ha : s.admits i = true) :
    issueOne i (vPlain L d S f) s = .next (s.vOut L d (S s.w) (f s.w)).stepOn := by
  have := exec_fly (op := vPlain L d S f) (l := fun t => vFlights (t.now + L) d (S t.w) (overMask (S t.w) (f t.w)))
    (fp := fun t => t.w.fpstat) (clear_v (s := s) hc ha (fun _ => rfl) (fun _ => rfl) (fun _ => rfl) rfl) hs rfl rfl
    (fun t j => by
      show State.vWrite _ _ _ _ _ = _
      rw [vWrite_eq]; exact fly_only t _ j)
  rw [this, fly_only_s]; rfl

/-- The flags of all lanes, gathered with the values or by themselves. -/
theorem orLanes_eq (m : Mask) (f : Nat → LaneVal × Nat) :
    orLanes ((List.range 64).map fun l => if m.getLsbD l then f l else (0, 0)) =
      (List.range 64).foldl (fun a l => if m.getLsbD l then a ||| (f l).2 else a) 0 := by
  unfold orLanes
  rw [List.foldl_map]
  congr 1
  funext a l
  split <;> simp

theorem overMask_fst (m : Mask) (f : Nat → LaneVal × Nat) :
    ((List.range 64).map fun l => if m.getLsbD l then f l else (0, 0)).map Prod.fst = overMask m fun l => (f l).1 := by
  unfold overMask mkLanes
  rw [List.map_map]
  refine List.map_congr_left fun l _ => ?_
  simp only [Function.comp]
  split <;> rfl

/-- One that raises flags (01 R26). -/
theorem runs_vflagged {i : Instr} {L : Nat} {d : Dst} {S : Warp → Mask} {f : Warp → Nat → LaneVal × Nat} {s : State}
    (hs : i.slot = some .V) (hc : s.calm = true) (ha : s.admits i = true) :
    issueOne i (vFlagged L d S f) s = .next (s.vfOut L d (S s.w) (f s.w)).stepOn := by
  have := exec_fly (op := vFlagged L d S f)
    (l := fun t => vFlights (t.now + L) d (S t.w) (overMask (S t.w) fun l => (f t.w l).1))
    (fp := fun t => t.w.fpstat ||| BitVec.ofNat 64
      ((List.range 64).foldl (fun a l => if (S t.w).getLsbD l then a ||| (f t.w l).2 else a) 0 % 128))
    (clear_v (s := s) hc ha (fun _ => rfl) (fun _ => rfl) (fun _ => rfl) rfl) hs rfl rfl
    (fun t j => by
      show State.raise (State.vWrite _ _ _ _ _) _ = _
      rw [vWrite_eq, orLanes_eq, overMask_fst, flyAll_eq, flyAll_eq]; rfl)
  rw [this]
  unfold State.vfOut State.vOut
  rw [flyAll_eq]; rfl

/-- A V instruction whose results are worked out together: results in flight, and the flags raised. -/
theorem runs_vwhole {i : Instr} {op : SlotOp} {s : State} (hs : i.slot = some .V) (hc : s.calm = true) (ha : s.admits i = true)
    (l : State → List Flight) (fl : State → Nat) (h1 : ∀ s, op.causes s = []) (h2 : ∀ s, op.hold s = none) (h3 : ∀ s, op.bad s = none)
    (h4 : op.flag = none) (he : op.early = id)
    (hE : ∀ (t : State) (j : Issue), op.effect { t with iss := j } = (({ t with iss := j } : State).flyAll (l t)).raise (fl t)) :
    issueOne i op s = .next ((s.flyAll (l s)).raise (fl s)).stepOn := by
  have := exec_fly (l := l) (fp := fun t => t.w.fpstat ||| BitVec.ofNat 64 (fl t % 128))
    (clear_v (s := s) hc ha h1 h2 h3 h4) hs he h4
    (fun t j => by rw [hE, flyAll_eq, flyAll_eq]; rfl)
  rw [this, flyAll_eq]; rfl

/-- The same without flags. -/
theorem runs_vquiet {i : Instr} {op : SlotOp} {s : State} (hs : i.slot = some .V) (hc : s.calm = true) (ha : s.admits i = true)
    (l : State → List Flight) (h1 : ∀ s, op.causes s = []) (h2 : ∀ s, op.hold s = none) (h3 : ∀ s, op.bad s = none)
    (h4 : op.flag = none) (he : op.early = id)
    (hE : ∀ (t : State) (j : Issue), op.effect { t with iss := j } = ({ t with iss := j } : State).flyAll (l t)) :
    issueOne i op s = .next (s.flyAll (l s)).stepOn := by
  have := exec_fly (l := l) (fp := fun t => t.w.fpstat) (clear_v (s := s) hc ha h1 h2 h3 h4) hs he h4
    (fun t j => by rw [hE]; exact fly_only t _ j)
  rw [this, fly_only_s]

end Sys2Proof.Machine
end

