-- ==== Sys2Proof/Laws/Sca.lean ====
section
/-! SUPPORT. The scalar instructions at an undisturbed boundary: a result of latency 1 is written as the next bundle
issues, a later one stays in flight. -/

namespace Sys2Proof.Machine

/-- A value that does not depend on the loop counts, which the loop-end action may change before a C instruction reads
(16 R317). -/
def Still {α : Type} (f : Warp → α) : Prop := ∀ (w : Warp) a b, f { w with lpc0 := a, lpc1 := b } = f w

theorem Still.loopEnd {α : Type} {f : Warp → α} (h : Still f) (w : Warp) (pc : Word) : f (w.loopEnd pc).1 = f w := by
  obtain ⟨a, b, hl⟩ := loopEnd_eq w pc
  rw [hl]; exact h w a b

/-- A scalar instruction that checks nothing. -/
theorem clear_s {i : Instr} {L : Nat} {d : Reg} {f : Warp → Word} {s : State} (hc : s.calm = true) (ha : s.admits i = true) :
    Clear i (sOp L d f) s := ⟨hc, ha, rfl, rfl, rfl, rfl⟩

/-- Latency 1 (16 R306). -/
theorem runs_s1 {i : Instr} {d : Reg} {f : Warp → Word} {s : State} (hs : i.slot = some .C) (hf : Still f) (hc : s.calm = true)
    (ha : s.admits i = true) : issueOne i (sOp 1 d f) s = .next (s.stepOn.onW fun w => w.wrS d.val (f s.w)) := by
  refine exec_c_scalar (clear_s hc ha) hs rfl ?_
  show State.sLater _ _ _ (f (s.w.loopEnd s.w.pc).1) = _
  rw [hf.loopEnd]; rfl

/-- A greater latency. -/
theorem runs_sL {i : Instr} {L : Nat} {d : Reg} {f : Warp → Word} {s : State} (hs : i.slot = some .C) (hL : 1 < L) (hf : Still f)
    (hc : s.calm = true) (ha : s.admits i = true) :
    issueOne i (sOp L d f) s = .next (s.stepOn.flyAll (sFlights (s.now + L) d (f s.w))) := by
  refine exec_c_later (clear_s hc ha) hs rfl hL ?_
  show State.sLater _ _ _ (f (s.w.loopEnd s.w.pc).1) = _
  rw [hf.loopEnd, sLater_eq]; rfl

end Sys2Proof.Machine
end

