-- ==== Sys2Proof/Tests/Slice0.lean ====
section
/-! SUPPORT. The model's own tests: ill-formed terms, syllables written out from the tables of the spec, values that the
manual's examples give, and for every statement with hypotheses a state that meets them. -/

set_option linter.unusedVariables false

namespace Sys2Proof.Tests

-- One evaluation after the other: parallel ones do not fit the check's memory.
set_option Elab.async false

open Sys2Proof Sys2Proof.Machine

/-! ## Ill-formed terms -/

/-- A V head of an etype, v5, no latch. -/
def hd (e : Etype) : VHead := ⟨e, ⟨5, false, false, 0⟩, false⟩
/-- The operand v1. -/
def o1 : Opd := ⟨.v 1, .none⟩

/-- One term for each check, with the detail of 02 Table 2.2 that it raises. -/
def illFormed : List (Instr × Nat) := [
  (.vadd (hd .f32) o1 o1 false, 4),
  (.vneg (hd .n32) o1 false, 4),
  (.vcmp (hd .i16x2) o1 o1 .eq, 4),
  (.vfdot2 (hd .f32) o1 o1 o1 false .rne, 4),
  (.vdot (hd .i32) o1 o1 o1 false, 4),
  (.vget (hd .n8x4) o1 ⟨.c 0, .none⟩, 4),
  (.vadd (hd .n32) ⟨.v 1, .neg⟩ o1 false, 3),
  (.vadd (hd .i32) o1 ⟨.v 1, .swp⟩ false, 3),
  (.vbcst (hd .i32) o1 o1, 4),
  (.vsel (hd .i32) o1 o1 o1, 4),
  (.vsel (hd .i32) o1 o1 ⟨.s 1, .neg⟩, 3),
  (.vcmp ⟨.i32, ⟨5, false, true, 0⟩, false⟩ o1 o1 .eq, 4),
  (.vtwr ⟨.i32, ⟨5, true, false, 0⟩, false⟩ o1 o1, 4),
  (.vcvt (hd .f32) o1 .f16x2 false .rne, 4),
  (.vpack (hd .f16x2) o1 o1 .f16x2 false .rne, 4),
  (.vunpk (hd .f16x2) o1 .f16x2, 4),
  (.vscan (hd .f32) o1 false .rne .xor true, 4),
  (.lld 8 .w64 ⟨0, 0, false, false, 0⟩ true 0, 4),
  (.lst 9 .w64 ⟨0, 0, false, false, 0⟩, 7),
  (.lst 10 .w128 ⟨0, 0, false, false, 0⟩, 7),
  (.llds 8 .w128 0 0, 4),
  (.latom 8 .w16 ⟨0, 0, 0⟩ .add, 4),
  (.latom 8 .w64 ⟨0, 0, 0⟩ .fadd, 4),
  (.gatom ⟨0, .dev⟩ 0 9 .w64 ⟨0, 0, 0⟩ .add, 7),
  (.lcas 9 .w32 ⟨0, 0, 0⟩, 7),
  (.lcas 10 .w64 ⟨0, 0, 0⟩, 7),
  (.phase 0x8000, 5),
  (.signal ⟨0, .dev⟩ none 8 4 0 .fmax, 4),
  (.cpygl ⟨0, .dev⟩ 0 1 2 3 5, 7),
  (.cpyfil 0 2 3 0 false (some ⟨⟨0, .dev⟩, 7⟩), 7),
  (.mhfa none .f32 1 2 3 false none, 4),
  (.mhad none .block 1, 4),
  (.mcvt none .block 1 2, 4),
  (.madd none .f16 1 2, 4),
  (.sget 1 0x2D, 8),
  (.sset 0x05 1, 8),
  (.loop 0 1 0, 4),
  (.loopi 1 3 0, 4)]

theorem test_illFormed_refused : (illFormed.all fun p => p.1.illop == some p.2 && decide (¬ WellFormed p.1)) = true := by decide +kernel

/-! ## Syllables written out field by field -/

/-- Syllables of the V slot, field by field from 02 Tables 2.5, 2.13. -/
def wordsV1 : List (Nat × Instr) := [
  (0x0000AB0000000003, .vnop),
  (0x0121740284000030, .vadd ⟨.n16x2, ⟨5, true, true, 2⟩, true⟩ ⟨.v 1, .none⟩ ⟨.s 2, .none⟩ true),
  (0x0221540284000030, .vsub ⟨.n16x2, ⟨5, false, true, 2⟩, true⟩ ⟨.v 1, .none⟩ ⟨.s 2, .none⟩ true),
  (0x0321540284000030, .vmul ⟨.n16x2, ⟨5, false, true, 2⟩, true⟩ ⟨.v 1, .none⟩ ⟨.s 2, .none⟩ true),
  (0x0421540284000010, .vmulh ⟨.n16x2, ⟨5, false, true, 2⟩, true⟩ ⟨.v 1, .none⟩ ⟨.s 2, .none⟩),
  (0x0521540285080030, .vmad ⟨.n16x2, ⟨5, false, true, 2⟩, true⟩ ⟨.v 1, .none⟩ ⟨.s 2, .none⟩ ⟨.x 4, .none⟩ true),
  (0x0651540200000030, .vneg ⟨.i8x4, ⟨5, false, true, 2⟩, true⟩ ⟨.v 1, .none⟩ true),
  (0x0751540200000030, .vabs ⟨.i8x4, ⟨5, false, true, 2⟩, true⟩ ⟨.v 1, .none⟩ true),
  (0x0821540284000010, .vmin ⟨.n16x2, ⟨5, false, true, 2⟩, true⟩ ⟨.v 1, .none⟩ ⟨.s 2, .none⟩),
  (0x0921540284000010, .vmax ⟨.n16x2, ⟨5, false, true, 2⟩, true⟩ ⟨.v 1, .none⟩ ⟨.s 2, .none⟩),
  (0x0A21540284000011, .vavg ⟨.n16x2, ⟨5, false, true, 2⟩, true⟩ ⟨.v 1, .none⟩ ⟨.s 2, .none⟩ true),
  (0x0B21540285080030, .vsad ⟨.n16x2, ⟨5, false, true, 2⟩, true⟩ ⟨.v 1, .none⟩ ⟨.s 2, .none⟩ ⟨.x 4, .none⟩ true),
  (0x0C71540285080030, .vdot ⟨.i4x8, ⟨5, false, true, 2⟩, true⟩ ⟨.v 1, .none⟩ ⟨.s 2, .none⟩ ⟨.x 4, .none⟩ true),
  (0x0D21540284000030, .vshl ⟨.n16x2, ⟨5, false, true, 2⟩, true⟩ ⟨.v 1, .none⟩ ⟨.s 2, .none⟩ true),
  (0x0E21540284000010, .vshr ⟨.n16x2, ⟨5, false, true, 2⟩, true⟩ ⟨.v 1, .none⟩ ⟨.s 2, .none⟩),
  (0x0F21540284000010, .vsra ⟨.n16x2, ⟨5, false, true, 2⟩, true⟩ ⟨.v 1, .none⟩ ⟨.s 2, .none⟩),
  (0x1021540284000010, .vrot ⟨.n16x2, ⟨5, false, true, 2⟩, true⟩ ⟨.v 1, .none⟩ ⟨.s 2, .none⟩),
  (0x11A1540284000010, .vand ⟨.b16x2, ⟨5, false, true, 2⟩, true⟩ ⟨.v 1, .none⟩ ⟨.s 2, .none⟩),
  (0x12A1540284000010, .vor ⟨.b16x2, ⟨5, false, true, 2⟩, true⟩ ⟨.v 1, .none⟩ ⟨.s 2, .none⟩),
  (0x13A1540284000010, .vxor ⟨.b16x2, ⟨5, false, true, 2⟩, true⟩ ⟨.v 1, .none⟩ ⟨.s 2, .none⟩)]

theorem test_wordsV1_decode : (wordsV1.all fun p => decodeTableWord 256 (p.1 * 2 ^ 0) == some p.2) = true := by decide +kernel

/-- Syllables of the V slot, field by field from 02 Tables 2.5, 2.13. -/
def wordsV2 : List (Nat × Instr) := [
  (0x14A1540284000010, .vandn ⟨.b16x2, ⟨5, false, true, 2⟩, true⟩ ⟨.v 1, .none⟩ ⟨.s 2, .none⟩),
  (0x15A1540200000010, .vnot ⟨.b16x2, ⟨5, false, true, 2⟩, true⟩ ⟨.v 1, .none⟩),
  (0x1621540200000010, .vclz ⟨.n16x2, ⟨5, false, true, 2⟩, true⟩ ⟨.v 1, .none⟩),
  (0x1721540200000010, .vpopc ⟨.n16x2, ⟨5, false, true, 2⟩, true⟩ ⟨.v 1, .none⟩),
  (0x1821540200000010, .vbrev ⟨.n16x2, ⟨5, false, true, 2⟩, true⟩ ⟨.v 1, .none⟩),
  (0x1911540284000010, .vbfx ⟨.i32, ⟨5, false, true, 2⟩, true⟩ ⟨.v 1, .none⟩ ⟨.s 2, .none⟩),
  (0x1A11540285080010, .vbfi ⟨.i32, ⟨5, false, true, 2⟩, true⟩ ⟨.v 1, .none⟩ ⟨.s 2, .none⟩ ⟨.x 4, .none⟩),
  (0x1B11440284000018, .vcmp ⟨.i32, ⟨5, false, false, 2⟩, true⟩ ⟨.v 1, .none⟩ ⟨.s 2, .none⟩ .gtn),
  (0x1CA15402848E0010, .vsel ⟨.b16x2, ⟨5, false, true, 2⟩, true⟩ ⟨.v 1, .none⟩ ⟨.s 2, .none⟩ ⟨.s 7, .none⟩),
  (0x1DA1540200000010, .vmov ⟨.b16x2, ⟨5, false, true, 2⟩, true⟩ ⟨.v 1, .none⟩),
  (0x1E11540285080010, .vprm ⟨.i32, ⟨5, false, true, 2⟩, true⟩ ⟨.v 1, .none⟩ ⟨.s 2, .none⟩ ⟨.x 4, .none⟩),
  (0x1F11540000000012, .vlane ⟨.i32, ⟨5, false, true, 2⟩, true⟩ .grp),
  (0x2021548713579BDE, .vaddi ⟨.n16x2, ⟨5, false, true, 2⟩⟩ (.s 3) 0x89ABCDEF),
  (0x21A1548713579BDE, .vandi ⟨.b16x2, ⟨5, false, true, 2⟩⟩ (.s 3) 0x89ABCDEF),
  (0x22A1548713579BDE, .vori ⟨.b16x2, ⟨5, false, true, 2⟩⟩ (.s 3) 0x89ABCDEF),
  (0x23A1548713579BDE, .vxori ⟨.b16x2, ⟨5, false, true, 2⟩⟩ (.s 3) 0x89ABCDEF),
  (0x24A1540113579BDE, .vimm ⟨.b16x2, ⟨5, false, true, 2⟩⟩ 0x89ABCDEF),
  (0x3081740284000070, .vfadd ⟨.f32, ⟨5, true, true, 2⟩, true⟩ ⟨.v 1, .none⟩ ⟨.s 2, .none⟩ true .rz),
  (0x3181540284000070, .vfsub ⟨.f32, ⟨5, false, true, 2⟩, true⟩ ⟨.v 1, .none⟩ ⟨.s 2, .none⟩ true .rz),
  (0x3281540284000070, .vfmul ⟨.f32, ⟨5, false, true, 2⟩, true⟩ ⟨.v 1, .none⟩ ⟨.s 2, .none⟩ true .rz)]

theorem test_wordsV2_decode : (wordsV2.all fun p => decodeTableWord 256 (p.1 * 2 ^ 0) == some p.2) = true := by decide +kernel

/-- Syllables of the V slot, field by field from 02 Tables 2.5, 2.13. -/
def wordsV3 : List (Nat × Instr) := [
  (0x3381540285080070, .vfma ⟨.f32, ⟨5, false, true, 2⟩, true⟩ ⟨.v 1, .none⟩ ⟨.s 2, .none⟩ ⟨.x 4, .none⟩ true .rz),
  (0x3481540285080070, .vfnma ⟨.f32, ⟨5, false, true, 2⟩, true⟩ ⟨.v 1, .none⟩ ⟨.s 2, .none⟩ ⟨.x 4, .none⟩ true .rz),
  (0x3581540284000010, .vfmin ⟨.f32, ⟨5, false, true, 2⟩, true⟩ ⟨.v 1, .none⟩ ⟨.s 2, .none⟩),
  (0x3681540284000010, .vfmax ⟨.f32, ⟨5, false, true, 2⟩, true⟩ ⟨.v 1, .none⟩ ⟨.s 2, .none⟩),
  (0x3781440284000016, .vfcmp ⟨.f32, ⟨5, false, false, 2⟩, true⟩ ⟨.v 1, .none⟩ ⟨.s 2, .none⟩ .un),
  (0x3881540200000010, .vfclass ⟨.f32, ⟨5, false, true, 2⟩, true⟩ ⟨.v 1, .none⟩),
  (0x3981540200000050, .vfrnd ⟨.f32, ⟨5, false, true, 2⟩, true⟩ ⟨.v 1, .none⟩ .rz),
  (0x3A81540284000070, .vfscl ⟨.f32, ⟨5, false, true, 2⟩, true⟩ ⟨.v 1, .none⟩ ⟨.s 2, .none⟩ true .rz),
  (0x3B91540285080070, .vfdot2 ⟨.f16x2, ⟨5, false, true, 2⟩, true⟩ ⟨.v 1, .none⟩ ⟨.s 2, .none⟩ ⟨.x 4, .none⟩ true .rz),
  (0x3C81540200000010, .vfkey ⟨.f32, ⟨5, false, true, 2⟩, true⟩ ⟨.v 1, .none⟩),
  (0x40A1540200000079, .vcvt ⟨.b16x2, ⟨5, false, true, 2⟩, true⟩ ⟨.v 1, .none⟩ .f16x2 true .rz),
  (0x41A1540284000071, .vpack ⟨.b16x2, ⟨5, false, true, 2⟩, true⟩ ⟨.v 1, .none⟩ ⟨.s 2, .none⟩ .i32 true .rz),
  (0x4281540200000019, .vunpk ⟨.f32, ⟨5, false, true, 2⟩, true⟩ ⟨.v 1, .none⟩ .f16x2),
  (0x4381540200000010, .vbexp ⟨.f32, ⟨5, false, true, 2⟩, true⟩ ⟨.v 1, .none⟩),
  (0x4481540200000010, .vbq ⟨.f32, ⟨5, false, true, 2⟩, true⟩ ⟨.v 1, .none⟩),
  (0x4581540200000070, .vbdq ⟨.f32, ⟨5, false, true, 2⟩, true⟩ ⟨.v 1, .none⟩ true .rz),
  (0x5081540200000030, .vrcp ⟨.f32, ⟨5, false, true, 2⟩, true⟩ ⟨.v 1, .none⟩ true),
  (0x5181540200000030, .vrsq ⟨.f32, ⟨5, false, true, 2⟩, true⟩ ⟨.v 1, .none⟩ true),
  (0x5281540200000030, .vsqrt ⟨.f32, ⟨5, false, true, 2⟩, true⟩ ⟨.v 1, .none⟩ true),
  (0x5381540200000030, .vexp2 ⟨.f32, ⟨5, false, true, 2⟩, true⟩ ⟨.v 1, .none⟩ true)]

theorem test_wordsV3_decode : (wordsV3.all fun p => decodeTableWord 256 (p.1 * 2 ^ 0) == some p.2) = true := by decide +kernel

/-- Syllables of the V slot, field by field from 02 Tables 2.5, 2.13. -/
def wordsV4 : List (Nat × Instr) := [
  (0x5481540200000030, .vlog2 ⟨.f32, ⟨5, false, true, 2⟩, true⟩ ⟨.v 1, .none⟩ true),
  (0x5581540200000030, .vsinp ⟨.f32, ⟨5, false, true, 2⟩, true⟩ ⟨.v 1, .none⟩ true),
  (0x5681540200000030, .vcosp ⟨.f32, ⟨5, false, true, 2⟩, true⟩ ⟨.v 1, .none⟩ true),
  (0x5781540200000030, .vtanh ⟨.f32, ⟨5, false, true, 2⟩, true⟩ ⟨.v 1, .none⟩ true),
  (0x60A1540284000010, .vshfl ⟨.b16x2, ⟨5, false, true, 2⟩, true⟩ ⟨.v 1, .none⟩ ⟨.s 2, .none⟩),
  (0x61A1540284000013, .vshflr ⟨.b16x2, ⟨5, false, true, 2⟩, true⟩ ⟨.v 1, .none⟩ ⟨.s 2, .none⟩ .rot),
  (0x62A1540284000010, .vbcst ⟨.b16x2, ⟨5, false, true, 2⟩, true⟩ ⟨.v 1, .none⟩ ⟨.s 2, .none⟩),
  (0x63A154020000007A, .vscan ⟨.b16x2, ⟨5, false, true, 2⟩, true⟩ ⟨.v 1, .none⟩ true .rz .maxi true),
  (0x64A1540200000072, .vred ⟨.b16x2, ⟨5, false, true, 2⟩, true⟩ ⟨.v 1, .none⟩ true .rz .maxi),
  (0x65A1540200000010, .vcomp ⟨.b16x2, ⟨5, false, true, 2⟩, true⟩ ⟨.v 1, .none⟩),
  (0x6601440284000010, .vget ⟨.n32, ⟨5, false, false, 2⟩, true⟩ ⟨.v 1, .none⟩ ⟨.s 2, .none⟩),
  (0x6701548684000010, .vins ⟨.n32, ⟨5, false, true, 2⟩, true⟩ ⟨.s 3, .none⟩ ⟨.s 2, .none⟩),
  (0x70A1541284000010, .vtrd ⟨.b16x2, ⟨5, false, true, 2⟩, true⟩ 9 ⟨.s 2, .none⟩),
  (0x71A1440284000010, .vtwr ⟨.b16x2, ⟨5, false, false, 2⟩, true⟩ ⟨.v 1, .none⟩ ⟨.s 2, .none⟩)]

theorem test_wordsV4_decode : (wordsV4.all fun p => decodeTableWord 256 (p.1 * 2 ^ 0) == some p.2) = true := by decide +kernel

/-- Syllables of the M slot, field by field from 02 Tables 2.10, 2.14. -/
def wordsM1 : List (Nat × Instr) := [
  (0x010002042D6AFFF8, .lld 8 .w32 ⟨4, 11, false, true, 0xFFF8⟩ true 5),
  (0x020002042D02FFF8, .lst 8 .w32 ⟨4, 11, false, true, 0xFFF8⟩),
  (0x0300020401008421, .llds 8 .w32 4 0x8421),
  (0x0400020401008421, .lsts 8 .w32 4 0x8421),
  (0x050002042D08FFF8, .latom 8 .w32 ⟨4, 11, 0xFFF8⟩ .xchg),
  (0x060002042D00FFF8, .lcas 8 .w32 ⟨4, 11, 0xFFF8⟩),
  (0x0800020401008421, .qenq 8 .w32 4 0x8421),
  (0x0900020401688421, .qdeq 8 .w32 4 0x8421 true 5),
  (0x0A00020400008421, .qstat 8 4 0x8421),
  (0x102762042D00FFF8, .gld ⟨2, .dev⟩ 6 8 .w32 ⟨4, 11, 0xFFF8⟩),
  (0x112762042D00FFF8, .gst ⟨2, .dev⟩ (some 6) 8 .w32 ⟨4, 11, 0xFFF8⟩),
  (0x122762042D08FFF8, .gatom ⟨2, .dev⟩ 6 8 .w32 ⟨4, 11, 0xFFF8⟩ .xchg),
  (0x132762042D08FFF8, .gred ⟨2, .dev⟩ (some 6) 8 .w32 ⟨4, 11, 0xFFF8⟩ .xchg),
  (0x142762042D00FFF8, .gcas ⟨2, .dev⟩ 6 8 .w32 ⟨4, 11, 0xFFF8⟩),
  (0x152602042D6AFFF8, .gldc ⟨2, .dev⟩ 8 .w32 ⟨4, 11, false, true, 0xFFF8⟩ true 5),
  (0x1626020401008421, .sldc ⟨2, .dev⟩ 8 .w32 4 0x8421),
  (0x1727620401008421, .sgld ⟨2, .dev⟩ 6 8 .w32 4 0x8421),
  (0x1827620401008421, .sgst ⟨2, .dev⟩ (some 6) 8 .w32 4 0x8421),
  (0x200960C000008421, .fence .full .fab (some 6) 0x8421),
  (0x2100000000000000, .l1inv)]

theorem test_wordsM1_decode : (wordsM1.all fun p => decodeTableWord 256 (p.1 * 2 ^ 64) == some p.2) = true := by decide +kernel

/-- Syllables of the M slot, field by field from 02 Tables 2.10, 2.14. -/
def wordsM2 : List (Nat × Instr) := [
  (0x2201600000000000, .wcfl 6),
  (0x230000042D02FFF8, .pref .w32 ⟨4, 11, false, true, 0xFFF8⟩),
  (0x240162042C008421, .hint (some 6) 8 4 11 0x8421),
  (0x2500000000000C41, .phase 0xC41),
  (0x2827620401888421, .signal ⟨2, .dev⟩ (some 6) 8 4 0x8421 .xchg),
  (0x2900000400008421, .sack 4 0x8421),
  (0x2A01620000000000, .quiet 6 8),
  (0x2B00034400008421, .sarm 13 4 0x8421),
  (0x2B00080400008421, .sarmOff 4 0x8421),
  (0x3001620400008421, .launch 6 8 4 0x8421),
  (0x3801620401808421, .pgfetch 6 .atomic 8 4 0x8421),
  (0x3901620400008421, .xinv (some 6) 8 4 0x8421)]

theorem test_wordsM2_decode : (wordsM2.all fun p => decodeTableWord 256 (p.1 * 2 ^ 64) == some p.2) = true := by decide +kernel

/-- Syllables of the E slot, field by field from 02 Tables 2.15 to 2.17. -/
def wordsE1 : List (Nat × Instr) := [
  (0x012765565D800000, .cpygl ⟨2, .dev⟩ 6 21 22 23 24),
  (0x022765565D800000, .cpylg ⟨2, .dev⟩ 6 21 22 23 24),
  (0x030165565D800000, .cpyll 6 21 22 23 24),
  (0x042765565D810000, .cpygg ⟨2, .dev⟩ 6 21 22 23 24 true),
  (0x052760165D838421, .cpyfil 6 22 23 0x8421 true (some ⟨⟨2, .dev⟩, 24⟩)),
  (0x060165405C000021, .cpyp 6 21 23 0x21),
  (0x0805565EC0000100, .tld (some 6) 21 22 23 true),
  (0x0905565EC0000100, .tst 6 21 22 23 true),
  (0x1005565C00000000, .talloc 21 22 23),
  (0x1105400000000000, .tfree 21),
  (0x1205560000000000, .thand 21 22),
  (0x1305565C00000000, .ttake 21 22 23),
  (0x1405405C00000000, .tdesc 21 23),
  (0x1505560000000000, .tsetd 21 22),
  (0x20054002C0000000, .mzero (some 6) 21),
  (0x2115565EC1F85100, .mhfa (some 6) .b16 21 22 23 true (some ⟨0x3E, 5⟩)),
  (0x2225565ECDF85000, .mbmm (some 6) (.at .r6) 21 22 23 (some ⟨0x3E, 5⟩)),
  (0x23355602C0000000, .msca (some 6) 21 22),
  (0x24354002C0000000, .mhad (some 6) .f32 21),
  (0x25255602C0000D00, .mdrn (some 6) 21 22 13)]

theorem test_wordsE1_decode : (wordsE1.all fun p => decodeTableWord 256 (p.1 * 2 ^ 128) == some p.2) = true := by decide +kernel

/-- Syllables of the E slot, field by field from 02 Tables 2.15 to 2.17. -/
def wordsE2 : List (Nat × Instr) := [
  (0x26455602C0000000, .mcvt (some 6) .i32 21 22),
  (0x27455602C0000000, .madd (some 6) .i32 21 22),
  (0x28355602C0000100, .mscl (some 6) 21 22 true),
  (0x29001602C0000000, .msetd (some 6) 22)]

theorem test_wordsE2_decode : (wordsE2.all fun p => decodeTableWord 256 (p.1 * 2 ^ 128) == some p.2) = true := by decide +kernel

/-- Syllables of the C slot, field by field from 02 Tables 2.18, 2.19. -/
def wordsC1 : List (Nat × Instr) := [
  (0x00012526C0000000, .sadd 9 18 27),
  (0x00022526C0000000, .ssub 9 18 27),
  (0x00032526C0000000, .smul 9 18 27),
  (0x00042526C0100000, .smulh 9 18 27 true),
  (0x00052526C0100000, .sdiv 9 18 27 true),
  (0x00062526C0100000, .srem 9 18 27 true),
  (0x00072526C0000000, .sand 9 18 27),
  (0x00082526C0000000, .sor 9 18 27),
  (0x00092526C0000000, .sxor 9 18 27),
  (0x000A2526C0000000, .sandn 9 18 27),
  (0x000B2526C0000000, .sshl 9 18 27),
  (0x000C2526C0000000, .sshr 9 18 27),
  (0x000D2526C0000000, .ssra 9 18 27),
  (0x000E2526C0100000, .smin 9 18 27 true),
  (0x000F2526C0100000, .smax 9 18 27 true),
  (0x00102526C0700000, .scmp .len 9 18 27),
  (0x00112526E4000000, .ssel 9 18 27 36),
  (0x0012252000000000, .spopc 9 18),
  (0x0013252000000000, .sclz 9 18),
  (0x0014252000000000, .sctz 9 18)]

theorem test_wordsC1_decode : (wordsC1.all fun p => decodeTableWord 256 (p.1 * 2 ^ 192) == some p.2) = true := by decide +kernel

/-- Syllables of the C slot, field by field from 02 Tables 2.18, 2.19. -/
def wordsC2 : List (Nat × Instr) := [
  (0x00152526C0100000, .sbfx 9 18 27 true),
  (0x00162526E4000000, .sbfi 9 18 27 36),
  (0x00182520FEDCBA98, .saddi 9 18 0xFEDCBA98),
  (0x00192520FEDCBA98, .sandi 9 18 0xFEDCBA98),
  (0x001A2520FEDCBA98, .sori 9 18 0xFEDCBA98),
  (0x001B2520FEDCBA98, .sxori 9 18 0xFEDCBA98),
  (0x001C2400FEDCBA98, .sli 9 0xFEDCBA98),
  (0x001D2520FEDCBA98, .slih 9 18 0xFEDCBA98),
  (0x001E252000000021, .sshli 9 18 33),
  (0x001F252100000021, .sshri 9 18 33 true),
  (0x002024000000000B, .sget 9 0x0B),
  (0x002101200000000B, .sset 0x0B 18),
  (0x0024012000000000, .emset 18),
  (0x0025252000000000, .emand 9 18),
  (0x0026240000000000, .emget 9),
  (0x0027012000100000, .exit (some 18)),
  (0x003000007EDCBA98, .br 0x7EDCBA98),
  (0x003101247EDCBA98, .bc .gtz 18 0x7EDCBA98),
  (0x003200007EDCBA98, .bzm 0x7EDCBA98),
  (0x0033012000B00000, .jr 18 11)]

theorem test_wordsC2_decode : (wordsC2.all fun p => decodeTableWord 256 (p.1 * 2 ^ 192) == some p.2) = true := by decide +kernel

/-- Syllables of the C slot, field by field from 02 Tables 2.18, 2.19. -/
def wordsC3 : List (Nat × Instr) := [
  (0x003424007EDCBA98, .call 9 0x7EDCBA98),
  (0x0035252000B00000, .callr 9 18 11),
  (0x0036012000000000, .ret 18),
  (0x0037000B00000000, .lpad 11),
  (0x003801217EDCBA98, .loop 1 18 0x7EDCBA98),
  (0x0039000184211234, .loopi 1 0x8421 0x1234),
  (0x003A000000100000, .loopx 1),
  (0x004000C6C0000000, .waitf (some ⟨12, 27⟩)),
  (0x0041000000000000, .yield),
  (0x00420120FEDCBA98, .bjoin 18 0xFEDCBA98),
  (0x00430120FEDCBA98, .bleave 18 0xFEDCBA98),
  (0x00440120FEDCBA98, .barv 18 0xFEDCBA98),
  (0x00450120FEDCBA98, .bwait 18 0xFEDCBA98),
  (0x00460120FEDCBA98, .bsync 18 0xFEDCBA98),
  (0x0047000000000000, .sent),
  (0x0047000000100000, .sentClose),
  (0x0048012000000000, .step 18),
  (0x0050000000008421, .trap 0x8421),
  (0x0051000000000000, .rft),
  (0x00522520FEDCBA98, .tfrd 9 18 0xFEDCBA98)]

theorem test_wordsC3_decode : (wordsC3.all fun p => decodeTableWord 256 (p.1 * 2 ^ 192) == some p.2) = true := by decide +kernel

/-- Syllables of the C slot, field by field from 02 Tables 2.18, 2.19. -/
def wordsC4 : List (Nat × Instr) := [
  (0x00532520FEDCBA98, .tfwr 9 18 0xFEDCBA98),
  (0x0054000000000842, .brk 0x842),
  (0x0055000000000000, .haltw)]

theorem test_wordsC4_decode : (wordsC4.all fun p => decodeTableWord 256 (p.1 * 2 ^ 192) == some p.2) = true := by decide +kernel

/-! ## States that meet the statements' hypotheses

Expected outcomes stand in the statements; a witness shows only that the hypotheses of each clause can be met together. -/

/-- A warp about to issue, at an undisturbed boundary. -/
def base : State := (State.reset.withFetchWord 256 0).advance 1

/-- The same in handler mode. -/
def handler : State := base.onW fun w => { w with hm := true }

/-- A data page: readable, writable, atomic, at virtual address 0x20000. -/
def page : TlbEnt := { ctx := 1, va := 0x20000, sz := .k64, leaf := BitVec.ofNat 64 (mkLeaf 0x80000 0 0 { r := true, w := true, a := true, x := false } false) }

/-- A cohort with banks of every kind, two barriers of which the warp is a member of the first, and the first line of the page in
its L1; s4 holds the page's address and s6 the number 1. -/
def rich : State :=
  ((base.onCo fun c =>
    { c with banks := 3, ns := 1, nf := 1, nl := 1, nbars := 2, bars := [(0, { Bar.fresh with mem := [0, 1] })],
             l1 := [{ bank := 2, line := 0x80000 / 128, bytes := List.replicate 128 7 }] }).onCore fun c => { c with tlb := page :: c.tlb }).onW fun w =>
    { w with s := [(4, 0x20000), (6, 1)] }

/-- Every form of a list can be issued at an undisturbed boundary of the state. -/
def issuable (s : State) (l : List Instr) : Bool := s.calm && l.all fun i => s.admits i

/-- At least one form of every V, M, E and C instruction meets the premises of `runsTo`. -/
theorem wit_forms_V : issuable base ((wordsV1 ++ wordsV2 ++ wordsV3 ++ wordsV4).map Prod.snd) = true := by decide +kernel
theorem wit_forms_ME : issuable base ((wordsM1 ++ wordsM2 ++ wordsE1 ++ wordsE2).map Prod.snd) = true := by decide +kernel
theorem wit_forms_C : issuable base ((wordsC1 ++ wordsC2 ++ wordsC3 ++ wordsC4).map Prod.snd) = true := by decide +kernel
theorem wit_forms_handler : issuable handler [.vnop, .mnop, .enop, .cnop, .tfrd 1 0 0, .tfwr 1 0 0, .sget 1 0x25, .sset 0x25 1, .rft, .trap 0xFFFF, .brk 0xFFF,
    .pgfetch 15 .exec 1 4 0, .xinv none 1 4 0] = true := by decide +kernel
theorem wit_forms_rich : issuable rich [.lld 8 .w32 ⟨0, 0, true, false, 0⟩ true 7, .bsync 0 0, .gldc ⟨0, .core⟩ 8 .w32 ⟨4, 0, true, false, 124⟩ false 0] = true := by
  decide +kernel

theorem wit_StepRunsDecoded :
    base.host.powered = true ∧ { base with inbox := [.yield] }.inbox = .yield :: [] ∧ base.inbox = [] ∧ base.runs = true ∧ base.record = none ∧
    (let s := { base with turn := 5 }
     (∀ k < (7 - s.turn % 7) % 7, (s.taker ((s.turn + k) % 7)).isNone = true) ∧ s.record = none) ∧
    { base with inbox := [.ctxend { src := 5, session := 1, seq := 1 } 3] }.inbox ≠ [] ∧
    ((base.advance base.w.nextIssue).wake.w.restart = []) ∧
    (match (base.advance base.w.nextIssue).wake.fetch with
      | .bits n _ => n / 2 ^ 252 == 0 && decodeTableWord 256 n == some .vnop
      | _ => false) = true := by decide +kernel
theorem wit_RoundTrip : (∀ i ∈ [Instr.vnop, .saddi 63 63 0xFFFFFFFF, .gld ⟨15, .sys⟩ 15 60 .w128 ⟨63, 63, 0xFFFF⟩],
    i.slot.isSome = true ∧ WellFormed i ∧ i ∉ [Instr.mnop, .enop, .cnop]) := by decide +kernel
theorem wit_IntegerElements : Etype.i4x8.isF = false ∧ 7 < Etype.i4x8.count ∧ Etype.n32.isF = false ∧ 0 < Etype.n32.count := by decide
theorem wit_FloatSpecials :
    0x7F800000 < (0x7F800001 : LaneVal).toNat % 2 ^ 31 ∧ (0xFF800000 : LaneVal).toNat % 2 ^ 31 = 0x7F800000 ∧ (0x7F7FFFFF : LaneVal).toNat % 2 ^ 31 < 0x7F800000 ∧
    (0x80000000 : LaneVal).toNat % 2 ^ 31 = 0 ∧ 0x00800000 ≤ (0x80800000 : LaneVal).toNat % 2 ^ 31 ∧ (0x80000000 : LaneVal).toNat = 0x80000000 ∧
    Num.unpack .f16 0x0001 = .num false 1 (-24) ∧ Num.unpack .f32 0xFF7FFFFF = .num true 0xFFFFFF 104 ∧ Num.unpack .b16 0x0080 = .num false 128 (-133) := by decide +kernel
theorem wit_FloatKeys :
    Num.unpack (LaneFns.fmtOf .f16x2) 0x7C01 = .nan true ∧ Num.unpack (LaneFns.fmtOf .b16x2) 0xFF80 = .inf true ∧ Num.unpack (LaneFns.fmtOf .f32) 0x7F800000 = .inf false ∧
    Num.unpack (LaneFns.fmtOf .f32) 0x80000000 = .num true 0 (-149) ∧ Num.unpack (LaneFns.fmtOf .f32) 0 = .num false 0 (-149) ∧
    Num.unpack (LaneFns.fmtOf .f32) 1 = .num false 1 (-149) ∧ Etype.f16x2.count = 2 := by decide +kernel

/-! ### The C slot -/

theorem wit_NopBundles : (let n := 7 * 2 ^ 253 + 0xFFFFFFFFFFFF * 2 ^ 192 + 0xFFFFFF
    fld n 56 8 = 0 ∧ fld n 120 8 = 0 ∧ fld n 184 8 = 0 ∧ fld n 240 8 = 0 ∧ fld n 252 1 = 0 ∧ fld (n + 2 ^ 252) 252 1 = 1) := by decide +kernel
theorem wit_UndefinedControlOpcodes :
    ([0x17, 0x22, 0x23, 0x28, 0x2F, 0x3B, 0x3F, 0x49, 0x4F, 0x56, 0xFF].all fun op => fld (op * 2 ^ 48 + 5) 48 8 == op) = true ∧
    decodeSlot .C (0xFF * 2 ^ 48) = .error 1 ∧ base.w.hm = false := by decide +kernel
theorem wit_ScalarImmediates : fld (0x1E * 2 ^ 48 + 64) 48 8 ∈ [0x1E, 0x1F] ∧ 64 ≤ fld (0x1F * 2 ^ 48 + 0xFFFFFFFF) 0 32 := by decide +kernel
theorem wit_MasksExitsSpecials :
    (let s := base.onW fun w => { w with em := 0 }
     s.calm = true ∧ s.w.em = 0 ∧ s.w.am ≠ 0) ∧
    (rich.w.rdS 6 &&& rich.w.em ≠ 0 ∧ rich.w.am &&& ~~~(rich.w.rdS 6 &&& rich.w.em) ≠ 0 ∧ rich.calm = true) ∧
    (base.w.am &&& ~~~base.w.em = 0 ∧ base.warps = [] ∧ base.admits (.exit none) = true) ∧
    (specialPR 0x25 = true ∧ specialP 0x27 = true ∧ handler.w.hm = true ∧ specialPR 0x00 = false ∧ specialP 0x0B = false) := by decide +kernel
/-- The loops of a witness: level 0 and level 1 end at the bundle, with these counts. -/
def looping (c0 c1 : Word) : State := base.onW fun w => { w with lpc0 := c0, lps0 := 0x8000, lpe0 := w.pc, lpc1 := c1, lps1 := 0x9000, lpe1 := w.pc }
theorem wit_Transfers : (base.w.rdS 0).toNat % 32 = 0 ∧ (rich.w.rdS 4).toNat % 32 = 0 ∧
    ([(0, 0), (1, 0), (2, 0), (1, 1), (2, 1), (2, 2)].all fun p => (looping p.1 p.2).calm) = true := by decide +kernel
/-- A second warp of the core that may issue. -/
def second : Warp := { base.w with id := 9, warpIdx := 1 }
theorem wit_WaitsAndBarriers :
    (base.stepOn.eligible.filter fun w => w.id != base.w.id) = [] ∧
    (let s := { base with warps := [second] }
     (s.stepOn.eligible.filter fun w => w.id != s.w.id) ≠ [] ∧ s.calm = true ∧ s.admits .yield = true) ∧
    (rich.calm = true ∧ (rich.w.rdS 6 + 0).toNat < rich.co.nbars ∧ (rich.w.rdS 0).toNat < rich.co.nbars ∧ rich.w.warpIdx ∈ (rich.barAt 0).mem ∧
      rich.w.warpIdx ∉ (rich.barAt 1).mem ∧ rich.co.cid = rich.w.cid ∧ rich.co.cid ≠ 0) := by decide +kernel
theorem wit_SentencesFrameHalt : base.warps = [] ∧ base.calm = true ∧ base.admits .haltw = true ∧ handler.calm = true ∧
    (handler.w.rdS 0 + (800 : BitVec 32).setWidth 64).toNat < 801 ∧ ¬ (handler.w.rdS 0 + (801 : BitVec 32).setWidth 64).toNat < 801 := by decide +kernel

/-! ### The M slot -/

theorem wit_LocalAccessAndL1 :
    (rich.calm = true ∧ rich.co.drain = none ∧ rich.co.bad = [] ∧ tok 0 rich.co.scratch = true ∧ rich.co.stores = []) ∧
    (∀ p ∈ rich.w.laneAddrs ⟨0, 0, true, false, 16380⟩, p.va.toNat % wBytes .w32 = 0 ∧ p.va.toNat + wBytes .w32 ≤ 16384 * rich.co.ns) ∧
    ((0 : Nat) % wBytes .w64 = 0 ∧ 16376 + wBytes .w64 ≤ 16384 * rich.co.ns) ∧
    ((0x421 : BitVec 16).toNat % 32 + (0x421 : BitVec 16).toNat / 32 % 32 + (0x421 : BitVec 16).toNat / 1024 % 32 = rich.co.banks) ∧
    rich.core.fenced rich.w.id 0 rich.nextId false = false ∧ rich.core.classBusy rich.w.id 0 rich.nextId = false := by decide +kernel
theorem wit_l1Hit : rich.l1Hit 4 0x2007C := ⟨by decide +kernel, by decide +kernel, 0x8007C, page.leaf, by decide +kernel, by decide +kernel⟩
/-- A FIFO of n granules in the first FIFO bank. -/
def queued (n : Nat) : State := rich.onCo fun c => c.setFifo 0 { q := List.replicate n [], ovf := false }
theorem wit_LocalAtomicsAndFifos :
    (queued 252).calm = true ∧ ((queued 252).co.fifo 0).q.length + wBytes .w32 ≤ 256 ∧ 0 < (queued 252).co.nf ∧
    wBytes .w32 ≤ ((queued 4).co.fifo 0).q.length ∧ 256 < ((queued 253).co.fifo 0).q.length + wBytes .w32 ∧ ((queued 3).co.fifo 0).q.length < wBytes .w32 ∧
    (queued 253).calm = true ∧ (queued 3).core.hold = none ∧ issuable (queued 253) [.qenq 8 .w32 0 0, .qdeq 8 .w32 0 0 true 7] = true := by decide +kernel
theorem wit_canReach : rich.canReach 4 [1, 2, 3] 0x20000 ∧ rich.canReach 8 [1, 2, 3] 0x2FFF8 ∧ rich.flagRoom (some 15) ∧ rich.flagRoom none :=
  ⟨⟨by decide +kernel, .main 0x80000, page.leaf, by decide +kernel⟩, ⟨by decide +kernel, .main 0x8FFF8, page.leaf, by decide +kernel⟩, fun k hk => by cases hk; decide +kernel, fun k hk => by cases hk⟩
theorem wit_OrderingAndSignals :
    (rich.xlate rich.w.ctx 0x20008 [] = .ok (.main 0x80008) page.leaf ∧ 0 < rich.co.nf ∧ (∀ c ∈ rich.allCores, ∀ g ∈ c.sigs, g.pa = some 0x80008 → g.cid = rich.co.cid) ∧
      rich.core.sigs.length < 16) ∧
    (16320 % 64 = 0 ∧ 16320 + 64 ≤ 16384 * rich.co.ns) ∧
    (rich.prefLanes .w32 (rich.w.laneAddrs ⟨0, 0, true, false, 0⟩) = [] ∧ rich.prefLanes .w32 (rich.w.laneAddrs ⟨4, 0, true, false, 0⟩) ≠ [] ∧
      rich.prefLanes .w32 (rich.w.laneAddrs ⟨4, 0, true, false, 1⟩) = []) ∧
    (let g : SigSlot := { cid := rich.co.cid, ctx := 1, va := 0x20008, pa := some 0x80008, q := 0, wait := [], pend := [none, some 3] }
     let s := rich.onCore fun c => { c with sigs := [g] }
     let own := fun g : SigSlot => g.cid == s.co.cid && g.va == 0x20008
     s.calm = true ∧ s.core.sigs.find? own = some g ∧ g.pend = none :: [some 3] ∧ (rich.core.sigs.find? own).isNone = true) := by decide +kernel

/-! ### The E slot -/

/-- Tiles of the E-slot witnesses: h1, h2 F16 A and B, h3, h7 F32 accumulators, h4 an I32 one, h5, h6 BLK8 A and B, h8 a row of F32, h9, h10
halo tiles of F16 and BLK8, h11 to h13 a smallest product; slot 10 is free. s8, s9 name a good and an ill-formed descriptor, s12 the second warp's mailbox 2; mailbox 3 holds slot 11. -/
def tiles : State :=
  let sl := fun d : Word => { TSlot.free with owner := rich.co.cid + 1, taken := true, desc := d }
  { (rich.onCore fun c => { c with slots := [(0, sl 0x101000), (1, sl 0x101040), (2, sl 0x101004), (3, sl 0x101044), (4, sl 0x405101420), (5, sl 0x405101424), (6, sl 0x100104), (7, sl 0x011044),
      (10, { TSlot.free with owner := rich.co.cid + 1 }), (11, sl 0x101000), (64, sl 0x101012), (65, sl 0x101013), (66, sl 0x101012), (67, sl 0x100112), (68, sl 0x010113)] }).onW fun w =>
    { w with h := [(1, 1), (2, 2), (3, 65), (4, 66), (5, 3), (6, 4), (7, 67), (8, 68), (9, 5), (10, 6), (11, 7), (12, 8), (13, 69)], mail := [(3, 12)],
             s := [(4, 0x20000), (6, 1), (7, 64), (8, 0x101000), (9, 0x10000000000), (10, 0x20), (12, 0x201), (13, 3)] } with warps := [second] }

theorem wit_CopiesStart :
    (let fine := fun c : Copy => c.misalign.isNone && (c.beyond (16384 * rich.co.ns)).isNone && !c.badGeo
     (rich.core.copies.filter fun c => c.susp.isNone).length < 16 ∧ (rich.core.copies.filter fun c => c.wid == rich.w.id).length < 4 ∧
     ([rich.theCopy .gl ⟨0, .dev⟩ 1 4 0 6 0 0, rich.theCopy .lg ⟨0, .dev⟩ 1 0 4 6 0 0, rich.theCopy .ll ⟨0, .core⟩ 1 0 0 6 0 0, rich.theCopy (.gg true) ⟨0, .dev⟩ 1 4 4 6 0 0,
       rich.theCopy (.fil true false) ⟨0, .dev⟩ 1 0 4 6 0 0x3F80, rich.theCopy (.fil false true) ⟨0, .core⟩ 1 0 0 6 0 0x3F80,
       tiles.theCopy (.p 0) ⟨0, .core⟩ 1 0 0 7 0 0].all fine) = true ∧ issuable rich [.cpygl ⟨0, .dev⟩ 1 4 0 6 0, .cpyfil 1 4 6 0x3F80 true none] = true) ∧
    (let g : Gang := { uid := rich.co.gang, launch := 0, gidx := 0, size := 2, part := 0, cids := [rich.co.cid, 90], chans := [⟨rich.co.idx, 1, 4⟩], slots := [], cores := [], ctx := 1, areas := [], preempting := false }
     let s := { tiles with sch := { tiles.sch with gangs := [g] } }
     s.sch.gangs.find? (fun x => x.uid == s.co.gang) = some g ∧ g.chans[(0 : BitVec 16).toNat]? = some ⟨rich.co.idx, 1, 4⟩ ∧ s.co.idx < g.size ∧ 1 < g.size ∧
     issuable s [.cpyp 1 0 7 0] = true) := by decide +kernel

theorem wit_HandlesAndTiles :
    (tiles.calm = true ∧ (tiles.w.slotOf 20).isNone = true ∧ tiles.w.binding 20 = false ∧
      (let d := descOf (tiles.w.rdS 8)
       d.wellFormed = true ∧ d.fits = true ∧ tiles.freeSlots d.acc ≠ [] ∧ tiles.freeSlots (!d.acc) = []) ∧
      (descOf (tiles.w.rdS 9)).wellFormed = false ∧ (descOf (tiles.w.rdS 0)).wellFormed = true ∧ (descOf (tiles.w.rdS 0)).fits = false ∧
      (descOf (tiles.slotAt 64).desc).wellFormed = true ∧ (descOf (tiles.slotAt 64).desc).fits = true ∧
      tget 0 tiles.w.mail ((tiles.w.rdS 13).toNat % 16) ≠ 0 ∧ tget 0 tiles.w.mail ((tiles.w.rdS 0).toNat % 16) = 0 ∧
      tiles.w.slotOf 1 = some 0 ∧ (descOf (tiles.w.rdS 8)).acc = (descOf (tiles.slotAt 0).desc).acc ∧ tiles.busy 0 = false ∧
      tiles.peer ((tiles.w.rdS 12).toNat % 16) = some second ∧ tget 0 second.mail ((tiles.w.rdS 12).toNat / 256 % 16) = 0) ∧
    (tiles.w.hm = false ∧ tiles.w.slotOf 20 = none) ∧
    (let d := descOf (tiles.slotAt 0).desc
     tiles.descOfH 1 = some d ∧ tiles.core.mxq.length < 8 ∧ (tiles.w.rdS 0).toNat % d.esz = 0 ∧ (tiles.w.rdS 10).toNat % 2 ^ 32 % d.esz = 0 ∧
     tileBeyond d 0 0x20 0 true (16384 * tiles.co.ns) = none) ∧
    issuable tiles [.talloc 20 8 7, .ttake 20 13 7, .tfree 1, .tdesc 1 7, .tsetd 1 8, .thand 1 12, .mzero none 20, .msca none 20 7, .mcvt none .f16 20 7,
      .tld none 1 0 10 true, .tst 2 1 0 10 true,
      .vtrd ⟨.n32, ⟨5, false, false, 0⟩, false⟩ 20 ⟨.c 1, .none⟩, .vtwr ⟨.n32, ⟨1, false, false, 0⟩, false⟩ ⟨.c 1, .none⟩ ⟨.c 1, .none⟩] = true := by decide +kernel

theorem wit_MatrixEntries :
    (let d := fun h : Reg => (tiles.descOfH h).getD (descOf 0)
     (∀ h ∈ ([1, 2, 3, 4, 5, 6, 7, 8, 9, 10] : List Reg), (tiles.descOfH h).isSome = true ∧ (d h).wellFormed = true ∧ (d h).fits = true) ∧
     (d 1).fmt = 0 ∧ (d 1).cols % 16 = 0 ∧ ((d 3).acc = true ∧ (d 3).fmt = 2 ∧ (d 4).acc = true ∧ (d 4).fmt = 3 ∧ (d 3).rows = (d 4).rows ∧ (d 3).cols = (d 4).cols) ∧
     ((d 5).fmt = 4 ∧ (d 5).kax = false ∧ (d 5).rows = (d 3).rows ∧ 16 * 0 + 15 < (d 3).cols) ∧ ((d 7).fmt = (d 3).fmt) ∧
     ((d 8).rows = 1 ∧ (d 8).cols = (d 3).cols) ∧
     (16 ≤ (d 3).rows ∧ (d 1).kax = false ∧ 16 ≤ (d 1).cols ∧ 16 ≤ (d 1).rows ∧ (d 2).kax = true ∧ (d 2).fmt = 0 ∧ 16 ≤ (d 2).rows ∧ 16 ≤ (d 2).cols) ∧
     ((d 9).halo = true ∧ (d 9).fmt = 0 ∧ (d 9).ow - 1 < (d 9).gw ∧ 15 / (d 9).ow < (d 9).rows / (d 9).gw) ∧
     ((d 4).rows ≤ 32 ∧ (d 6).fmt = 4 ∧ (d 6).kax = true ∧ (d 10).fmt = 4 ∧ (d 10).halo = true)) ∧
    issuable tiles [.mzero (some 3) 3, .mhad none .f16 1, .msca none 3 4, .mdrn none 5 3 0, .mcvt none .f16 1 2, .madd none .f32 3 7, .mscl none 3 8 false,
      .mhfa none .f16 3 1 2 false none, .mhfa none .f16 3 9 2 false (some ⟨0, 0⟩), .mbmm none .auto 4 5 6 none, .mbmm none .auto 4 10 6 (some ⟨0, 0⟩), .msetd none 8] = true := by
  decide +kernel
/-- A broken statement about the store bit would show here (10 Table 10.2): an F32 tile is well formed, an F16 accumulator is not. -/
theorem test_descriptors : (descOf 0x101002).wellFormed = true ∧ (descOf 0x101010).wellFormed = false ∧ (descOf 0x0000000000102004).size = 544 ∧
    (descOf 0x0000000000201044).size = 544 ∧ (descOf 0x0000000000202012).size = 4096 := by decide +kernel

/-! ### Traps -/

/-- A state whose s4 is misaligned for every access of more than a byte and for a transfer. -/
def crooked : State := rich.onW fun w => { w with s := [(4, 0x20001), (6, 1), (7, 9), (62, 0x11)] }

theorem wit_OperandChecksTrap :
    crooked.w.hm = false ∧ crooked.calm = true ∧ (crooked.w.rdS 4).toNat % 32 ≠ 0 ∧ crooked.co.nbars ≤ (crooked.w.rdS 7 + 0).toNat ∧
    ((crooked.w.rdS 6 + 0).toNat < crooked.co.nbars ∧ crooked.w.warpIdx ∉ (crooked.barAt 1).mem) ∧ ((0 : BitVec 16).toNat % 32 ≠ crooked.co.banks) ∧
    crooked.co.nf ≤ (crooked.w.rdS 7).toNat ∧ ((crooked.w.rdS 62).toNat % wBytes .w16 ≠ 0 ∧ (crooked.w.rdS 62).toNat + wBytes .w16 ≤ 16384 * crooked.co.ns) ∧
    issuable crooked [.tfrd 1 4 0, .tfwr 4 1 0, .rft, .sget 1 0x25, .sset 0x27 1, .pgfetch 1 .exec 3 4 0, .xinv none 1 4 0, .jr 4 0, .callr 1 4 0, .ret 4,
      .bjoin 7 0, .barv 6 0, .bsync 6 0, .phase 0, .qenq 8 .w32 7 0, .qstat 1 7 0, .llds 1 .w16 62 0, .lsts 1 .w16 62 0, .sgld ⟨0, .dev⟩ 1 8 .w16 62 0,
      .sgst ⟨0, .dev⟩ none 8 .w16 62 0] = true := by decide +kernel
theorem wit_TrapEntry : rich.settle = rich ∧ fitsFrame rich.w rich.now = true ∧ tok 0 rich.w.s = true := by decide +kernel
theorem wit_ReturnFromTrap : handler.w.hm = true ∧ tok 0 handler.w.s = true ∧ (handler.rft (handler.now + 3)).asyncCauses = [] ∧ issuable handler [.rft] = true := by
  decide +kernel
theorem wit_TrapInstructions :
    (handler.w.hm = true ∧ issuable handler [.trap 1, .brk 1] = true) ∧
    (base.w.hm = false ∧ ([(12, 7), (13, 4097)].all fun p : Nat × Nat =>
      let t := base.stepOn.onW fun w => { w with pend := w.pend ++ [{ code := p.1, detail := p.2, w2 := base.w.pc, w3 := 0, slots := 8 }] }
      match t.fetch with
      | .bits n u => (readBun n).causes u == []
      | _ => false) = true) ∧
    (let s := crooked.onW fun w => { w with hm := true, causeRead := false }
     s.calm = true ∧ (s.w.rdS 62).toNat % wBytes .w32 ≠ 0 ∧ (s.w.rdS 62).toNat + wBytes .w32 ≤ 16384 * s.co.ns ∧ issuable s [.llds 1 .w32 62 0] = true) := by decide +kernel
theorem wit_LandingPads :
    (let s := base.onW fun w => { w with owed := some { kind := 3, src := 0x40 } }
     (s.onW fun w => { w with owed := none }).calm = true ∧ s.w.hm = false ∧ s.admits (.lpad 3) = true ∧ s.w.owed = some { kind := 3, src := 0x40 }) ∧
    issuable base [.lpad 3] = true := by decide +kernel

/-! ### Frames and invariants -/

/-- Does the run end in a next state? -/
def goesOn (i : Instr) (s : State) : Bool := match exec i s with | .next _ => true | _ => false

theorem wit_ResultFrames :
    (scalarDest (.sadd 5 4 6) = some 5 ∧ rich.calm = true ∧ rich.admits (.sadd 5 4 6) = true ∧ tok 0 rich.stepOn.w.s = true ∧ goesOn (.sadd 5 4 6) rich = true) ∧
    (let i := Instr.vaddi ⟨.i32, ⟨3, false, false, 0⟩⟩ (.v 2) 0x100
     (vectorDest i).isSome = true ∧ rich.admits i = true ∧ goesOn i rich = true) := by decide +kernel
theorem wit_BundleLeavesRest :
    rich.w.fly = [] ∧ rich.w.hpend = [] ∧ rich.co.stores = [] ∧ rich.co.drain = none ∧ rich.core.vtw = [] ∧ (∀ p ∈ tiles.core.slots, p.2.clearAt = none) ∧
    rich.w.lpc0 = 0 ∧ rich.w.lpc1 = 0 := by decide +kernel
theorem wit_SlotsLeaveMemory : (Instr.sgst ⟨0, .dev⟩ (some 1) 6 .w64 4 0).slot.isSome = true ∧ tok Sector.absent rich.mem.l2 = true ∧
    goesOn (.sgst ⟨0, .dev⟩ (some 1) 6 .w64 4 0) rich = true := by decide +kernel
theorem wit_HandlerModeIsLeftByRft : handler.calm = true ∧ goesOn .rft handler = true ∧ handler.admits .rft = true ∧ base.calm = true ∧ goesOn .cnop base = true := by
  decide +kernel
theorem wit_MemoryStaysCanonical : (Memory.wf base.mem.bytes = true) ∧ (match step base with | .next _ => true | _ => false) = true := by decide +kernel

/-! ### Events of the core -/

/-- The warp's bundle replaced by one that holds i alone. -/
def holding (s : State) (i : Instr) : State :=
  match s.xlate s.w.ctx s.w.pc.toNat [4] with
  | .ok (.main pa) _ => s.onMem fun m => m.write none ((leBytes 32 (encodeBundle i)).zipIdx.map fun q => (pa + q.2, q.1))
  | _ => s
/-- Does the fetch of s read the instruction i alone, with the warp as it stands? -/
def fetches (s : State) (i : Instr) : Bool :=
  match s.fetch with
  | .bits n v => n / 2 ^ 252 == 0 && decodeTableWord 256 n == some i && v.calm && v.admits i && !v.w.hm && v.co.drain.isNone && v.core.hold == s.core.hold && v.co.nf == s.co.nf
  | _ => false

theorem wit_ResultsFallDue :
    (let f : Flight := { due := 9, dst := .s 5, mask := 0, lanes := [], word := 77 }
     let g : Flight := { due := 10, dst := .v 5, mask := 3, lanes := zeroLanes, word := 0 }
     let s := rich.onW fun w => { w with fly := [f, g], nextIssue := 12 }
     (s.focusCore 0).w.fly = f :: [g] ∧ s.now < f.due ∧ (s.focusCore 0).reaches f.due = true ∧ (s.focus s.w.id).w.fly = f :: [g] ∧ f.due < g.due ∧ tok 0 s.w.s = true ∧
     tok zeroLanes s.w.v = true) ∧
    (let s := (rich.onCo fun c => { c with drain := some { endAt := 5, banks := [1] } }).onW fun w => { w with nextIssue := 12 }
     (s.focusCo s.co.cid).co.cid = s.co.cid ∧ (s.focusCo s.co.cid).co.drain = some { endAt := 5, banks := [1] } ∧ (s.focusCo s.co.cid).reaches 5 = true) ∧
    (let s := (rich.onCore fun c => { c with slots := [(1, { TSlot.free with owner := 1, releasing := true, clearAt := some 5 })] }).onW fun w => { w with nextIssue := 12 }
     ((s.focusCore 0).slotAt 1).clearAt = some 5 ∧ (s.focusCore 0).reaches 5 = true ∧ tok TSlot.free s.core.slots = true ∧ s.core.vtw = []) ∧
    (let v : Vtw := { due := rich.now + 1, slot := 1, words := [(5, 0x12345678)] }
     let s := (rich.onCore fun c => { c with vtw := [v] }).onW fun w => { w with nextIssue := 12 }
     s.core.vtw = [v] ∧ (s.slotAt 1).clearAt = none ∧ s.reaches v.due = true ∧ s.now < v.due ∧ tok TSlot.free s.core.slots = true ∧ tok 0 (s.slotAt 1).bytes = true) := by decide +kernel

theorem wit_BoundaryEvents :
    (let c := base.focusCore 0
     c.atIssue = true ∧ c.boundary.w.restart = [] ∧ (match c.boundary.fetch with
      | .bits n v => n / 2 ^ 252 == 0 && decodeTableWord 256 n == some .vnop && v.calm
      | _ => false) = true) ∧
    (let u := (base.onW fun w => { w with pc := 0x7000000 }).focus base.w.id
     let b := u.boundary
     u.atIssue = true ∧ b.w.restart = [] ∧ b.w.hm = false ∧ b.asyncCauses = [] ∧ (match b.fetch with
      | .fault _ => true
      | _ => false) = true) ∧
    (let o : Owed := { kind := 3, src := 0x40 }
     let u := ((holding base (.lpad 3)).onW fun w => { w with owed := some o }).focus base.w.id
     let b := u.boundary
     u.atIssue = true ∧ u.w.restart = [] ∧ u.w.owed = some o ∧ (match b.fetch with
      | .bits n v => v.w.owed == some o && decodeTableWord 256 n == some (.lpad 3)
      | _ => false) = true) ∧
    (let r : Sentence := { em := 3, am := 7, lps0 := 1, lpe0 := 2, lpc0 := 3, lps1 := 4, lpe1 := 5, lpc1 := 6, count := 1 }
     let s := base.onW fun w => { w with restart := [.consumed true 5 6], sent := r, sepc := 0x40 }
     let u := s.focus s.w.id
     u.w.id = s.w.id ∧ u.w.restart ≠ [] ∧ u.w.hm = false ∧ u.w.run = .ready ∧ u.w.sent = r ∧ u.w.sepc ≠ 0 ∧ u.engineBusy s.w.id = false ∧ r.count < 2) ∧
    (let s := base.onW fun w => { w with restart := [.consumed true 5 6], prot := true, lastIssue := 4 }
     s.w.sepc = 0 ∧ RestartReq.disagree ∉ s.w.restart ∧ s.w.prot = true ∧ s.w.lastIssue ≠ 0 ∧ s.w.run ≠ .retired) := by decide +kernel

/-- A FIFO of n granules, a hold of code 7 and the QENQ that caused it. -/
def stuck (n : Nat) : State := (holding (queued n) (.qenq 8 .w32 0 0)).onCore fun c => { c with hold := some { code := 7, len := 3, wid := base.w.id, pc := base.w.pc } }

theorem wit_SchedulerEvents :
    (let u := (base.onCore fun c => { c with running := none }).focusCore 0
     u.core.running = none ∧ (match u.eligible with
      | [w] => u.allWarps.contains w
      | _ => false) = true) ∧
    (let u := (base.onW fun w => { w with quant := 0 }).focusCore 0
     u.core.running = some u.w.id ∧ u.core.qstart + u.w.quant.toNat ≤ u.now) ∧
    (let u := (stuck 253).focusCore 0
     let x := u.onCore fun c => { c with hold := some { code := 7, len := max 3 Config.holdMax, wid := base.w.id, pc := base.w.pc }, held := c.held + (Config.holdMax - 3), want := [] }
     u.core.hold = some { code := 7, len := 3, wid := base.w.id, pc := base.w.pc } ∧ u.core.debugStop = false ∧ x.calm = true ∧ fetches x (.qenq 8 .w32 0 0) = true ∧ 0 < x.co.nf ∧ 256 < (x.co.fifo 0).q.length + wBytes .w32) ∧
    (let u := (stuck 3).focusCore 0
     u.core.hold = some { code := 7, len := 3, wid := base.w.id, pc := base.w.pc } ∧ u.core.debugStop = false ∧ fetches u (.qenq 8 .w32 0 0) = true ∧ 0 < u.co.nf ∧ (u.co.fifo 0).q.length + wBytes .w32 ≤ 256) ∧
    (let u := ((base.onW fun w => { w with run := .waitF 3 0 }).onCore fun c => { c with running := some 99 }).focus base.w.id
     u.w.id = base.w.id ∧ u.w.run = .waitF 3 0 ∧ u.w.rdFlag 3 ≤ 0 ∧ u.core.running = some 99 ∧ 99 ≠ base.w.id ∧ u.core.debugStop = false) ∧
    (let u := (base.onW fun w => { w with run := .waitAll }).focus base.w.id
     u.w.id = base.w.id ∧ u.w.run = .waitAll ∧ u.w.flagsZero = true ∧ u.core.running = some base.w.id ∧ u.core.debugStop = false) ∧
    ((base.onCore fun c => { c with running := none }).focus base.w.id).core.running = none ∧
    ((rich.focusCo rich.co.cid).co.cid = rich.co.cid ∧ (rich.focusCo rich.co.cid).reaches ((rich.focusCo rich.co.cid).barAt 0).relAt = true) ∧
    (let u := ({ base with warps := [second] }.onW fun w => { w with run := .retired, mail := [(2, 2)] }).focus base.w.id
     u.w.id = base.w.id ∧ base.w.id ≠ 0 ∧ u.w.run = .retired ∧ u.w.flagsZero = true ∧ u.outstanding base.w.id = false ∧ (∃ w ∈ u.warps, w.cid = u.co.cid)) := by
  decide +kernel

/-- The queue after an instruction issued, and after its entry has started. -/
def entered (i : Instr) : State := match exec i tiles with
  | .next t => t
  | _ => tiles
def begun (i : Instr) : State := match exec (.matrixEntryStart 0) (entered i) with
  | .next t => t
  | _ => tiles

theorem wit_MatrixEvents :
    ([Instr.msetd none 8, .mzero none 3, .mcvt none .f16 1 2, .mhad none .f16 1, .mbmm none (.at .r6) 13 11 12 none, .mbmm none .auto 13 11 12 none].all fun i => let u := (entered i).focusCore 0
      u.core.nextEntry.any fun e => u.core.canStart e && e.op == i && !u.core.frozen matrixHolds) = true ∧
    (let u := (begun (.mbmm none .auto 13 11 12 none)).focusCore 0
     u.same = true ∧ (u.core.mxq.any fun e => e.ladder && e.pass == some 0 && !u.core.frozen matrixHolds && e.ha.isSome && e.hb.isSome && e.hd.isSome &&
      (let p := runPass (Num.rungW (Machine.rungOf 0)) e.mcank none (descOf e.dd) (descOf e.da) (descOf e.db) (u.slotAt (e.ha.getD 0)) (u.slotAt (e.hb.getD 0))
       !(decide (e.msatb < p.sat) || decide (e.munfb < p.unf) || decide (e.mcanb < p.can)))) = true) ∧
    (let full := fun p : Nat × TSlot => if p.1 = 6 ∨ p.1 = 7 then (p.1, { p.2 with bytes := (List.range 17).map fun i => (i, 127) }) else p
     let s := (begun (.mbmm none .auto 13 11 12 none)).onCore fun c => { c with slots := c.slots.map full }
     let u := s.focusCore 0
     (u.core.mxq.any fun e => (let p := runPass (Num.rungW (Machine.rungOf 0)) e.mcank none (descOf e.dd) (descOf e.da) (descOf e.db) (u.slotAt (e.ha.getD 0)) (u.slotAt (e.hb.getD 0))
       decide (e.msatb < p.sat) || decide (e.munfb < p.unf) || decide (e.mcanb < p.can))) = true) ∧
    (let u := (begun (.mzero none 3)).focusCore 0
     (u.core.mxq.any fun e => e.op == .mzero none 3 && e.pass.isSome && e.hd.isSome && (descOf e.dd).acc) = true) ∧
    ([Instr.mhfa none .f16 3 1 2 false none, .msca none 3 4, .mhad none .f16 1, .mdrn none 5 3 0, .mcvt none .f16 1 2, .madd none .f32 3 7, .mscl none 3 8 false,
      .tld none 1 0 10 true, .tst 2 1 0 10 true].all fun i => let u := (begun i).focusCore 0
      !u.core.frozen matrixHolds && u.core.mxq.any fun e => e.op == i && e.pass.isSome) = true ∧
    (let d := descOf (tiles.slotAt 64).desc
     16 ≤ d.rows ∧ 16 ≤ d.cols ∧ tok 0 (tiles.slotAt 64).bytes = true ∧ (tget 0 (tiles.slotAt 4).ea 0 = 0 ∨ tget 0 (tiles.slotAt 4).eb 0 = 0)) ∧
    ([Instr.tld none 1 0 10 true, .tst 2 1 0 10 true].all fun i => let u := (begun i).focusCore 0
      u.core.mxq.any fun e => let offs := tileOffs (descOf e.dd) e.base e.pitch true
        let co := u.localOf e.cid
        e.hd.isSome && (offs.all fun o => decide (o < co.localBytes)) && co.drain.isNone && co.stores.isEmpty && co.bad.isEmpty && tok 0 co.scratch &&
        tok 0 (u.slotAt (e.hd.getD 0)).bytes && tok TSlot.free u.core.slots && u.allCohorts.any fun c => c.cid == e.cid) = true ∧
    (let e := ((begun (.tst 2 1 0 10 true)).focusCore 0).core.mxq.map fun e => (descOf e.dd, e.base, e.pitch)
     e ≠ [] ∧ ∀ p ∈ e, (tileOffs p.1 p.2.1 p.2.2 true).Nodup) := by decide +kernel

/-! ### Events of the access path -/

/-- An operation of the warp on one lane. -/
def anOp (kind : Machine.OpKind) (w : Width) (pl : Place) : Op :=
  { id := 50, wid := base.w.id, cid := base.w.cid, ctx := 1, job := 3, kind := kind, cls := 2, sc := .dev, flag := none, w := w,
    lanes := [{ lane := 5, va := 0x20004, pl := pl, a := 0x1234, b := 0, sent := false, done := false, res := 9 }],
    issue := 0, done := false, res := 7, wrote := false, waits := [], psn := [], fail := [] }
def working (o : Op) : State := rich.onCore fun c => { c with ops := [o] }
/-- The premises that the clauses about one request share. -/
def asked (o : Op) : Bool :=
  let u := (working o).focusCore 0
  match o.lanes with
  | [x] => (match x.pl with
    | .main pa => decide (pa % 32 + wBytes o.w ≤ 32) && u.lineReady o [x] && !u.retried 0 (pa / 128) (.op 0 o.id) && !u.mem.poisoned (pa / 32) && !u.mem.away (pa / 32) &&
        !u.core.frozen accessHolds && !(u.warpAt o.wid).any Warp.prot && decide (u.mem.l2.length < 16) &&
        (if o.kind.atomic then o.nextLane == [x] else o.nextLine == [x])
    | _ => false)
  | _ => false

theorem wit_RequestsPerform :
    ([anOp (.load 8 false) .w32 (.main 0x80004), anOp .store .w64 (.main 0x80018), anOp (.cas 8) .w32 (.main 0x8001C)].all fun o =>
      asked o && (((working o).focusCore 0).core.ops.find? (·.id == 50) == some o)) = true ∧ tok Sector.absent rich.mem.l2 = true ∧
      (∀ p ∈ rich.mem.l2, tok none p.2.bytes = true) := by decide +kernel

/-- A window that takes requests to peers: entry 2, 16 GB, on path 33. -/
def windowed (s : State) : State :=
  s.onFab fun f => { f with trunks := [(1, { up := true, ports := [true, true, true, true], lanes := List.range 16 }), (2, { up := true, ports := [true, true, true, true], lanes := List.range 16 })], windows := [(2, { w0 := 0x8000108000000000, w1 := 0x10000000000, path := 33, alt := some 34 })] }

/-- A copy with `n` of its elements moved. -/
def aCopy (kind : CopyKind) (src geo : Nat) (n : Nat) : Copy :=
  { id := 50, wid := base.w.id, cid := base.w.cid, ctx := 1, kind := kind, cls := 1, sc := .dev, flag := 3, src := src, dst := 0x40, geo := BitVec.ofNat 64 geo, pit := 0, bnd := 0,
    imm := 0x8765, issue := 0, done := n, asked := n, got := [], susp := none, met := false, walked := [], psn := [], fail := [], bad := false }
def copying (c : Copy) : State := (rich.onCore fun k => { k with copies := [c] }).onXl fun x => { x with dtlb := [(0, [page])] }

theorem wit_PinsAndRecords :
    (([anOp (.load 8 false) .w32 (.main 0x80004), anOp .store .w32 (.main 0x80004), anOp (.cas 8) .w32 (.main 0x80004)].all fun o =>
      let r : Retry := { line := 0x80004 / 128, who := .op 0 50 }
      let s := (working o).onMem fun m => { m with retryq := [r] }
      let u := s.focusCore 0
      asked o && s.mem.retryq.find? (·.line == 0x80004 / 128) == some r && u.core.no == 0 && s.opAt 50 == some o && u.core.ops.find? (·.id == 50) == some o &&
        !u.retried 0 (0x80004 / 128) (.op 0 50) && u.lineReady o o.lanes && (if o.kind.atomic then o.nextLane == o.lanes else o.nextLine == o.lanes)) = true) ∧
    (let s := rich.onMem fun m => { m with retryq := [{ line := 5, who := .op 0 51 }] }
     s.opAt 51 = none ∧ s.mem.retryq.find? (·.line == 5) = some { line := 5, who := .op 0 51 } ∧ ∀ r ∈ s.mem.retryq, r.line ≠ 6) ∧
    (let s := copying (aCopy .gl 0x20000 1 0)
     let t := { s.onMem fun m => { m with retryq := [{ line := 0x80000 / 128, who := .copy 0 50 }] } with cores := [{ CoreSt.fresh 1 with pins := [{ line := 0x80000 / 128, at_ := 0, ctx := 1 }] }] }
     let u := t.focusCore 0
     u.core.copies.find? (·.id == 50) = some (aCopy .gl 0x20000 1 0) ∧ (u.fronts (aCopy .gl 0x20000 1 0)).contains (.retry (0x80000 / 128)) = true) ∧
    (let s := rich.onMem fun m => { m with retryq := [{ line := 5, who := .cache 0 }] }
     let u := s.focusCore 0
     let v := (s.onCore fun c => { c with hold := some { code := 8, len := 3, wid := base.w.id, pc := base.w.pc }, want := [5] }).focusCore 0
     u.core.hold = none ∧ v.core.hold ≠ none ∧ 5 ∈ v.core.want ∧ v.retried 0 5 (.cache 0) = false) ∧
    (let p : Pin := { line := 77, at_ := 0, ctx := 1 }
     let s := (rich.onCore fun c => { c with pins := [p] }).onW fun w => { w with nextIssue := 70000 }
     (s.allCores.find? (fun c => c.pins.any fun p => p.line == 77)).map CoreSt.no = some 0 ∧ (s.focusCore 0).core.pins.find? (·.line == 77) = some p ∧
     (s.focusCore 0).reaches 65536 = true ∧ tok 0 s.mem.forced = true) ∧
    (let g : SigSlot := { cid := rich.co.cid, ctx := 1, va := 0x20008, pa := some 0x80008, q := 0, wait := [{ bytes := List.replicate 64 1, job := 3 }], pend := [none] }
     let u := (rich.onCore fun c => { c with sigs := [g] }).focusCore 0
     u.core.sigs[0]? = some g ∧ g.cid = u.co.cid ∧ u.co.cid ≠ 0 ∧ g.q < u.co.nf ∧ u.co.drain = none ∧ (u.co.fifo 0).q.length < 256 ∧ tok Fifo.empty u.co.fifos = true) ∧
    (let e : WcEntry := { id := 9, wid := base.w.id, ctx := 1, cls := 0, job := 3, pl := .peer 2 100, va := 0x20000, bytes := [(3, some 7)], born := 0, refs := [(50, 5)] }
     let u := ((windowed rich).onCore fun c => { c with wcb := [e] }).onW fun w => { w with nextIssue := 700 }
     (u.focusCore 0).core.wcb = [e] ∧ (u.focusCore 0).reaches 512 = true ∧ u.fab.out = [] ∧ e.pl.remote = some (true, 2, 100) ∧ (u.windowAt 2).takes true 100 = true ∧
     u.pathUp (u.windowAt 2).path = true ∧ u.core.frozen accessHolds = false ∧ u.fab.frozen = [] ∧ u.fab.queued = []) := by
  decide +kernel

theorem wit_ResultsAndCompletions :
    (let fin := fun (o : Op) => { o with done := true }
     ([fin (anOp (.load 5 true) .w32 (.main 0x80004)), fin (anOp (.quiet 5) .w64 (.main 0)), fin (anOp (.load 8 false) .w32 (.main 0x80004)), fin (anOp (.cas 8) .w32 (.main 0x80004)),
       fin (anOp (.atom .add (some 8)) .w8 (.main 0x80004)), fin (anOp (.load 8 false) .w64 (.main 0x80008)), fin (anOp (.cas 8) .w128 (.main 0x80010)), fin (anOp .store .w8 (.main 0x80004))].all fun o =>
         let u := (working o).focusCore 0
         u.core.ops.find? (·.id == 50) == some o && u.w.id == o.wid && !u.core.frozen accessHolds && o.done && !o.wrote && tok 0 u.w.s && tok zeroLanes u.w.v && u.w.id != 0 && (o.lanes.all fun a => decide (a.lane < 64)) && decide (o.lanes.map LaneAcc.lane).Nodup) = true) ∧
    (let o := { anOp (.fence .rel 4) .w32 (.main 0) with sc := .core, lanes := [] }
     let u := (working o).focusCore 0
     u.core.ops.find? (·.id == 50) = some o ∧ u.core.beforeDone o .rel 4 = true ∧ o.done = false ∧ o.waits = [] ∧ u.w.prot = false) := by decide +kernel

/-- A dirty sector, latent errors, and a stack of the given state. -/
def sectored (l : Tbl Stack) : State :=
  rich.onMem fun m => { m with l2 := [(7, { bytes := [(0, some 5), (1, some 6)], dirty := 2, poison := false, mark := 0, late := false, writer := none })], latent := [(3, 1), (4, 2), (5, 3)], stk := l }
theorem wit_StacksAndSectors :
    tok Config.freshByte (sectored []).mem.bytes = true ∧ tok Sector.absent (sectored []).mem.l2 = true ∧ ((sectored []).mem.stack ((sectored []).mem.stackNo 7)).retraining = none ∧
    ((sectored []).mem.stack ((sectored []).mem.stackNo 7)).failed = false ∧ (sectored []).mem.bad 7 = false ∧
    (((sectored []).mem.sector 7).dirty.getLsbD 1 = true ∧ tok 0 (sectored []).mem.latent = true ∧ tok Stack.fresh (sectored []).mem.stk = true ∧
      tok false (sectored []).mem.poison = true ∧ ((sectored []).mem.sector 7).bytes ≠ []) ∧
    (let s := sectored [(1, { Stack.fresh with missed := 2, owned := true, retraining := some .r16w16 })]
     tok Stack.fresh s.mem.stk = true ∧ (s.mem.stack 1).retraining = some .r16w16 ∧ (s.mem.stack 1).owned = true ∧ (s.mem.stack 1).failed = false) ∧
    (rich.w.id ≠ 0 ∧ rich.w.corE < 1024 ∧ tok zeroLanes rich.w.v = true ∧ tok zeroLanes rich.w.x = true ∧ tok 0 rich.w.s = true ∧ tok 0 rich.w.frame = true ∧
      rich.w.run ≠ .retired ∧ (∀ v ∈ rich.warps, v.id ≠ rich.w.id) ∧ rich.co.cid ≠ 0 ∧ 4 * 4095 < 16384 * rich.co.ns ∧ rich.co.corE < 1024 ∧ tok 0 rich.co.scratch = true ∧
      rich.core.no = 0 ∧ tok TSlot.free tiles.core.slots = true ∧ tok 0 (tiles.slotAt 0).bytes = true ∧ tok [] rich.xl.dtlb = true) :=
  ⟨by decide +kernel, by decide +kernel, rfl, rfl, by decide +kernel, by decide +kernel, by decide +kernel, by decide +kernel⟩

/-- What the clauses about a copy share. -/
def copyReady (c : Copy) : Bool :=
  let u := (copying c).focusCore 0
  u.core.copies.find? (·.id == 50) == some c && u.copyAt 50 == some c && !(u.warpAt c.wid).any Warp.prot && u.same && !u.core.copyHeld c && !u.core.frozen copyHolds

theorem wit_CopiesMove :
    (let c := aCopy .gl 0x20000 1 1
     copyReady c = true ∧ c.count ≤ c.done ∧ ((copying c).focusCore 0).awaits 50 = false) ∧
    (let c := aCopy (.fil false true) 0 1 0
     let u := (copying c).focusCore 0
     copyReady c = true ∧ c.count = 1 ∧ u.awaits 50 = false ∧ u.co.cid = c.cid ∧ u.co.cid ≠ 0 ∧ u.co.corE = u.core.no ∧ u.co.drain = none ∧
       addr64 c.dst + c.sz ≤ u.co.localBytes) ∧
    (let main := fun (r : Ready) (va : Nat) => match r with
       | .ok (some (.main pa)) => pa % 128 == va % 128 && decide (pa % 32 + 4 ≤ 32)
       | _ => false
     ([CopyKind.gl, .lg, .ll, .gg false].all fun k =>
       let c := { aCopy k (if k.srcLocal then 0x80 else 0x20000) 1 0 with dst := if k = .lg ∨ k = .gg false then 0x20040 else 0x40, id := 50 }
       let u := (copying c).focusCore 0
       copyReady c && decide (c.count = 1) && !u.awaits 50 && u.co.cid == c.cid && u.co.corE == u.core.no && u.co.drain.isNone && u.co.bad.isEmpty &&
         u.mem.retryq.isEmpty && decide (u.mem.l2.length < 15) && tok Config.freshByte u.mem.bytes && tok Sector.absent u.mem.l2 && (u.mem.l2.all fun p => tok none p.2.bytes) &&
         !u.mem.poisoned (0x80000 / 32) && (k.srcLocal || main (u.readSide c 0) (atOf c.srcAddr 0)) && (k == .gl || k == .ll || main (u.writeSide c 0) (atOf c.dstAddr 0)) &&
         !c.outside 0) = true) ∧
    (let faulting := fun r => match r with
       | Ready.fault _ _ _ _ => true
       | _ => false
     let missed := fun c : Copy => { c with walked := [0x900000] }
     let c := missed (aCopy .gl 0x900000 1 0)
     let d := missed { aCopy (.fil true false) 0 1 0 with dst := 0x900000 }
     copyReady c = true ∧ copyReady d = true ∧ c.done < c.count ∧ c.asked = c.done ∧ d.asked = d.done ∧ ((copying c).focusCore 0).core.copies.length = 1 ∧
       faulting (((copying c).focusCore 0).readSide c 0) = true ∧ faulting (((copying d).focusCore 0).writeSide d 0) = true) ∧
    (let c := aCopy (.p 0) 0 128 0
     let g : Gang := { uid := 8, launch := 0, gidx := 0, size := 1, part := 0, cids := [rich.co.cid], chans := [⟨0, 0, 4⟩], slots := [], cores := [], ctx := 1, areas := [], preempting := false }
     let u := ({ copying c with sch := { rich.sch with gangs := [g] } }.onCo fun x => { x with gang := 8 }).focusCore 0
     let src := u.localOf c.cid
     u.core.planeBusy c = false ∧ u.core.frozen [] = false ∧ ((u.gangOf src).bind fun g => g.arrival 0) = some (u.co.cid, 0) ∧ src.drain = none ∧ src.bad = [] ∧
     (∀ o ∈ (List.range 64).map fun i => addr64 (c.src + 64 * c.done + i), o < src.localBytes) ∧ u.co.cid = rich.co.cid ∧
     0 < u.co.nf ∧ u.co.moving (u.co.fifoBank 0) = false ∧ (u.co.fifo 0).q.length < 256 ∧ tok Fifo.empty u.co.fifos = true) := by decide +kernel

/-! ### Translation, tiers and the fabric -/

/-- Tables of context 1: root 0x100000, a tier page of main memory at 4 × 2 MB, one in the pool at 5 × 2 MB. -/
def tables : State :=
  let w := fun (m : MemSt) (a x : Nat) => m.write none ((leBytes 8 x).zipIdx.map fun q => (a + q.2, q.1))
  let m := w (w (w (w rich.mem 0x100000 (1 + 0x110000)) 0x110000 (1 + 0x120000)) (0x120000 + 8 * 4) (mkLeaf (32 * 2 ^ 21) 0 0 ⟨true, true, true, false⟩ true))
    (0x120000 + 8 * 5) (mkLeaf (64 * 2 ^ 21) 1 7 ⟨true, true, true, false⟩ true)
  let tp := fun (i : Nat) (r : Option Nat) => ({ va := i * 2 ^ 21, hint := some (3, 5), res := r, want := false, waited := false, kept := none } : TierPage)
  { rich with mem := m, xl := { rich.xl with ctxs := [{ id := 1, root := some 0x100000, stepc := 5, quota := 1, window := 2, tier := [tp 4 (some 3), tp 5 none], waits := 0, allocs := [],
                                                         defers := [], kernels := [], code := [], given := [] }] } }
def aMigr (up : Bool) : Migr := { ctx := 1, va := if up then 5 * 2 ^ 21 else 4 * 2 ^ 21, frame := 32 * 2 ^ 21, win := 8, off := 5 * 2 ^ 21, toMain := up }

theorem wit_WalksAndTiers :
    (let s := tables.onXl fun x => { x with merge := [⟨0, 1, 4 * 2 ^ 21, [0, 3], []⟩, ⟨0, 1, 9 * 2 ^ 21, [0], []⟩] }
     s.xl.merge.find? (fun m => m.at_ 0 1 (4 * 2 ^ 21)) = some ⟨0, 1, 4 * 2 ^ 21, [0, 3], []⟩ ∧ s.xl.merge.all s.walking = true ∧ s.walkWaits 1 (4 * 2 ^ 21) = false ∧ s.mem.l2.length < 13 ∧ s.core.no = 0 ∧ tok [] s.xl.dtlb = true ∧ (match s.walkOf 1 (4 * 2 ^ 21) with
      | .leaf _ _ => true
      | _ => false) = true ∧ (match s.walkOf 1 (9 * 2 ^ 21) with
      | .fault _ => true
      | _ => false) = true) ∧
    (hitTlb (tget [] tables.xl.dtlb 0) 1 (4 * 2 ^ 21) = none ∧ tables.xl.merge = []) ∧
    ((tables.ctxAt 1).isSome = true ∧ (tables.ctxAt 1).any (fun c =>
      (firstBy TierPage.upKey (c.tier.filter fun t => t.due c && !tables.isMigrating 1 t.va)).map TierPage.va == some (5 * 2 ^ 21) && decide (c.quota ≤ tables.resident c) &&
      (c.victim (tables.isMigrating 1)).map TierPage.va == some (4 * 2 ^ 21)) = true ∧ (match tables.xlateMem 1 (4 * 2 ^ 21) [] with
      | .ok (.main _) _ => true
      | _ => false) = true ∧ (tables.ctxAt 1).any (fun c => tables.inRange c 0 (2 ^ 21)) = true) ∧
    (let s := tables.onCtx 1 fun c => { c with quota := 2 }
     (s.ctxAt 1).any (fun c => decide (s.resident c < c.quota)) = true) ∧
    (let s := tables.onCtx 1 fun c => { c with tier := c.tier.map fun t => { t with hint := some (7, 5) } }
     (s.ctxAt 1).any (fun c => decide (c.quota ≤ s.resident c) && (c.victim (s.isMigrating 1)).isNone && (c.victim fun _ => false).isNone && c.tier.all (fun t => !t.waited) &&
       (firstBy TierPage.upKey (c.tier.filter fun t => t.due c && !s.isMigrating 1 t.va)).isSome) = true) ∧
    (let s := tables.onXl fun x => { x with migr := [aMigr false] }
     s.migrOf 1 (4 * 2 ^ 21) = some (aMigr false) ∧ s.mem.latent = [] ∧ tok Sector.absent s.mem.l2 = true ∧ (∀ p ∈ s.mem.l2, tok none p.2.bytes = true) ∧ ((s.leafAddr 1 (4 * 2 ^ 21) .m2).any fun a => a % 8 == 0 && !s.mem.poisoned (a / 32)) = true ∧ s.reaching (aMigr false) = false ∧
       s.frameAway (aMigr false).frame = false ∧ s.blocked (s.migrated (aMigr false)) = false ∧ s.mem.l2.length < 15) ∧
    (let s := tables.onXl fun x => { x with migr := [aMigr true] }
     s.migrOf 1 (5 * 2 ^ 21) = some (aMigr true) ∧ ((s.xl.migr.takeWhile (· != aMigr true)).any fun h => h.ctx == 1 && !h.toMain) = false ∧ s.reaching (aMigr true) = false ∧
       s.frameAway (aMigr true).frame = false ∧ s.blocked (s.migrated (aMigr true)) = false) := by decide +kernel

def outReq (path win : Nat) : OutReq := { rid := 1, who := .op 0 50 [5], st := ⟨0, 0, 0, 0, 2⟩, sn := 9, win := win, off := 100, path := path, va := 0x20004, job := 6, marked := false, op := .read 4, node := 8, peer := none, addr := 0, failed := false }

theorem wit_LinksAndPaths :
    (tok Trunk.fresh rich.fab.trunks = true ∧ tok LaneRec.fresh rich.fab.lanes = true) ∧
    (let s := rich.onFab fun f => { f with trunks := [(1, { up := true, ports := [], lanes := [2, 3] })], lanes := [(18, { LaneRec.fresh with state := 2 })] }
     (s.trunkAt (18 / 16)).up = true ∧ (s.laneRec 18).state = 2 ∧ tok Trunk.fresh s.fab.trunks = true ∧ tok LaneRec.fresh s.fab.lanes = true) ∧
    (let s := (windowed rich).onFab fun f => { f with out := [outReq 33 2] }
     s.fab.queued = [] ∧ (∀ r ∈ s.fab.out, r.path = 33 → (s.windowAt r.win).path = 33 ∧ (s.windowAt r.win).alt = some 34 ∧ s.pathUp 34 = true) ∧ (∃ p ∈ s.fab.windows, p.2.path = 33 ∧ p.2.alt = some 34)) ∧
    (let s := (working (anOp (.load 8 false) .w32 (.peer 3 100))).onFab fun f => { f with out := [outReq 33 3], windows := [(3, { w0 := 0x8000108000000000, w1 := 0x10000000000, path := 33, alt := none })] }
     s.fab.out = [outReq 33 3] ∧ (s.windowAt 3).alt = none ∧ (s.windowAt 3).path = 33 ∧ s.fab.queued = [] ∧ tok { i := 0, c := 0, a := 0 } (s.jobAt 6).cnt = true ∧ s.opAt 50 = some (anOp (.load 8 false) .w32 (.peer 3 100))) := by decide +kernel

def remReq (op : RemOp) (va : Nat) : RemReq := { st := ⟨3, 0, 0, 0, 1⟩, sn := 1, marked := false, port := 2, ctx := 1, va := va, op := op, job := 6 }
def writes (s : State) (q : RemReq) : Bool := match s.xlateMem 1 q.va [2] with
  | .ok (.main pa) _ => !s.lineTaken (pa / 128) (.rem q.st q.sn) && !s.behindOther q && !s.mem.away (pa / 32) && decide (s.mem.l2.length < 16)
  | _ => false

theorem wit_StreamsAndReplies :
    (let q := remReq (.write [(0, 3), (5, 9)] []) (4 * 2 ^ 21 + 64)
     let t := tables.streamAt q.st
     (t.waiting.any fun w => w.sn == q.sn) = false ∧ q.marked = false ∧ t.frozen = none ∧ (tables.ctxAt q.ctx).isSome = true ∧ q.ctx ≠ 0 ∧ writes tables q = true ∧
     (tables.ctxAt 9).isNone = true ∧ tok { i := 0, c := 0, a := 0 } (tables.jobAt q.job).cnt = true) ∧
    (let strange := fun x : Xl => match x with
       | .ok (.main _) _ | .migrating | .nowhere _ => false
       | _ => true
     let s := tables.onCtx 1 fun c => { c with allocs := [⟨0, 16, .m2, ⟨true, true, true, false⟩, 0, 0, 0, false, false, []⟩] }
     let u := s.onCtx 1 fun c => { c with tier := [] }
     strange (tables.xlateMem 1 (9 * 2 ^ 21) [2]) = true ∧ (tables.serve 1 (9 * 2 ^ 21) .write).2 = .refused ∧
     strange (s.xlateMem 1 (5 * 2 ^ 21) [2]) = true ∧ (s.serve 1 (5 * 2 ^ 21) .write).2 = .waits ∧
     strange (u.xlateMem 1 (5 * 2 ^ 21) [2]) = true ∧ (u.serve 1 (5 * 2 ^ 21) .write).2 = .present) ∧
    (let q := { remReq (.atomic .add .w32 1) (4 * 2 ^ 21) with marked := true }
     let s := tables.onFab fun f => { f with tstreams := [⟨q.st, 4, 0, none, false, []⟩] }
     ((s.streamAt q.st).waiting.any fun w => w.sn == q.sn) = false ∧ q.sn ≤ (s.streamAt q.st).hi ∧ performsOnce q.op = true ∧ s.fab.drc = []) ∧
    (let q := remReq (.write [(0, 3)] []) (4 * 2 ^ 21 + 64)
     let s := tables.onFab fun f => { f with tstreams := [⟨q.st, 4, 0, some q, false, []⟩] }
     (s.streamAt q.st).frozen = some q ∧ (s.streamAt q.st).behind = [] ∧ (s.streamAt q.st).fault = false ∧ writes s q = true) ∧
    (let q := remReq (.write [(0, 3)] []) (9 * 2 ^ 21)
     let s := tables.onFab fun f => { f with tstreams := [⟨q.st, 4, 0, some q, false, []⟩] }
     (s.streamAt q.st).frozen = some q ∧ s.faulted q = true) ∧
    (let o := anOp (.load 8 false) .w32 (.peer 2 100)
     let s := (working o).onFab fun f => { f with out := [outReq 33 2] }
     s.fab.out.find? (·.rid == 1) = some (outReq 33 2) ∧ s.fab.queued = [] ∧ s.opAt 50 = some o ∧ s.fab.frozen = []) := by decide +kernel

theorem wit_PinnedRequest :
    (let q := remReq (.write [(0, 3)] []) (4 * 2 ^ 21 + 64)
     let line := (32 * 2 ^ 21 + 64) / 128
     let s := (tables.onFab fun f => { f with tstreams := [⟨q.st, 4, 0, some q, false, []⟩] }).onMem fun m => { m with retryq := [{ line := line, who := .rem q.st 1 }] }
     s.mem.retryq.find? (·.line == line) = some { line := line, who := .rem q.st q.sn } ∧ (s.streamAt q.st).frozen = some q ∧
     (match s.xlateMem q.ctx q.va (remPerm q.op) with
       | .ok (.main pa) _ => pa / 128 == line
       | _ => false) = true) := by decide +kernel

/-- A job of the witnesses with its QUIET, whose drain has been made. -/
def quietOp : Op := { anOp (.quiet 5) .w64 (.main 0) with res := 1 }
def quiet (set : MemberList) (w : Option (List WaveSum)) : State :=
  { working quietOp with
    jobs := [{ DJob.fresh 3 with cnt := [(1, ⟨9, 5, 4⟩)], set := some set, wave := w, waiting := if w.isSome then [(0, 50)] else [] }] }

theorem wit_DecantWaves :
    (let s := quiet [.device rich.fab.devNo] none
     (s.jobAt 3).set.isSome = true ∧ (s.jobAt 3).indet = false ∧ (s.jobAt 3).wave = none ∧ (s.quiets 3).any s.drained = true ∧ (s.jobAt 3).sums = ⟨9, 5, 4⟩) ∧
    (let s := quiet [.device rich.fab.devNo] (some [⟨9, 5, 4⟩, ⟨9, 5, 4⟩])
     (s.jobAt 3).wave = some [⟨9, 5, 4⟩, ⟨9, 5, 4⟩] ∧ (s.jobAt 3).waiting = [(0, 50)] ∧ s.opAt 50 = some quietOp ∧ (s.jobAt 3).set = some [.device s.fab.devNo] ∧ 9 = add48 5 4 ∧
     quietOp.asks 3 = true) ∧
    (let s := quiet [.node 8] (some [⟨0, 0, 0⟩, ⟨0, 0, 0⟩])
     s.takesPart (s.jobAt 3) = false ∧ 2 ≠ add48 1 0 ∧ (∃ l, (s.jobAt 3).set = some l ∧ Member.node 8 ∈ l)) ∧
    (let s := quiet [.node 8] (some [⟨0, 0, 0⟩])
     (s.jobAt 3).wave = some [⟨0, 0, 0⟩]) :=
  ⟨by decide +kernel, by decide +kernel, ⟨by decide +kernel, by decide +kernel, [.node 8], by decide +kernel, by decide +kernel⟩, by decide +kernel⟩


/-! ### The package and its host

The device is brought up by its own commands: each state below is what one command leaves. -/

def leaves (o : Host.Outcome State Fault Refusal) : State := match o with
  | .next t => t
  | _ => State.reset
def hdr (n : Nat) : Hdr := { src := 5, session := 1, seq := n }
def opened : State := leaves (execSession { src := 5, session := 0, seq := 0 } State.reset)
def aMap : MapReq := { va := 0x400000, pages := 1, sz := .k64, perm := ⟨true, true, true, false⟩, tgt := 0, win := 0, pa := 0x400000, tier := false, defer := false, tables := [] }
/-- A context whose tables are in place, with page 0x400000 mapped and 0x410000 not. -/
def contexted : State :=
  let w := fun (m : MemSt) (a x : Nat) => m.write none ((leBytes 8 x).zipIdx.map fun q => (a + q.2, q.1))
  let m := w (w (w (w opened.mem 0x100000 (1 + 0x110000)) 0x110000 (1 + 0x120000)) (0x120000 + 8 * 2) (1 + 0x130000)) 0x130000 (mkLeaf 0x400000 0 0 ⟨true, true, true, false⟩ false)
  { opened with mem := m, xl := { opened.xl with ctxs := [{ id := 3, root := some 0x100000, stepc := 0, quota := 0, window := 1, tier := [], waits := 0, allocs := [aMap], defers := [], kernels := [], code := [], given := [] }] } }
def aKernel : Kernel := { entry := 0x480000, body := 0x480100, trap := none, cohort := 1, vregs := 16, tiles := 2, accs := 1, scratch := 2, fifo := 1, l1 := 1, barriers := 2, stack := 0, tls := 0,
                          width := 64, glo := 1, ghi := 1, chans := [] }
/-- An image of one section, of 16 bytes. -/
def anImage (kind part : Nat) : List Byte := leBytes 4 0x4E444C45 ++ leBytes 2 1 ++ leBytes 2 0 ++ leBytes 8 0 ++ leBytes 8 1 ++ leBytes 8 64 ++ List.replicate 32 0 ++
  leBytes 8 (kind + 2 ^ 32 * 80) ++ leBytes 8 16 ++ leBytes 8 part ++ List.replicate 8 0
def aModule : ModuleImage :=
  { image := anImage 1 Config.partNumber, kernels := [aKernel], ops := [], parked := 0, natives := [0x480100], halt := 0x480200,
    plan := { pages := [(0x480000, 1, 0x480000)], tables := [], bodies := [], stubs := [], traps := [] } }
def loaded : State := leaves (execModload (hdr 1) 3 aModule contexted)
def partitioned : State := leaves (execPart (hdr 2) [⟨7, [0, 1], false⟩] loaded)
def queueing : State := leaves (execQueueCreate (hdr 3) 2 7 1 64 partitioned)
def aRecord : LaunchRec := ⟨[0x480000, BitVec.ofNat 64 (1 + 2 ^ 32 + 2 ^ 40), 0x1234, BitVec.ofNat 64 (3 * 2 ^ 40 + 77), 0, 0, 0, 0]⟩
def launched : State := leaves (execHostLaunch (hdr 4) 2 ⟨[aRecord], none⟩ queueing)
/-- The loader maps the stack and the handler stack; the exit stub has a place in the code heap. -/
def aPlace : Placement :=
  let rw : MapReq := { aMap with va := 0x420000, pa := 0x420000, perm := ⟨true, true, false, false⟩ }
  ⟨2, [⟨5, [⟨0x420000, 0x440000, 0x450000⟩]⟩], [], 0x480400, [rw, { rw with va := 0x440000, pa := 0x440000 }], none, none⟩
def placed : State := leaves (execGangPlace 7 aPlace launched)
/-- The completions' operations and status codes, oldest first. -/
def answers (s : State) : List (Nat × Status) := s.host.done.map fun c => (c.op, c.status)

/-- Every command of the bring-up is answered with OK. -/
theorem wit_bringUp : answers placed = [(1, .ok), (8, .ok), (11, .ok), (10, .ok), (9, .ok)] ∧ placed.warps.length = 1 := by decide +kernel

theorem wit_LaunchesAndGangs :
    (launched.partAt 7).isSome = true ∧ (launched.queueAt 2).isSome = true ∧
    ((launched.partAt 7).any fun p => (launched.queueAt 2).any fun q => (launched.candidate p q).any fun x => x.2.2 == 1 && x.2.1 == aKernel && launched.isFirst p q &&
      launched.coresGood p (placedKernel aKernel x.1.retrans) 1 aPlace && launched.chansFit [] 1 [5] && launched.slotsGood [5] [] aPlace.slots && !launched.unsettled &&
      (State.loaderMaps 3 aPlace.maps launched).any fun u => (u.retranslated x.1 none).any fun v => (v.kernelAt 3 x.1.entry).any fun k =>
        v.goodPlace p (placedKernel k.k x.1.retrans) 3 1 aPlace && (v.loadGang k.k 3 aPlace).isSome && k.k.tls == 0 && tok Config.freshByte v.mem.bytes && tok Sector.absent v.mem.l2 &&
        (v.mem.l2.all fun p => tok none p.2.bytes) && decide (v.mem.l2.length < 15) && (List.range 4).all fun j =>
          (State.putVa 3 codeLeaf ((pieces 129 aPlace.exitStub exitStub).take j) v).any fun y => match y.xlateMem 3 (aPlace.exitStub + 32 * j) [] with
            | .ok (.main pa) _ => pa == 0x480400 + 32 * j
            | _ => false) = true ∧
    (let s := launched.onCtx 3 fun c => { c with kernels := c.kernels.map fun x => { x with k := { x.k with chans := [⟨0, 0, 4⟩] } } }
     ((s.partAt 7).any fun p => (s.queueAt 2).any fun q => (s.candidate p q).any fun x => x.2.2 == 1 && x.1.placed == 0 && s.isFirst p q &&
       s.coresGood p (placedKernel x.2.1 x.1.retrans) 1 aPlace && !s.chansFit x.2.1.chans 1 [5]) = true) ∧
    (placed.sch.running.any fun l => l.placed == l.ngang && l.status == .ok && (placed.partAt l.part).isSome && placed.sch.saved.isEmpty) = true ∧
    (let s := placed.onSch fun c => { c with gangs := [] }
     (s.sch.running.any fun l => l.placed == l.ngang) = true ∧ s.sch.gangs = [] ∧ s.sch.saved = []) ∧
    (tok Config.freshByte tables.mem.bytes = true ∧ tok Sector.absent tables.mem.l2 = true ∧ (∀ p ∈ tables.mem.l2, tok none p.2.bytes = true) ∧ tables.unsettled = false ∧ tables.mem.l2.length < 15 ∧ (match tables.xlateMem 1 (4 * 2 ^ 21 + 56) [] with
      | .ok (.main _) _ => true
      | _ => false) = true) := by decide +kernel

theorem wit_PowerEvents :
    tok [] State.reset.rails = true ∧ tok DieP.fresh State.reset.dies = true ∧
    (let p : DieP := { DieP.fresh with usec := 300, clock := some 100, alert := 1, tcmp := 300, caddy := { Caddy.fresh with mie := 0x880, mieBit := true, mtvec := 0x103 } }
     let s := { State.reset with dies := [(1, p)] }
     tok DieP.fresh s.dies = true ∧ (s.dieAt 1).clock = some 100 ∧ 100 + 100 ≤ (s.dieAt 1).usec ∧ tok 0 (s.dieAt 1).throt = true ∧ (s.dieAt 1).usec < 2 ^ 63 ∧
     ((s.dieAt 1).alert &&& (s.dieAt 1).alerten ≠ 0 ∧ (s.dieAt 1).caddy.mieBit = true ∧ (s.dieAt 1).caddy.mie.getLsbD 11 = true) ∧
     ((s.dieAt 1).tcmp ≤ (s.dieAt 1).usec ∧ (s.dieAt 1).caddy.mie.getLsbD 7 = true)) ∧
    (let p : DieP := { DieP.fresh with usec := 300, clock := some 250, hot := true, sets := 1 }
     let s := { State.reset with dies := [(1, p)] }
     (s.dieAt 1).hot = true ∧ ¬ (250 + 100 ≤ (s.dieAt 1).usec) ∧ (s.dieAt 1).capflux < 2500 ∧ (s.dieAt 1).sets = 1) ∧
    (DieP.fresh.clock = none) := by decide +kernel

/-- Does the state take the next command of the session? -/
def taking (s : State) (n : Nat) : Bool := s.host.powered && hdrGood (hdr n) 0 && s.host.cmds.isEmpty && s.host.session == some (1, 5) && s.host.lastSeq + 1 == n && !s.host.romOnly

theorem wit_SessionOpens : State.reset.host.powered = true ∧ hdrGood (hdr 0) 0 = true ∧ State.reset.host.cmds = [] ∧ opened.host.session = some (1, 5) ∧ cmdHdr (.ctxend (hdr 2) 3) = some (hdr 2, 3) := by decide +kernel
theorem wit_SessionRules : taking opened 1 = true ∧ 21 < 22 ∧
    (cmdHdr (.ctxend (hdr 1) 3) = some (hdr 1, 3) ∧ opened.host.powered = true) ∧ opened.host.session ≠ some (2, 5) ∧ (opened.host.session = some (1, 5) ∧ 1 = opened.host.lastSeq + 1) ∧
    (partitioned.host.session = some (1, 5) ∧ 1 ≠ partitioned.host.lastSeq + 1 ∧ (partitioned.host.recent.find? (fun c => c.seq == 1)).isSome = true ∧
      (partitioned.host.recent.find? (fun c => c.seq == 9)).isNone = true) ∧
    (let s := opened.onHost fun h => { h with romOnly := true }
     s.host.romOnly = true ∧ s.host.session = some (1, 5)) ∧
    (let k := { hdr 1 with magic := 0 }
     cmdHdr (.ctxend k 3) = some (k, 3) ∧ hdrGood k (cmdContent (.ctxend k 3)) = false ∧ hdrGood (hdr 1) (cmdContent (.write (hdr 1) 3 0 [1, 2])) = true) ∧
    ((opened.onHost fun h => { h with cmds := [.ctxend (hdr 1) 3] }).host.cmds ≠ [] ∧ (opened.onHost fun h => { h with powered := false }).host.powered = false) := by decide +kernel

theorem wit_ContextsAndMappings :
    (taking opened 1 = true ∧ opened.ctxAt 3 = none ∧ 0x100000 % 65536 = 0 ∧ 0x100000 + 65536 ≤ Config.memBytes ∧ tok Config.freshByte opened.mem.bytes = true ∧
      opened.blocked (opened.clearRange 0x100000 65536) = false) ∧
    (taking contexted 1 = true ∧ (contexted.ctxAt 3).isSome = true ∧ contexted.sch.running = []) ∧ ((placed.ctxAt 3).isSome = true ∧ (∃ l ∈ placed.sch.running, l.ctx = 3) ∧ taking placed 5 = true) ∧
    (let r := { aMap with va := 0x410000, pa := 0x500000 }
     r.pages = 1 ∧ r.defer = false ∧ (contexted.ctxAt 3).any (fun c => contexted.mapsFor c r && c.root.isSome && c.defers.isEmpty &&
       (contexted.doMap c 0x100000 r).any fun t => !contexted.blocked t) = true ∧ ((contexted.leafAddr 3 0x410000 .k64).any fun a => !contexted.mem.poisoned (a / 32)) = true) ∧
    (((contexted.leafAddr 3 0x400000 .k64).any fun a => !contexted.mem.poisoned (a / 32)) = true ∧ 0x400000 % 2 ^ pageBits .k64 = 0 ∧
      contexted.blocked (contexted.doUnmap 3 0x400000 1 .k64) = false ∧ contexted.mem.l2.length < 16) ∧
    (tok Config.freshByte contexted.mem.bytes = true ∧ tok Sector.absent contexted.mem.l2 = true ∧ ∀ p ∈ contexted.mem.l2, tok none p.2.bytes = true) := by decide +kernel

theorem wit_HostTransfers :
    taking contexted 1 = true ∧ (contexted.mem.bad (0x400004 / 32) = false ∧ (contexted.mem.sector (0x400004 / 32)).poison = false ∧
      (contexted.mem.sector (0x400004 / 32)).mark = 0 ∧ contexted.mem.l2.length < 16) ∧
    (contexted.spot 3 0x400004 .write = .main 0x400004 ∧ contexted.blocked (contexted.putPiece 0x400004 [1, 2]).1 = false ∧ 2 ≤ (hdr 1).len) ∧
    (contexted.spot 3 0x400004 .read = .main 0x400004 ∧ contexted.blocked (contexted.readPiece 3 0x400004 2).1 = false) ∧
    (contexted.spot 3 0x410004 .write = .denied ∧ contexted.spot 3 0x410004 .read = .denied) ∧
    (let s := contexted.onCore fun c => { c with pins := [{ line := 0x400004 / 128, at_ := 0, ctx := 3 }] }
     taking s 1 = true ∧ s.spot 3 0x400004 .write = .moving) ∧
    (badImage aModule.image = false ∧ hasNative aModule.image = true ∧ hasEloaden aModule.image = false ∧ aModule.image.length ≤ (hdr 1).len ∧
      aModule.natives.length = (nativeTexts aModule.image).length ∧ (contexted.ctxAt 3).any (fun c => (loadPlan aModule).stubs.all fun x => !c.code.contains (x.1, 64)) = true ∧
      ((contexted.install 3 (loadPlan aModule)).any fun u => !contexted.blocked u && (u.ctxAt 3).isSome) = true) ∧
    (badImage [] = true ∧ badImage (anImage 1 1) = false ∧ hasNative (anImage 1 1) = false ∧ hasEloaden (anImage 1 1) = false) ∧
    (badImage (anImage 2 0) = false ∧ hasNative (anImage 2 0) = false ∧ hasEloaden (anImage 2 0) = true ∧ knownOp "SPLIT" = true ∧ knownOp "SPLAT" = false ∧ knownOp "VADD" = true) := by
  decide +kernel

theorem wit_QueuesAndPartitions :
    (taking queueing 4 = true ∧ (queueing.queueAt 2).any (fun q => q.part == some 7 && q.room 1) = true ∧
      queueing.hostStatus aRecord.words (launchOf aRecord.words queueing.nextId 2 7 1 4 none) = .ok ∧
      queueing.hostStatus [0] (launchOf [0] queueing.nextId 2 7 1 4 none) ≠ .ok ∧ 64 ≤ (hdr 4).len ∧ queueing.digestWaits 3 [(0x400000, 1)] = false) ∧
    (let s := queueing.onSch fun c => { c with queues := c.queues.map fun q => { q with cap := 0 } }
     (s.queueAt 2).any (fun q => q.part == some 7 && !q.room 1 && decide (q.recs.length ≤ q.cap)) = true ∧ taking s 4 = true ∧
       s.hostStatus aRecord.words (launchOf aRecord.words s.nextId 2 7 1 4 none) = .ok) ∧
    ((queueing.decodeRecs (hdr 4) 2 7 [aRecord, ⟨[0]⟩]).map (fun r => queueing.hostStatus r.1 r.2) = [.ok, .malformed] ∧ (queueing.queueAt 3).isNone = true) ∧
    (taking partitioned 3 = true ∧ (partitioned.partAt 7).isSome = true ∧ partitioned.queueUsed 2 = false ∧ (partitioned.partAt 9).isNone = true) ∧
    (queueing.queueUsed 2 = false ∧ (launched.queueUsed 2 = true ∧ (launched.queueAt 2).isSome = true ∧ taking launched 5 = true)) ∧
    (let ps : List PartReq := [⟨7, [0, 1], false⟩, ⟨8, [2], true⟩]
     (ps.flatMap PartReq.groups).Nodup ∧ (ps.map PartReq.id).Nodup ∧ (∀ g ∈ ps.flatMap PartReq.groups, g < 64) ∧ loaded.sch.running = [] ∧
     (∀ g ∈ ps.flatMap PartReq.groups, loaded.host.groups.getLsbD g = true) ∧ taking loaded 2 = true ∧ placed.sch.running ≠ [] ∧
     loaded.blocked (loaded.evictAll.onMem fun m => { m with parts := ps.map fun p => (List.range 64).filter fun g => p.groups.contains g }) = false ∧
     (∃ g ∈ ps.flatMap PartReq.groups, (loaded.onHost fun h => { h with groups := 3 }).host.groups.getLsbD g = false)) := by decide +kernel

/-- Its warp halted. -/
def idle (wedged : Bool) : State :=
  let f : Warp → Warp := fun w => { w with run := .halted, wedge := wedged }
  { placed with warps := placed.warps.map f }
/-- The one gang saved. -/
def saved : State := leaves (execPreempt (hdr 5) ((placed.sch.gangs.map Gang.uid).headD 0) (idle false))

/-- Its warp has a store under way. -/
def engaged : State :=
  let o := fun (w : Warp) => { anOp .store .w8 (.main 0x80004) with wid := w.id }
  placed.onCoreNo 5 fun c => { c with ops := placed.warps.map o }

theorem wit_GangsSavedAndReset :
    ([idle false, engaged].map fun s => s.sch.gangs.any fun g => (s.sch.gangs.find? fun x => x.uid == g.uid) == some g && taking s 5 && (s.preemptGang g).2 && taking (s.preemptGang g).1 5) =
      [true, false] ∧ placed.sch.gangs ≠ [] ∧ (placed.sch.gangs.find? (·.uid == 999999)).isNone = true ∧
    ((idle false).sch.gangs.all fun g => ((idle false).warpsOf g).all fun w => !w.stopReq) = true ∧
    (saved.sch.saved.any fun v => saved.canResume v [5] [] && v.warps.all fun w => (v.onto [5]).any fun c => c.1.cid == w.cid) = true ∧
    (saved.sch.saved.any fun v => !saved.canResume v [700] []) = true ∧ taking saved 6 = true := by decide +kernel

theorem wit_DeviceCommands :
    (let s := { opened with jobs := [{ DJob.fresh 3 with set := some [.node 8, .node 9], failed := [.node 8] }] }
     taking s 1 = true ∧ (s.jobAt 3).set = some [.node 8, .node 9] ∧ s.takesPart (s.jobAt 3) = false) ∧
    (let s := { placed with jobs := [{ DJob.fresh 0 with set := some [.device placed.fab.devNo] }] }
     taking s 5 = true ∧ (s.jobAt 0).set.isSome = true ∧ s.takesPart (s.jobAt 0) = true ∧ (∃ w ∈ s.allWarps ++ s.sch.saved.flatMap Saved.warps, w.job = 0 ∧ w.run ≠ .retired) ∧
       (s.jobAt 4).set = none) ∧
    (opened.sch.running = [] ∧ tok Stack.fresh opened.mem.stk = true ∧ (placed.sch.running.any fun l => (placed.partAt l.part).any fun p => (List.range 12).any p.hasStack) = true) ∧
    ((windowed opened).pathOk 33 = true ∧ opened.pathOk 3 = true ∧ tok Window.zero opened.fab.windows = true ∧ (0 : Word).toNat / 2 ^ 56 % 128 = 0) ∧ tok LaneRec.fresh opened.fab.lanes = true ∧
    tok DieP.fresh opened.dies = true ∧ (opened.onHost fun h => { h with debugger := false }).host.debugger = false ∧
    (let s := placed.onHost fun h => { h with debugger := true }
     s.host.debugger = true ∧ (s.warps.all fun w => s.warpAt w.id == some w && w.run == .ready) = true ∧ s.warps ≠ []) ∧
    ((idle false).warps.all fun w => (idle false).warpAt w.id == some w && w.run == .halted && !w.wedge && w.resumeTo == .ready) = true ∧
    ((idle true).warps.all fun w => (idle true).warpAt w.id == some w && w.wedge) = true := by decide +kernel

/-- The digest of no bytes, from FIPS 202's published examples. -/
theorem test_shake256 : ((shake256 []).take 6).map BitVec.toNat = [0x46, 0xB9, 0xDD, 0x2B, 0x0B, 0xA8] := by decide +kernel

/-- A READ's completion with one item entry and one byte of data, laid out by 21 Table 21.1, R392 and Table 21.3a. -/
def answered : Completion :=
  { op := 7, seq := 5, session := 9, lid := 3, status := .malformed, retrans := false, entries := [{ kind := .pwdrop, status := .pwdrop, val := 0x1234 }], data := [0xAB] }
theorem test_completion_bytes :
    (answered.datagrams.map fun d => (d.length, (d.take 8).map BitVec.toNat, ((d.drop 32).take 2).map BitVec.toNat, ((d.drop 64).take 10).map BitVec.toNat)) =
      [(81, [0x46, 0x59, 0x44, 0x4A, 1, 7, 0, 0], [2, 0], [4, 0, 21, 0, 0, 0, 0, 0, 0x34, 0x12])] := by decide +kernel

end Sys2Proof.Tests
end

section
/-! PROOF. VFKEY (01 R31): a float is a sign and a magnitude, magnitudes are ordered as their bits, and the key turns sign
and magnitude into one unsigned order. -/

namespace Sys2Proof.Num

/-! ## Sign and magnitude (01 R13) -/

/-- A float's sign bit. -/
def sgn (f : Fmt) (b : Nat) : Bool := b / 2 ^ (f.w - 1) % 2 == 1

/-- The bits of a float below its sign. -/
def mag (f : Fmt) (b : Nat) : Nat := b % 2 ^ (f.w - 1)

/-- A finite magnitude in units of the least subnormal. -/
def ulps (f : Fmt) (a : Nat) : Nat :=
  if a / 2 ^ f.fb = 0 then a % 2 ^ f.fb else (a % 2 ^ f.fb + 2 ^ f.fb) * 2 ^ (a / 2 ^ f.fb - 1)

/-- The least subnormal. -/
def leastSub (f : Fmt) : ℚ := 2 ^ (1 - (f.bias : Int) - f.fb)

theorem leastSub_pos (f : Fmt) : 0 < leastSub f := by unfold leastSub; positivity

theorem width_eq (f : Fmt) : f.w - 1 = f.fb + f.eb := by unfold Fmt.w; omega

theorem two_pow_width (f : Fmt) : 2 ^ f.w = 2 ^ (f.w - 1) + 2 ^ (f.w - 1) := by cases f <;> rfl

theorem mag_lt (f : Fmt) (b : Nat) : mag f b < 2 ^ (f.w - 1) := Nat.mod_lt _ (Nat.two_pow_pos _)

theorem inf_bits (f : Fmt) : f.inf false = (2 ^ f.eb - 1) * 2 ^ f.fb := by simp [Fmt.inf, Fmt.sbit]

theorem inf_lt (f : Fmt) : f.inf false + 1 < 2 ^ (f.w - 1) := by cases f <;> decide

/-- A magnitude's exponent and fraction are the float's. -/
theorem mag_div (f : Fmt) (b : Nat) : mag f b / 2 ^ f.fb = b / 2 ^ f.fb % 2 ^ f.eb := by
  rw [mag, width_eq, Nat.pow_add, Nat.mod_mul_right_div_self]

theorem mag_mod (f : Fmt) (b : Nat) : mag f b % 2 ^ f.fb = b % 2 ^ f.fb := by
  rw [mag, width_eq]
  exact Nat.mod_mod_of_dvd _ (Nat.pow_dvd_pow 2 (Nat.le_add_right _ _))

theorem mag_split (f : Fmt) (b : Nat) :
    mag f b = 2 ^ f.fb * (b / 2 ^ f.fb % 2 ^ f.eb) + b % 2 ^ f.fb := by
  rw [← mag_div, ← mag_mod, Nat.div_add_mod]

/-! ## What the bits unpack to -/

theorem mag_of_inf {f : Fmt} {b : Nat} {s : Bool} (h : unpack f b = .inf s) : sgn f b = s ∧ mag f b = f.inf false := by
  unfold unpack at h
  dsimp only at h
  split_ifs at h with hex hfr hz
  rw [mag_split, hex, hfr, inf_bits, Nat.mul_comm]
  exact ⟨FV.inf.inj h, rfl⟩

theorem mag_of_num {f : Fmt} {b m : Nat} {s : Bool} {e : Int} (h : unpack f b = .num s m e) :
    sgn f b = s ∧ mag f b < f.inf false ∧ (m : ℚ) * 2 ^ e = ulps f (mag f b) * leastSub f := by
  have hfr : b % 2 ^ f.fb < 2 ^ f.fb := Nat.mod_lt _ (Nat.two_pow_pos _)
  have hexlt : b / 2 ^ f.fb % 2 ^ f.eb < 2 ^ f.eb := Nat.mod_lt _ (Nat.two_pow_pos _)
  have hlt (hex : b / 2 ^ f.fb % 2 ^ f.eb ≠ 2 ^ f.eb - 1) : mag f b < f.inf false := by
    rw [mag_split, inf_bits]
    calc _ < 2 ^ f.fb * (b / 2 ^ f.fb % 2 ^ f.eb + 1) := by rw [Nat.mul_succ]; omega
      _ ≤ 2 ^ f.fb * (2 ^ f.eb - 1) := Nat.mul_le_mul_left _ (by omega)
      _ = _ := Nat.mul_comm _ _
  unfold ulps
  rw [mag_div, mag_mod]
  unfold unpack at h
  dsimp only at h
  split_ifs at h with hex hz hz
  · obtain ⟨hs, rfl, rfl⟩ := FV.num.inj h
    rw [if_pos hz]
    exact ⟨hs, hlt hex, rfl⟩
  · obtain ⟨hs, rfl, rfl⟩ := FV.num.inj h
    rw [if_neg hz]
    refine ⟨hs, hlt hex, ?_⟩
    have he : ((b / 2 ^ f.fb % 2 ^ f.eb : Nat) : Int) - f.bias - f.fb =
        ((b / 2 ^ f.fb % 2 ^ f.eb - 1 : Nat) : Int) + (1 - (f.bias : Int) - f.fb) := by omega
    rw [he, zpow_add₀ two_ne_zero, zpow_natCast, leastSub]
    push_cast
    ring

theorem mag_of_not_nan {f : Fmt} {b : Nat} (h : (unpack f b).isNan = false) : mag f b ≤ f.inf false := by
  cases hu : unpack f b with
  | nan q => simp [hu, FV.isNan] at h
  | inf s => exact (mag_of_inf hu).2.le
  | num s m e => exact (mag_of_num hu).2.1.le

/-! ## Magnitudes are ordered as their bits -/

/-- The exponent's power of two bounds a magnitude on both sides. -/
theorem ulps_lt (f : Fmt) (a : Nat) : ulps f a < 2 ^ f.fb * 2 ^ (a / 2 ^ f.fb) := by
  have hfr : a % 2 ^ f.fb < 2 ^ f.fb := Nat.mod_lt _ (Nat.two_pow_pos _)
  unfold ulps
  split
  case isTrue hz => rwa [hz, Nat.pow_zero, Nat.mul_one]
  case isFalse hz =>
    obtain ⟨n, hn⟩ := Nat.exists_eq_succ_of_ne_zero hz
    rw [hn, Nat.succ_sub_one, Nat.pow_succ, Nat.mul_comm (2 ^ n), ← Nat.mul_assoc]
    exact Nat.mul_lt_mul_of_pos_right (by omega) (Nat.two_pow_pos n)

theorem le_ulps {f : Fmt} {a : Nat} (h : a / 2 ^ f.fb ≠ 0) : 2 ^ f.fb * 2 ^ (a / 2 ^ f.fb - 1) ≤ ulps f a := by
  rw [ulps, if_neg h]
  exact Nat.mul_le_mul_right _ (Nat.le_add_left _ _)

theorem ulps_mono (f : Fmt) : Monotone (ulps f) := by
  intro a b hab
  rcases (Nat.div_le_div_right (c := 2 ^ f.fb) hab).eq_or_lt with heq | hlt
  · have hfr : a % 2 ^ f.fb ≤ b % 2 ^ f.fb := by
      have ha := Nat.div_add_mod a (2 ^ f.fb)
      have hb := Nat.div_add_mod b (2 ^ f.fb)
      rw [heq] at ha
      omega
    unfold ulps
    rw [heq]
    split
    · exact hfr
    · exact Nat.mul_le_mul_right _ (by omega)
  · calc ulps f a ≤ 2 ^ f.fb * 2 ^ (a / 2 ^ f.fb) := (ulps_lt f a).le
      _ ≤ 2 ^ f.fb * 2 ^ (b / 2 ^ f.fb - 1) := Nat.mul_le_mul_left _ (Nat.pow_le_pow_right (by decide) (by omega))
      _ ≤ ulps f b := le_ulps (Nat.ne_zero_of_lt hlt)

/-! ## The key (01 R31) -/

theorem mod_of_sgn (f : Fmt) (b : Nat) : b % 2 ^ f.w = mag f b + if sgn f b then 2 ^ (f.w - 1) else 0 := by
  have hw : f.w = f.w - 1 + 1 := by cases f <;> rfl
  conv_lhs => rw [hw, Nat.mod_pow_succ]
  rcases Nat.mod_two_eq_zero_or_one (b / 2 ^ (f.w - 1)) with h | h <;> simp [mag, sgn, h]

theorem key_of_nan {f : Fmt} {b : Nat} (h : (unpack f b).isNan = true) : key f b = 0 := if_pos h

theorem key_of_not_nan {f : Fmt} {b : Nat} (h : (unpack f b).isNan = false) :
    key f b = if sgn f b then 2 ^ (f.w - 1) - 1 - mag f b else 2 ^ (f.w - 1) + mag f b := by
  have hw := two_pow_width f
  have hb := mod_of_sgn f b
  have hs : b / 2 ^ (f.w - 1) % 2 = 0 ↔ sgn f b = false := by simp [sgn]
  simp only [key, h, Bool.false_eq_true, if_false, hs]
  cases hc : sgn f b <;> simp only [hc, if_true, if_false, Bool.false_eq_true, reduceCtorEq] at hb ⊢ <;> omega

theorem key_lt (f : Fmt) (b : Nat) : key f b < 2 ^ f.w := by
  have hw := two_pow_width f
  have hm := mag_lt f b
  cases h : (unpack f b).isNan
  · rw [key_of_not_nan h]; split <;> omega
  · rw [key_of_nan h]; omega

theorem key_pos {f : Fmt} {b : Nat} (h : (unpack f b).isNan = false) : 0 < key f b := by
  have hm := mag_of_not_nan h
  have hi := inf_lt f
  rw [key_of_not_nan h]
  split <;> omega

/-- The key as bit operations on the pattern of a number. -/
theorem key_bits {f : Fmt} {b : Nat} (hb : b < 2 ^ f.w) (h : (unpack f b).isNan = false) :
    key f b = if b < 2 ^ (f.w - 1) then b ||| 2 ^ (f.w - 1) else 2 ^ f.w - 1 - b := by
  have hw := two_pow_width f
  have hm := mag_lt f b
  have hs := mod_of_sgn f b
  rw [Nat.mod_eq_of_lt hb] at hs
  rw [key_of_not_nan h]
  cases hc : sgn f b <;> simp only [hc, if_true, if_false, Bool.false_eq_true] at hs ⊢
  · have hlt : b < 2 ^ (f.w - 1) := by omega
    rw [if_pos hlt, Nat.or_comm, ← Nat.mul_one (2 ^ (f.w - 1)), ← Nat.two_pow_add_eq_or_of_lt hlt 1]
    omega
  · rw [if_neg (by omega)]; omega

/-- Every negative number's key is less than every positive one's: −0 is below +0. -/
theorem key_lt_of_signs {f : Fmt} {b c : Nat} (hb : (unpack f b).isNan = false) (hc : (unpack f c).isNan = false)
    (hsb : sgn f b = true) (hsc : sgn f c = false) : key f b < key f c := by
  have hp := Nat.two_pow_pos (f.w - 1)
  rw [key_of_not_nan hb, key_of_not_nan hc, hsb, hsc]
  simp only [if_true, Bool.false_eq_true, if_false]
  omega

/-- Among the numbers of one sign a key follows the magnitude. -/
theorem key_lt_of_mag {f : Fmt} {b c : Nat} (hb : (unpack f b).isNan = false) (hc : (unpack f c).isNan = false)
    (hs : sgn f b = sgn f c) (h : if sgn f c then mag f c < mag f b else mag f b < mag f c) : key f b < key f c := by
  have hm := mag_lt f b
  rw [key_of_not_nan hb, key_of_not_nan hc, hs]
  cases hq : sgn f c <;> simp only [hq, if_true, if_false, Bool.false_eq_true] at h ⊢ <;> omega

theorem not_nan_of_num {f : Fmt} {b m : Nat} {s : Bool} {e : Int} (h : unpack f b = .num s m e) : (unpack f b).isNan = false := by
  rw [h]; rfl

theorem not_nan_of_inf {f : Fmt} {b : Nat} {s : Bool} (h : unpack f b = .inf s) : (unpack f b).isNan = false := by
  rw [h]; rfl

/-- A smaller value has fewer units of the least subnormal. -/
theorem mag_lt_of_value {f : Fmt} {a b : Nat} (h : (ulps f a : ℚ) * leastSub f < ulps f b * leastSub f) : a < b :=
  (ulps_mono f).reflect_lt (by exact_mod_cast lt_of_mul_lt_mul_right h (leastSub_pos f).le)

/-- The keys of two finite numbers are ordered as the numbers. -/
theorem key_lt_of_value {f : Fmt} {b c m m' : Nat} {s s' : Bool} {e e' : Int} (hb : unpack f b = .num s m e)
    (hc : unpack f c = .num s' m' e')
    (h : (if s then -1 else 1 : ℚ) * m * 2 ^ e < (if s' then -1 else 1 : ℚ) * m' * 2 ^ e') : key f b < key f c := by
  have hbn := not_nan_of_num hb
  have hcn := not_nan_of_num hc
  obtain ⟨hsb, -, hvb⟩ := mag_of_num hb
  obtain ⟨hsc, -, hvc⟩ := mag_of_num hc
  rw [mul_assoc, mul_assoc, hvb, hvc] at h
  have hu := leastSub_pos f
  have hb0 : 0 ≤ (ulps f (mag f b) : ℚ) * leastSub f := by positivity
  have hc0 : 0 ≤ (ulps f (mag f c) : ℚ) * leastSub f := by positivity
  cases s <;> cases s' <;> simp only [if_true, if_false, Bool.false_eq_true, neg_one_mul, one_mul] at h
  case false.false =>
    exact key_lt_of_mag hbn hcn (hsb.trans hsc.symm) (by rw [hsc]; exact mag_lt_of_value h)
  case false.true => linarith
  case true.false => exact key_lt_of_signs hbn hcn hsb hsc
  case true.true =>
    exact key_lt_of_mag hbn hcn (hsb.trans hsc.symm) (by rw [hsc]; exact mag_lt_of_value (neg_lt_neg_iff.mp h))

theorem key_lt_of_posInf {f : Fmt} {b c m : Nat} {s : Bool} {e : Int} (hb : unpack f b = .num s m e)
    (hc : unpack f c = .inf false) : key f b < key f c := by
  have hbn := not_nan_of_num hb
  have hcn := not_nan_of_inf hc
  obtain ⟨hsb, hmb, -⟩ := mag_of_num hb
  obtain ⟨hsc, hmc⟩ := mag_of_inf hc
  cases s with
  | false => exact key_lt_of_mag hbn hcn (hsb.trans hsc.symm) (by rw [hsc, hmc]; exact hmb)
  | true => exact key_lt_of_signs hbn hcn hsb hsc

theorem key_lt_of_negInf {f : Fmt} {b c m : Nat} {s : Bool} {e : Int} (hb : unpack f b = .inf true)
    (hc : unpack f c = .num s m e) : key f b < key f c := by
  have hbn := not_nan_of_inf hb
  have hcn := not_nan_of_num hc
  obtain ⟨hsb, hmb⟩ := mag_of_inf hb
  obtain ⟨hsc, hmc, -⟩ := mag_of_num hc
  cases s with
  | false => exact key_lt_of_signs hbn hcn hsb hsc
  | true => exact key_lt_of_mag hbn hcn (hsb.trans hsc.symm) (by rw [hsc, hmb]; exact hmc)

theorem key_negInf {f : Fmt} {b : Nat} (h : unpack f b = .inf true) :
    key f b = 2 ^ (f.w - 1) - 1 - f.inf false := by
  obtain ⟨hs, hm⟩ := mag_of_inf h
  rw [key_of_not_nan (not_nan_of_inf h), hs, hm, if_pos rfl]

end Sys2Proof.Num

namespace Sys2Proof.LaneFns
open Sys2Proof.Num

/-! ## Elements of a lane -/

theorem ofElems_elem {w k : Nat} (l : List Nat) (h : k < l.length) : elem w (ofElems w l) k = l[k] % 2 ^ w := by
  induction l generalizing k with
  | nil => simp at h
  | cons e l ih =>
    cases k with
    | zero => simp [elem, ofElems]
    | succ k =>
      have hd : ofElems w (e :: l) / 2 ^ w = ofElems w l := by
        simp [ofElems, Nat.add_mul_div_left, Nat.div_eq_of_lt (Nat.mod_lt e (Nat.two_pow_pos w))]
      have hk := ih (k := k) (by simpa using h)
      simp only [elem, Nat.mul_succ, Nat.add_comm (w * k), Nat.pow_add, ← Nat.div_div_eq_div_mul, hd] at hk ⊢
      simpa using hk

theorem width_mul_count (et : Etype) : et.width * et.count = 32 := by cases et <;> rfl

theorem extract_toNat (w k : Nat) (z : LaneVal) : (z.extractLsb' (w * k) w).toNat = elem w z.toNat k := by
  simp [elem, Nat.shiftRight_eq_div_pow]

theorem extract_ofNat {w k : Nat} (n : Nat) (h : w * k + w ≤ 32) :
    ((BitVec.ofNat 32 n).extractLsb' (w * k) w).toNat = elem w n k := by
  have hs : 32 = w * k + (32 - w * k) := by omega
  rw [extract_toNat, elem, elem, BitVec.toNat_ofNat]
  conv_lhs => rw [hs, Nat.pow_add, Nat.mod_mul_right_div_self]
  exact Nat.mod_mod_of_dvd _ (Nat.pow_dvd_pow 2 (by omega))

theorem map1_elem (et : Etype) (f : Nat → Nat) (z : LaneVal) {k : Nat} (h : k < et.count) :
    ((map1 et f z).extractLsb' (et.width * k) et.width).toNat =
      f (z.extractLsb' (et.width * k) et.width).toNat % 2 ^ et.width := by
  have hb : et.width * k + et.width ≤ 32 :=
    calc et.width * k + et.width = et.width * (k + 1) := rfl
      _ ≤ et.width * et.count := Nat.mul_le_mul_left _ h
      _ = 32 := width_mul_count et
  unfold map1 lane
  rw [extract_ofNat _ hb, ofElems_elem _ (by simpa [elems] using h), extract_toNat]
  simp [elems]

/-! ## The elements' keys (01 R31, 12 R231) -/

theorem fmtOf_width {f : Etype} (hf : f ∈ [Etype.f32, .f16x2, .b16x2]) : (fmtOf f).w = f.width := by
  fin_cases hf <;> rfl

/-- A key has its element's width, so that each element of VFKEY is the key of the operand's element. -/
theorem vfkey_elem {f : Etype} (hf : f ∈ [Etype.f32, .f16x2, .b16x2]) (z : LaneVal) {k : Nat} (h : k < f.count) :
    ((vfkey f z).extractLsb' (f.width * k) f.width).toNat =
      key (fmtOf f) (z.extractLsb' (f.width * k) f.width).toNat := by
  unfold vfkey
  rw [map1_elem f _ z h, ← fmtOf_width hf]
  exact Nat.mod_eq_of_lt (key_lt _ _)

theorem vfkey_negInf {f : Etype} (hf : f ∈ [Etype.f32, .f16x2, .b16x2]) :
    2 ^ ((fmtOf f).w - 1) - 1 - (fmtOf f).inf false = if f = .f32 then 0x007FFFFF else if f = .f16x2 then 0x03FF else 0x007F := by
  fin_cases hf <;> rfl

end Sys2Proof.LaneFns

namespace Sys2Proof.Machine

theorem runs_vfkey (s : State) (h : VHead) (a : Opd) : s.runsTo (.vfkey h a)
    (s.vOut 2 h.d (s.w.lanesS h.nm) fun l => LaneFns.vfkey h.et (s.w.opd h.et a l)).stepOn :=
  fun hc ha => runs_vplain (S := (·.lanesS h.nm)) (f := fun w l => LaneFns.vfkey h.et (w.opd h.et a l)) rfl hc ha

end Sys2Proof.Machine

namespace Sys2Proof
open Sys2Proof.LaneFns Sys2Proof.Num

/-- Settles O7: each element of VFKEY is the key of the operand's element, and a key orders sign and magnitude (01 R31). -/
theorem floatKeys : Obligations.FloatKeys := by
  unfold Obligations.FloatKeys
  refine ⟨Machine.runs_vfkey, fun f x y i j hf hi hj => ?_⟩
  dsimp only
  rw [vfkey_elem hf x hi, vfkey_elem hf y hj, ← vfkey_negInf hf, ← fmtOf_width hf]
  exact ⟨key_of_nan, fun h => ⟨key_bits (BitVec.isLt _) h, key_pos h⟩,
    fun s m e s' m' e' hx hy => ⟨key_lt_of_value hx hy, fun _ _ hs hs' =>
      key_lt_of_signs (not_nan_of_num hx) (not_nan_of_num hy) ((mag_of_num hx).1.trans hs) ((mag_of_num hy).1.trans hs')⟩,
    fun s m e hx => ⟨key_lt_of_posInf hx, fun hy => key_lt_of_negInf hy hx⟩, key_negInf⟩

end Sys2Proof
end

section
/-! PROOF. Bundles of NOPs (02 R41): a syllable of opcode 0 reads as its slot's NOP whatever else it holds, and a bundle of
four NOPs only goes on, with its gap, to the scheduler where it is yield-safe. -/

namespace Sys2Proof

/-! ## Syllables of opcode 0 -/

/-- A field of a 64-bit field. -/
theorem fld_syllable (n lo : Nat) {k m : Nat} (h : k + m ≤ 64) : fld (fld n lo 64) k m = fld n (lo + k) m := by
  have hs : (2 : Nat) ^ 64 = 2 ^ k * 2 ^ (64 - k) := by rw [← Nat.pow_add]; congr 1; omega
  unfold fld
  rw [hs, Nat.mod_mul_right_div_self, Nat.mod_mod_of_dvd _ (Nat.pow_dvd_pow 2 (by omega)), Nat.div_div_eq_div_mul, ← Nat.pow_add]

theorem decodeSyl_v_nop {w : Nat} (h : fld w 56 8 = 0) : decodeSyl .V w = ⟨.vnop, []⟩ := by
  simp [decodeSyl, decodeV, h, decodeVReg, VReg.of]

theorem decodeSyl_m_nop {w : Nat} (h : fld w 56 8 = 0) : decodeSyl .M w = ⟨.mnop, []⟩ := by
  simp [decodeSyl, h, decodeM, MRaw.of]

theorem decodeSyl_e_nop {w : Nat} (h : fld w 56 8 = 0) : decodeSyl .E w = ⟨.enop, []⟩ := by
  simp [decodeSyl, decodeE, h, decodeECopy, ECopy.of]

theorem decodeSyl_c_nop {w : Nat} (h : fld w 48 8 = 0) : decodeSyl .C w = ⟨.cnop, []⟩ := by
  simp [decodeSyl, decodeC, h]

end Sys2Proof

namespace Sys2Proof.Machine

/-! ## The bundle of four NOPs -/

/-- Four NOPs, with a gap and a yield-safe bit. -/
def nopBun (gap : Nat) (ys : Bool) : Bun := { oneBun .vnop .nop with gap := gap, ys := ys }

/-- Bits whose four opcode fields are 0 read as four NOPs. -/
theorem readBun_nop {n : Nat} (hv : fld n 56 8 = 0) (hm : fld n 120 8 = 0) (he : fld n 184 8 = 0) (hc : fld n 240 8 = 0) :
    readBun n = nopBun (fld n 253 3) (isOne (fld n 252 1)) := by
  have h1 := decodeSyl_v_nop (w := fld n 0 64) ((fld_syllable n _ (by decide)).trans hv)
  have h2 := decodeSyl_m_nop (w := fld n 64 64) ((fld_syllable n _ (by decide)).trans hm)
  have h3 := decodeSyl_e_nop (w := fld n 128 64) ((fld_syllable n _ (by decide)).trans he)
  have h4 := decodeSyl_c_nop (w := fld n 192 64) ((fld_syllable n _ (by decide)).trans hc)
  unfold readBun sylOf
  rw [h1, h2, h3, h4]
  rfl

/-- Four NOPs name no port. -/
theorem portFaults_nop (w : Warp) : portFaults ((oneBun .vnop (slotOp .vnop)).ports w) = [] := by
  have hp : (oneBun .vnop (slotOp .vnop)).ports w = [Slot.V, .M, .E, .C].map fun sl => { sl := sl, p := Ports.none } := rfl
  rw [hp]; decide

theorem admits_vnop (s : State) : s.admits .vnop = true := by
  unfold State.admits
  rw [portFaults_nop]; rfl

theorem nopBun_hits {s : State} (h : Calm s) (g : Nat) (ys : Bool) : (nopBun g ys).hits s = [] := oneBun_hits _ _ h

theorem nopBun_holds (s : State) (g : Nat) (ys : Bool) : (nopBun g ys).holds s = [] := rfl

/-- At an undisturbed boundary nothing displaces a bundle of NOPs. -/
theorem nopBun_taken {s : State} (h : Calm s) (g : Nat) (ys : Bool) : (nopBun g ys).taken s = none := by
  have hcs : (nopBun g ys).causes s = [] := oneBun_causes h (admits_vnop s) rfl
  unfold Bun.taken Bun.padCause
  rw [h.owed, h.settledW]
  simp [h.async, hcs]

theorem nopBun_commits {s : State} (h : Calm s) (g : Nat) (ys : Bool) :
    (nopBun g ys).issue s = .next (((nopBun g ys).commit s).afterCommit s.w.id) := by
  unfold Bun.issue
  simp only [h.at_, Bool.not_true, Bool.false_eq_true, if_false, h.boundary, h.restart, bne_self_eq_false, Bool.false_and,
    h.parts, nopBun_taken h, h.run, h.settledW]
  unfold Bun.run
  rw [nopBun_hits h, nopBun_holds]
  rfl

/-! ## Its commit -/

theorem loopEnd_run (w : Warp) (pc : Word) : (w.loopEnd pc).1.run = w.run := by
  obtain ⟨a, b, hl⟩ := loopEnd_eq w pc
  rw [hl]

theorem loopEnd_id (w : Warp) (pc : Word) : (w.loopEnd pc).1.id = w.id := by
  obtain ⟨a, b, hl⟩ := loopEnd_eq w pc
  rw [hl]

/-- The close of a bundle that transfers no control, of a warp that runs on: the next bundle gap + 1 cycles on, then the scheduler. -/
theorem close_schedules {t : State} (hrun : t.w.run = .ready) (ht : t.iss.t = t.now) :
    t.close false false = (t.goOn t.w t.iss.next (t.iss.gap + 1)).schedule t.iss.ys t.iss.yielded := by
  have hs (u : State) (hu : u = t.going t.w t.iss.next (t.iss.gap + 1)) :
      (u.advance (t.now + (t.iss.gap + 1))).wake = t.goOn t.w t.iss.next (t.iss.gap + 1) := by
    rw [wake_ready (by rw [advance_run, hu]; exact hrun), hu]; rfl
  unfold State.close
  simp only [ht, Bool.false_and, Bool.false_eq_true, if_false, Nat.add_assoc]
  refine congrArg (fun u : State => u.schedule _ _) (hs _ ?_)
  simp only [State.throttled, State.heldFor, State.unhold, State.onCore, State.onW, State.going, State.coreOn]
  have hn (n : Nat) : t.now + n - t.core.cycle = n := Nat.add_sub_cancel_left _ _
  simp only [State.now] at hn ⊢
  simp only [hn]
  rfl

/-- A bundle of NOPs has the loop-end action for its only effect. -/
theorem nopBun_effects (s : State) (g : Nat) (ys : Bool) :
    (nopBun g ys).effects s =
      ({ s with iss := { pc := s.w.pc, next := s.nextPc, t := s.now, gap := g, ys := ys, yielded := false } } : State).onW
        fun w => (w.loopEnd s.w.pc).1 := rfl

theorem nopBun_commit {s : State} (h : Calm s) (g : Nat) (ys : Bool) :
    (nopBun g ys).commit s = (s.goOn (s.w.loopEnd s.w.pc).1 s.nextPc (g + 1)).schedule ys false := by
  have hrun : (s.w.loopEnd s.w.pc).1.run = .ready := (loopEnd_run _ _).trans h.run
  have htk : ((nopBun g ys).issueOf s).2 = false := rfl
  unfold Bun.commit
  simp only [h.same, if_true, h.sig, Option.isSome_none, Bool.false_and, Bool.false_eq_true, if_false]
  rw [h.readBad, htk, h.ss, nopBun_effects, close_schedules hrun rfl]
  rfl

/-! ## The scheduler's choice and the boundary after it -/

/-- What a warp's asynchronous causes depend on beside its copies. -/
def Warp.asyncPart (w : Warp) : Nat × Bool × List Pend := (w.id, w.hm, w.pend)

theorem async_nil_of_part {s t : State} (h : s.asyncCauses = []) (hw : t.w.asyncPart = s.w.asyncPart)
    (hc : t.core.copies = s.core.copies) : t.asyncCauses = [] := by
  obtain ⟨hid, hhm, hp⟩ : _ ∧ _ ∧ _ := by simpa [Warp.asyncPart] using hw
  exact async_nil h hid hhm hp hc

theorem asyncPart_flushAll (w : Warp) : w.flushAll.asyncPart = w.asyncPart :=
  List.foldlRecOn w.fly Warp.wrDest (motive := fun u : Warp => u.asyncPart = w.asyncPart) rfl
    fun u hu f _ => by rw [wrDest_eq]; exact hu

theorem asyncPart_applyPend (w : Warp) : w.applyPend.asyncPart = w.asyncPart :=
  List.foldlRecOn w.hpend _ (motive := fun u : Warp => u.asyncPart = w.asyncPart) rfl
    fun u hu p _ => by cases p.act <;> exact hu

/-- A warp switched out keeps what is pending for it. -/
theorem asyncPart_switchOut (w : Warp) : w.switchOut.asyncPart = w.asyncPart := by
  unfold Warp.switchOut
  split
  · rfl
  · exact (asyncPart_applyPend _).trans (asyncPart_flushAll w)

theorem copies_applyPend (c : CoreSt) (l : List HPend) : (c.applyPend l).copies = c.copies :=
  List.foldlRecOn l _ (motive := fun d : CoreSt => d.copies = c.copies) rfl fun d hd p _ => by cases p.act <;> exact hd

theorem switchOut_asyncPart (s : State) (p : Warp → Bool) : (s.switchOut p).w.asyncPart = s.w.asyncPart := by
  show (if _ then s.w.switchOut else s.w).asyncPart = _
  split
  · exact asyncPart_switchOut s.w
  · rfl

theorem switchOut_id (s : State) (p : Warp → Bool) : (s.switchOut p).w.id = s.w.id :=
  congrArg Prod.fst (switchOut_asyncPart s p)

theorem pickCo_w (s : State) (c : Nat) : (s.pickCo c).w = s.w := by
  have hst : s.stashCo.w = s.w := by unfold State.stashCo; split <;> rfl
  unfold State.pickCo
  split
  · rfl
  · split <;> exact hst

theorem pickCore_w (s : State) (n : Nat) : (s.pickCore n).w = s.w := by
  unfold State.pickCore
  split
  · rfl
  · split <;> rfl

/-- Picking another warp takes the one in focus out of it, whether that other one exists or not. -/
theorem pickW_id_ne {s : State} {id : Nat} (h0 : s.w.id ≠ 0) (h : id ≠ s.w.id) : (s.pickW id).w.id ≠ s.w.id := by
  unfold State.pickW State.stashW
  rw [if_neg h.symm, if_neg h0]
  split
  case h_1 w hw =>
    have hid : w.id = id := by simpa using List.find?_some hw
    exact hid ▸ h
  case h_2 => exact h0.symm

theorem settle_id (s : State) : s.settle.w.id = s.w.id := by rw [settle_eq]; rfl

theorem focus_id (s : State) (id : Nat) : (s.focus id).w.id = (s.pickW id).w.id := by
  unfold State.focus
  rw [settle_id, pickCore_w, pickCo_w]

theorem switchIn_id_ne {s : State} {id : Nat} (h0 : s.w.id ≠ 0) (h : id ≠ s.w.id) : (s.switchIn id).w.id ≠ s.w.id := by
  have hid := switchOut_id s fun w => w.id != id
  show ((s.switchOut fun w => w.id != id).focus id).w.id ≠ s.w.id
  rw [focus_id, ← hid]
  exact pickW_id_ne (hid ▸ h0) (hid ▸ h)

theorem mem_of_mem_bestOf {l : List Warp} {w : Warp} (h : w ∈ bestOf l) : w ∈ l := by
  unfold bestOf at h
  dsimp only at h
  split at h
  · exact List.mem_of_mem_filter (List.mem_of_mem_filter h)
  · simp at h

/-- A choice among other warps leaves the one in focus, or nothing pending at its boundary. -/
theorem choose_leaves_or_async_nil {s : State} {l : List Warp} (h0 : s.w.id ≠ 0) (ha : s.asyncCauses = [])
    (hl : ∀ w ∈ l, w.id ≠ s.w.id) : (s.choose l).w.id ≠ s.w.id ∨ (s.choose l).asyncCauses = [] := by
  unfold State.choose
  have hb (w : Warp) (hw : w ∈ bestOf l) : w.id ≠ s.w.id := hl w (mem_of_mem_bestOf hw)
  split
  case h_1 => exact .inr (async_nil_of_part ha (switchOut_asyncPart s _) (copies_applyPend _ _))
  case h_2 w heq => exact .inl (switchIn_id_ne h0 (hb w (by simp [heq])))
  case h_3 =>
    have hid : ((bestOf l).map Warp.id).getD (Config.freeNat s.freeCtr % (bestOf l).length) 0 ≠ s.w.id := by
      rw [List.getD_eq_getElem?_getD]
      cases hi : ((bestOf l).map Warp.id)[Config.freeNat s.freeCtr % (bestOf l).length]? with
      | none => exact h0.symm
      | some id =>
        obtain ⟨w, hw, rfl⟩ := List.mem_map.mp (List.mem_of_getElem? hi)
        exact hb w hw
    dsimp only
    exact .inl (switchIn_id_ne h0 hid)

/-- So does the scheduler. -/
theorem schedule_leaves_or_async_nil {s : State} (h0 : s.w.id ≠ 0) (ha : s.asyncCauses = []) (y yl : Bool) :
    (s.schedule y yl).w.id ≠ s.w.id ∨ (s.schedule y yl).asyncCauses = [] := by
  have hch := choose_leaves_or_async_nil (l := s.eligible.filter fun w => w.id != s.w.id) h0 ha fun w hw => by
    simpa using (List.mem_filter.mp hw).2
  unfold State.schedule
  dsimp only
  split_ifs with hstop hy hother hdue hany
  · exact hch
  · exact .inr ha
  · exact hch
  · exact hch
  · exact .inr ha
  · exact .inr ha

/-- After the scheduler's choice nothing asynchronous is delivered where nothing was pending before it. -/
theorem afterCommit_schedule {s : State} (h0 : s.w.id ≠ 0) (ha : s.asyncCauses = []) (y yl : Bool) :
    (s.schedule y yl).afterCommit s.w.id = s.schedule y yl := by
  unfold State.afterCommit
  rcases schedule_leaves_or_async_nil h0 ha y yl with h | h <;> simp [h]

/-! ## Its issue -/

theorem Calm.id_ne {s : State} (h : Calm s) : s.w.id ≠ 0 := by
  have hat := h.at_
  simp only [State.atIssue, Bool.and_eq_true, bne_iff_ne] at hat
  obtain ⟨⟨⟨-, hid⟩, -⟩, -⟩ := hat
  exact hid

/-- A bundle of NOPs at an undisturbed boundary (02 R40, R41). -/
theorem nopBun_issue {s : State} (hcalm : s.calm = true) (g : Nat) (ys : Bool) :
    (nopBun g ys).issue s = .next ((s.goOn (s.w.loopEnd s.w.pc).1 s.nextPc (g + 1)).schedule ys false) := by
  have h := calm_iff hcalm
  have hid : (s.goOn (s.w.loopEnd s.w.pc).1 s.nextPc (g + 1)).w.id = s.w.id := (advance_id _ _).trans (loopEnd_id _ _)
  have ha : (s.goOn (s.w.loopEnd s.w.pc).1 s.nextPc (g + 1)).asyncCauses = [] := by
    obtain ⟨a, b, hl⟩ := loopEnd_eq s.w s.w.pc
    rw [hl]; exact goOn_async h.async rfl rfl rfl
  rw [nopBun_commits h, nopBun_commit h, ← hid, afterCommit_schedule (hid ▸ h.id_ne) ha]

/-- One that is not yield-safe keeps its warp on the core (17 R344). -/
theorem nopBun_issue_keeps {s : State} (hcalm : s.calm = true) (g : Nat) :
    (nopBun g false).issue s = .next (s.goOn (s.w.loopEnd s.w.pc).1 s.nextPc (g + 1)) := by
  have hrun : (s.goOn (s.w.loopEnd s.w.pc).1 s.nextPc (g + 1)).w.run = .ready :=
    (advance_run _ _).trans ((loopEnd_run _ _).trans (calm_iff hcalm).run)
  rw [nopBun_issue hcalm, schedule_ready hrun]

/-- A NOP of any slot is the bundle of four. -/
theorem runs_nop {s : State} {i : Instr} (h : exec i s = (nopBun 0 false).issue s) : s.runsTo i s.stepOn :=
  fun hc _ => h.trans (nopBun_issue_keeps hc 0)

end Sys2Proof.Machine

namespace Sys2Proof
open Sys2Proof.Machine

/-- Settles O12: four opcodes of 0 read as four NOPs, which only go on (02 R41). -/
theorem nopBundles : Obligations.NopBundles := by
  unfold Obligations.NopBundles
  refine fun s => ⟨fun n hc hv hm he hop => ?_, fun hc => nopBun_issue_keeps hc 0, runs_nop rfl, runs_nop rfl, runs_nop rfl,
    runs_nop rfl⟩
  dsimp only
  rw [readBun_nop hv hm he hop]
  exact ⟨fun hys => by rw [hys]; exact nopBun_issue_keeps hc _, fun hys => by rw [hys]; exact nopBun_issue hc _ true⟩

end Sys2Proof
end

section
/-! PROOF. What the scalar ALU computes (16 R306 to R309), value by value, on words. -/

namespace Sys2Proof.Num

/-! ## Numbers and bits -/

/-- The signed reading of a bit vector's number is its signed value. -/
theorem sval_toNat {n : Nat} (x : BitVec n) : sval n x.toNat = x.toInt := by
  rw [BitVec.toInt_eq_toNat_cond]
  unfold sval
  rw [Nat.mod_eq_of_lt x.isLt]
  cases n with
  | zero => simp [BitVec.eq_nil x]
  | succ m =>
    rw [Nat.add_sub_cancel]
    have hlt : x.toNat < 2 ^ m ↔ 2 * x.toNat < 2 ^ (m + 1) := by rw [Nat.pow_succ]; omega
    simp only [hlt]
    push_cast
    rfl

/-- The population count counts the one bits. -/
theorem popc_eq_countP (w n : Nat) : popc w n = (List.range w).countP n.testBit := by
  induction w generalizing n with
  | zero => rfl
  | succ w ih =>
    have hlow : n % 2 = if n.testBit 0 = true then 1 else 0 := by
      rw [Nat.testBit_zero]
      rcases Nat.mod_two_eq_zero_or_one n with h | h <;> simp [h]
    have hrest : n.testBit ∘ Nat.succ = (n / 2).testBit := funext (Nat.testBit_succ n)
    rw [popc, ih, List.range_succ_eq_map, List.countP_cons, List.countP_map, hrest, ← hlow, Nat.add_comm]

theorem testBit_of_bitLen_le {n i : Nat} (h : bitLen n ≤ i) : n.testBit i = false := by
  unfold bitLen at h
  split at h
  case isTrue h0 => rw [h0, Nat.zero_testBit]
  case isFalse => exact Nat.testBit_lt_two_pow (Nat.lt_log2_self.trans_le (Nat.pow_le_pow_right (by decide) h))

theorem testBit_bitLen_pred {n : Nat} (h : 0 < bitLen n) : n.testBit (bitLen n - 1) = true := by
  unfold bitLen at h ⊢
  split at h
  case isTrue => exact absurd h (lt_irrefl 0)
  case isFalse h0 => rw [if_neg h0]; exact Nat.testBit_log2 h0

theorem bitLen_le {w n : Nat} (h : n < 2 ^ w) : bitLen n ≤ w := by
  unfold bitLen
  split
  case isTrue => exact Nat.zero_le w
  case isFalse h0 => exact (Nat.log2_lt h0).mpr h

theorem ctz_le (w n : Nat) : ctz w n ≤ w := by
  induction w generalizing n with
  | zero => rfl
  | succ w ih =>
    unfold ctz
    split
    · exact Nat.zero_le _
    · have := ih (n / 2); omega

theorem testBit_of_lt_ctz {w n i : Nat} (h : i < ctz w n) : n.testBit i = false := by
  induction w generalizing n i with
  | zero => exact absurd h (Nat.not_lt_zero i)
  | succ w ih =>
    unfold ctz at h
    split at h
    case isTrue => exact absurd h (Nat.not_lt_zero i)
    case isFalse hodd =>
      cases i with
      | zero => simp [Nat.testBit_zero, hodd]
      | succ i => rw [Nat.testBit_succ]; exact ih (by omega)

theorem testBit_ctz {w n : Nat} (h : ctz w n < w) : n.testBit (ctz w n) = true := by
  induction w generalizing n with
  | zero => exact absurd h (Nat.not_lt_zero _)
  | succ w ih =>
    unfold ctz at h ⊢
    split at h
    case isTrue hodd => rw [if_pos hodd]; simp [Nat.testBit_zero, hodd]
    case isFalse hodd => rw [if_neg hodd, Nat.add_comm, Nat.testBit_succ]; exact ih (by omega)

end Sys2Proof.Num

namespace Sys2Proof.Machine
open Sys2Proof.Num

/-! ## Shifts and comparisons (16 Table 16.2) -/

/-- A shift count is taken modulo 64. -/
theorem shiftCount (y : Word) : (y &&& 63).toNat = y.toNat % 64 := Nat.and_two_pow_sub_one_eq_mod y.toNat 6

/-- The conditions of SCMP on words (02 Table 2.9). -/
theorem cmp_words (cc : Cmp) (x y : Word) :
    LaneFns.cmp 64 cc x.toNat y.toNat = match cc with
      | .eq => x == y
      | .ne => x != y
      | .lt => x.slt y
      | .le => x.sle y
      | .gt => y.slt x
      | .ge => y.sle x
      | .ltn => x.ult y
      | .len => x.ule y
      | .gtn => y.ult x
      | .gen => y.ule x := by
  have heq : (x.toNat == y.toNat) = (x == y) := by rw [Bool.eq_iff_iff]; simp [BitVec.toNat_inj]
  cases cc with
  | eq => exact heq
  | ne => exact congrArg (!·) heq
  | lt | le | gt | ge => simp only [LaneFns.cmp, sval_toNat]; rfl
  | ltn | len | gtn | gen => rfl

/-! ## Products and quotients (16 R306, R307) -/

/-- The high half of a number of 128 bits. -/
theorem high_ofInt (z : Int) : (BitVec.ofInt 128 z >>> 64).setWidth 64 = BitVec.ofInt 64 (z / 2 ^ 64) := by
  apply BitVec.eq_of_toNat_eq
  simp only [BitVec.toNat_setWidth, BitVec.toNat_ushiftRight, BitVec.toNat_ofInt, Nat.shiftRight_eq_div_pow]
  omega

theorem mulHigh_signed (x y : Word) : mulHigh false x y = ((x.signExtend 128 * y.signExtend 128) >>> 64).setWidth 64 := by
  rw [BitVec.signExtend, BitVec.signExtend, ← BitVec.ofInt_mul, high_ofInt]
  rfl

theorem mulHigh_unsigned (x y : Word) : mulHigh true x y = ((x.setWidth 128 * y.setWidth 128) >>> 64).setWidth 64 := by
  have hp : x.setWidth 128 * y.setWidth 128 = BitVec.ofInt 128 (x.toNat * y.toNat : Nat) := by
    rw [BitVec.ofInt_natCast, BitVec.ofNat_mul, BitVec.ofNat_toNat, BitVec.ofNat_toNat]
  rw [hp, high_ofInt]
  exact (BitVec.ofInt_natCast 64 _).symm

theorem divide_eq (u : Bool) (x y : Word) :
    divide u x y = if y = 0 then BitVec.allOnes 64 else if u then x / y else x.sdiv y := by
  have hs : BitVec.ofInt 64 (x.toInt.tdiv y.toInt) = x.sdiv y :=
    BitVec.eq_of_toInt_eq (by rw [BitVec.toInt_ofInt, BitVec.toInt_sdiv])
  have hu : BitVec.ofNat 64 (x.toNat / y.toNat) = x / y := BitVec.ofNat_toNat 64 (x / y) |>.trans (BitVec.setWidth_eq _)
  unfold divide
  rw [hs, hu]

theorem remainder_eq (u : Bool) (x y : Word) :
    remainder u x y = if y = 0 then x else if u then x % y else x.srem y := by
  have hs : BitVec.ofInt 64 (x.toInt.tmod y.toInt) = x.srem y := by rw [← BitVec.toInt_srem, BitVec.ofInt_toInt]
  have hu : BitVec.ofNat 64 (x.toNat % y.toNat) = x % y := BitVec.ofNat_toNat 64 (x % y) |>.trans (BitVec.setWidth_eq _)
  unfold remainder
  rw [hs, hu]

/-! ## Bit fields (16 R308) -/

/-- The field that SBFX extracts. -/
def fieldOf (a b : Word) : BitVec (fieldLen b) := a.extractLsb' (fieldPos b) (fieldLen b)

theorem fieldOf_toNat (a b : Word) : (fieldOf a b).toNat = a.toNat / 2 ^ fieldPos b % 2 ^ fieldLen b := by
  rw [fieldOf, BitVec.extractLsb'_toNat, Nat.shiftRight_eq_div_pow]

/-- SBFX extends the field by zeros or by its sign; one of length 0 has neither. -/
theorem bitField_eq (sx : Bool) (a b : Word) :
    bitField sx a b = if sx then (fieldOf a b).signExtend 64 else (fieldOf a b).setWidth 64 := by
  unfold bitField
  rw [← fieldOf_toNat]
  dsimp only
  rw [sval_toNat, BitVec.ofNat_toNat]
  split
  case isTrue h0 =>
    have hz (n : Nat) (hn : n = 0) (x : BitVec n) : x.signExtend 64 = 0 ∧ x.setWidth 64 = 0 := by
      subst hn; rw [BitVec.eq_nil x]; decide
    obtain ⟨hs, hu⟩ := hz _ h0 (fieldOf a b)
    rw [hs, hu, ite_self]
  case isFalse => rfl

theorem getLsbD_bitField (sx : Bool) (a b : Word) {i : Nat} (hi : i < 64) :
    (bitField sx a b).getLsbD i =
      if i < fieldLen b then a.getLsbD (fieldPos b + i)
      else sx && decide (0 < fieldLen b) && a.getLsbD (fieldPos b + fieldLen b - 1) := by
  have hmsb : (fieldOf a b).msb = (decide (0 < fieldLen b) && a.getLsbD (fieldPos b + fieldLen b - 1)) := by
    rw [BitVec.msb_eq_getLsbD_last, fieldOf, BitVec.getLsbD_extractLsb']
    by_cases h : 0 < fieldLen b
    · rw [← Nat.add_sub_assoc h]; simp [h]
    · simp [h]
  have hbit : (fieldOf a b).getLsbD i = (decide (i < fieldLen b) && a.getLsbD (fieldPos b + i)) :=
    BitVec.getLsbD_extractLsb' ..
  rw [bitField_eq]
  cases sx with
  | false =>
    rw [if_neg Bool.false_ne_true, BitVec.getLsbD_setWidth, hbit]
    by_cases h : i < fieldLen b <;> simp [hi, h]
  | true =>
    rw [if_pos rfl, BitVec.getLsbD_signExtend, hbit, hmsb]
    by_cases h : i < fieldLen b <;> simp [hi, h]

theorem getLsbD_bitInsert (a b c : Word) {i : Nat} (hi : i < 64) :
    (bitInsert a b c).getLsbD i =
      if fieldPos b ≤ i ∧ i < fieldPos b + fieldLen b then a.getLsbD (i - fieldPos b) else c.getLsbD i := by
  have hmask : (BitVec.ofNat 64 ((2 ^ fieldLen b - 1) * 2 ^ fieldPos b)).getLsbD i =
      decide (fieldPos b ≤ i ∧ i < fieldPos b + fieldLen b) := by
    rw [BitVec.getLsbD_ofNat, Nat.testBit_mul_two_pow, Nat.testBit_two_pow_sub_one, decide_eq_true hi, Bool.true_and,
      ← Bool.decide_and, decide_eq_decide]
    omega
  unfold bitInsert
  simp only [BitVec.getLsbD_or, BitVec.getLsbD_and, BitVec.getLsbD_not, BitVec.getLsbD_shiftLeft, hmask, hi]
  by_cases h : fieldPos b ≤ i ∧ i < fieldPos b + fieldLen b <;> simp [h]

end Sys2Proof.Machine
end

section
/-! PROOF. The scalar ALU at an undisturbed boundary (16 R306 to R309): one or more scalar registers read, one written a
cycle on, and the hold of a division. -/

namespace Sys2Proof.Machine

/-! ## Results written as the next bundle issues -/

/-- What a warp's registers give does not depend on its loop counts. -/
theorem still_regs (f : Word → Word → Word → Word) (a b c : Reg) :
    Still fun w => f (w.rdS a.val) (w.rdS b.val) (w.rdS c.val) := fun _ _ _ => rfl

/-- A scalar instruction of latency 1 writes its value, x, as the next bundle issues. -/
theorem runs_scalar {s : State} {i : Instr} {d : Reg} {f : Warp → Word} {x : Word} (hf : Still f)
    (h : exec i s = issueOne i (sOp 1 d f) s) (hs : i.slot = some .C) (hx : f s.w = x) : s.runsTo i (s.sNext d x) :=
  fun hc ha => h.trans (hx ▸ runs_s1 hs hf hc ha)

/-- One that combines two registers. -/
theorem runs_twoReg {s : State} {i : Instr} {d a b : Reg} {f : Word → Word → Word} {x : Word}
    (h : exec i s = issueOne i (sTwo 1 d a b f) s) (hs : i.slot = some .C) (hx : f (s.w.rdS a.val) (s.w.rdS b.val) = x) :
    s.runsTo i (s.sNext d x) :=
  runs_scalar (still_regs (fun y z _ => f y z) a b 0) h hs hx

/-- One that reads one register. -/
theorem runs_oneReg {s : State} {i : Instr} {d a : Reg} {f : Word → Word} {x : Word}
    (h : exec i s = issueOne i (sOne d a f) s) (hs : i.slot = some .C) (hx : f (s.w.rdS a.val) = x) :
    s.runsTo i (s.sNext d x) :=
  runs_scalar (still_regs (fun y _ _ => f y) a 0 0) h hs hx

/-- A product is in flight for three cycles. -/
theorem runs_product {s : State} {i : Instr} {d a b : Reg} {f : Word → Word → Word} {x : Word}
    (h : exec i s = issueOne i (sTwo 3 d a b f) s) (hs : i.slot = some .C) (hx : f (s.w.rdS a.val) (s.w.rdS b.val) = x) :
    s.runsTo i (s.stepOn.flyAll (sFlights (s.now + 3) d x)) :=
  fun hc ha => h.trans (hx ▸ runs_sL hs (by decide) (still_regs (fun y z _ => f y z) a b 0) hc ha)

/-! ## The hold of a division (16 R307) -/

/-- A core held for n cycles more. -/
def CoreSt.addHeld (n : Nat) (c : CoreSt) : CoreSt := { c with held := c.held + n }

theorem foldl_addHeld {α : Type} {f : CoreSt → α → CoreSt} {n : Nat} (h : ∀ c a, f (c.addHeld n) a = (f c a).addHeld n)
    (l : List α) (c : CoreSt) : l.foldl f (c.addHeld n) = (l.foldl f c).addHeld n := by
  induction l generalizing c with
  | nil => rfl
  | cons a l ih => rw [List.foldl_cons, List.foldl_cons, h, ih]

theorem cAct_addHeld (n : Nat) (c : CoreSt) (a : HAct) : cAct (c.addHeld n) a = (cAct c a).addHeld n := by
  cases a <;> rfl

theorem startClear_addHeld (n : Nat) (c : CoreSt) (t k : Nat) :
    (c.addHeld n).startClear t k = (c.startClear t k).addHeld n := by
  unfold CoreSt.startClear
  rw [apply_ite (CoreSt.addHeld n)]
  rfl

theorem commitVtw_addHeld (n : Nat) (c : CoreSt) : commitVtw (c.addHeld n) = (commitVtw c).addHeld n := by
  rw [commitVtw, commitVtw, ← foldl_addHeld fun k v => startClear_addHeld n k v.due v.slot]
  rfl

/-- What falls due in a core does not look at how long it has been held. -/
theorem settleAt_addHeld (n : Nat) (c : CoreSt) (l : List HPend) : (c.addHeld n).settleAt l = (c.settleAt l).addHeld n := by
  have hf := foldl_addHeld (f := fun k (p : HPend) => cAct k p.act) (fun k p => cAct_addHeld n k p.act)
    (l.filter fun p => p.due ≤ c.cycle) c
  exact (congrArg (fun k => clearSlots (commitVtw k)) hf).trans (congrArg clearSlots (commitVtw_addHeld n _))

theorem advance_divided (s : State) (n c : Nat) : (s.divided n).advance c = (s.advance c).divided n := by
  have hk := settleAt_addHeld n { s.core with cycle := max s.now c } s.w.hpend
  rw [advance_eq, advance_eq]
  exact congrArg (fun k : CoreSt => ({ s with
    w := s.w.settleAt (max s.now c), co := s.co.settleAt (max s.now c), core := k, freeCtr := s.freeCtr + 1 } : State)) hk

theorem goOn_divided (s : State) (n : Nat) (w : Warp) (next : Word) (k : Nat) :
    (s.divided n).goOn w next k = (s.goOn w next k).divided n := by
  have hg : (s.divided n).going w next k = (s.going w next k).divided n := by
    have hh : s.core.held + n + s.throttle k = s.core.held + s.throttle k + n := Nat.add_right_comm ..
    exact congrArg (fun m => { (s.going w next k) with core := { (s.coreOn k) with held := m }, freeCtr := s.freeCtr + 1 }) hh
  unfold State.goOn
  rw [hg]
  exact advance_divided _ n _

/-- A scalar result of latency 1 is written as the next bundle issues. -/
theorem goOn_sLater (s : State) (d : Reg) (x next : Word) :
    (s.sLater 1 d x).goOn (s.sLater 1 d x).w next 1 = (s.goOn s.w next 1).onW fun w => w.wrS d.val x := by
  by_cases h0 : d.val = 0
  · have hw : (fun w : Warp => w.wrS d.val x) = id := funext fun w => if_pos h0
    rw [State.sLater, if_pos h0, hw]
    rfl
  · rw [State.sLater, if_neg h0]
    refine (goOn_fly_now rfl).trans (congrArg (State.onW _) (funext fun w => ?_))
    exact wrDest_same rfl w

/-- The effect of SDIV and SREM: the result, then the hold. -/
def divOp (d a b : Reg) (f : Word → Word → Word) : SlotOp :=
  { effect := fun s => (s.sLater 1 d (f (s.w.rdS a.val) (s.w.rdS b.val))).divHold }

/-- The machine as a C instruction that counts no flag and transfers no control finds it. -/
def State.atEffect (s : State) : State := ({ s with iss := s.issOf s.nextPc } : State).onW fun w => (w.loopEnd s.w.pc).1

/-- A result put in flight, and a hold counted, leave what the boundary looks at. -/
theorem sLater_keeps (s : State) (d : Reg) (x : Word) :
    (s.sLater 1 d x).w.run = s.w.run ∧ (s.sLater 1 d x).w.asyncPart = s.w.asyncPart ∧ (s.sLater 1 d x).iss = s.iss ∧
      (s.sLater 1 d x).core = s.core ∧ (s.sLater 1 d x).freeCtr = s.freeCtr := by
  unfold State.sLater
  split <;> exact ⟨rfl, rfl, rfl, rfl, rfl⟩

theorem divOp_effects {s : State} {i : Instr} {d a b : Reg} {f : Word → Word → Word} (hs : i.slot = some .C) :
    (oneBun i (divOp d a b f)).effects s =
      (s.atEffect.sLater 1 d (f (s.w.rdS a.val) (s.w.rdS b.val))).divided (1 + Config.freeNat s.freeCtr % 40) := by
  have hx : f ((s.w.loopEnd s.w.pc).1.rdS a.val) ((s.w.loopEnd s.w.pc).1.rdS b.val) = f (s.w.rdS a.val) (s.w.rdS b.val) :=
    (still_regs (fun y z _ => f y z) a b 0).loopEnd s.w s.w.pc
  obtain ⟨-, -, -, -, hfree⟩ := sLater_keeps s.atEffect d (f (s.w.rdS a.val) (s.w.rdS b.val))
  rw [(effects_c (s := s) (op := divOp d a b f) hs rfl).1]
  show (s.atEffect.sLater 1 d (f ((s.w.loopEnd s.w.pc).1.rdS a.val) ((s.w.loopEnd s.w.pc).1.rdS b.val))).divHold = _
  rw [hx, State.divHold, hfree]
  exact congrArg (fun c => { (State.heldFor _ _) with freeCtr := c + 1 }) hfree.symm

theorem runs_div {s : State} {i : Instr} {d a b : Reg} {f : Word → Word → Word} {x : Word}
    (h : exec i s = issueOne i (divOp d a b f) s) (hs : i.slot = some .C) (hx : f (s.w.rdS a.val) (s.w.rdS b.val) = x) :
    s.runsTo i ((s.sNext d x).divided (1 + Config.freeNat s.freeCtr % 40)) := by
  intro hcalm ha
  subst hx
  have hclear : Clear i (divOp d a b f) s := ⟨hcalm, ha, rfl, rfl, rfl, rfl⟩
  have hc := calm_iff hcalm
  obtain ⟨hrun, hpart, hiss, hcore, -⟩ := sLater_keeps s.atEffect d (f (s.w.rdS a.val) (s.w.rdS b.val))
  obtain ⟨la, lb, hl⟩ := loopEnd_eq s.w s.w.pc
  have hw : s.atEffect.w = { s.w with lpc0 := la, lpc1 := lb } := hl
  have hcopies := congrArg CoreSt.copies hcore
  have hcycle := congrArg CoreSt.cycle hcore
  have hcommit := commit_goes_on (next := s.nextPc) hc (divOp_effects hs) (effects_c (op := divOp d a b f) hs rfl).2
    (hrun.trans (by rw [hw]; exact hc.run)) hiss hcycle
    (async_nil_of_part hc.async (hpart.trans (by rw [hw]; rfl)) hcopies)
  rw [h, hclear.commits hs, hcommit]
  refine congrArg Host.Outcome.next ((goOn_divided _ _ _ _ _).trans ?_)
  exact congrArg (State.divided · _) (goOn_sLater s.atEffect d _ s.nextPc)

/-! ## Counts of bits -/

theorem runs_sclz (s : State) (d a : Reg) :
    ∃ n ≤ 64, (∀ i, 64 - n ≤ i → (s.w.rdS a.val).getLsbD i = false) ∧
      (n < 64 → (s.w.rdS a.val).getLsbD (63 - n) = true) ∧ s.runsTo (.sclz d a) (s.sNext d (BitVec.ofNat 64 n)) := by
  have hle : Num.bitLen (s.w.rdS a.val).toNat ≤ 64 := Num.bitLen_le (s.w.rdS a.val).isLt
  refine ⟨64 - Num.bitLen (s.w.rdS a.val).toNat, by omega, fun i hi => ?_, fun hn => ?_, runs_oneReg rfl rfl rfl⟩
  · exact Num.testBit_of_bitLen_le (by omega)
  · have htop : 63 - (64 - Num.bitLen (s.w.rdS a.val).toNat) = Num.bitLen (s.w.rdS a.val).toNat - 1 := by omega
    rw [htop]
    exact Num.testBit_bitLen_pred (by omega)

theorem runs_sctz (s : State) (d a : Reg) :
    ∃ n ≤ 64, (∀ i < n, (s.w.rdS a.val).getLsbD i = false) ∧ (n < 64 → (s.w.rdS a.val).getLsbD n = true) ∧
      s.runsTo (.sctz d a) (s.sNext d (BitVec.ofNat 64 n)) :=
  ⟨Num.ctz 64 (s.w.rdS a.val).toNat, Num.ctz_le _ _, fun _ hi => Num.testBit_of_lt_ctz hi, fun hn => Num.testBit_ctz hn,
    runs_oneReg rfl rfl rfl⟩

end Sys2Proof.Machine

namespace Sys2Proof
open Sys2Proof.Machine Sys2Proof.Num

/-- Settles O14: each instruction's value is that of Table 16.2 (16 R306). -/
theorem scalarResults : Obligations.ScalarResults := by
  unfold Obligations.ScalarResults
  refine ⟨fun s d a b => ?_, fun s d a b => ?_, fun s d a b => ?_, fun s d a => ?_, fun s d a b => ?_⟩
  · exact ⟨runs_twoReg rfl rfl rfl, runs_twoReg rfl rfl rfl, runs_twoReg rfl rfl rfl, runs_twoReg rfl rfl rfl, runs_twoReg rfl rfl rfl,
      runs_twoReg rfl rfl rfl⟩
  · exact ⟨runs_twoReg rfl rfl (by rw [BitVec.shiftLeft_eq', shiftCount]),
      runs_twoReg rfl rfl (by rw [BitVec.ushiftRight_eq', shiftCount]),
      runs_twoReg rfl rfl (by rw [BitVec.sshiftRight', shiftCount]),
      fun n => runs_oneReg rfl rfl rfl, fun n => runs_oneReg rfl rfl rfl, fun n => runs_oneReg rfl rfl rfl⟩
  · exact ⟨runs_twoReg rfl rfl rfl, runs_twoReg rfl rfl rfl, runs_twoReg rfl rfl rfl, runs_twoReg rfl rfl rfl,
      fun c => runs_scalar (still_regs (fun x y z => if x = 0 then z else y) a b c) rfl rfl rfl,
      fun cc => runs_twoReg rfl rfl (congrArg (fun c : Bool => if c then 1 else 0) (cmp_words cc _ _))⟩
  · exact ⟨runs_oneReg rfl rfl (congrArg _ (popc_eq_countP 64 _)), runs_sclz s d a, runs_sctz s d a⟩
  · exact ⟨runs_product rfl rfl rfl, runs_product rfl rfl (mulHigh_signed _ _),
      runs_product rfl rfl (mulHigh_unsigned _ _)⟩

/-- Settles O16, bit by bit (16 R308). -/
theorem scalarBitFields : Obligations.ScalarBitFields := by
  unfold Obligations.ScalarBitFields
  intro s d a b
  exact ⟨fun sx => ⟨bitField sx _ _, fun i hi => getLsbD_bitField sx _ _ hi, runs_twoReg rfl rfl rfl⟩,
    fun c => ⟨bitInsert _ _ _, fun i hi => getLsbD_bitInsert _ _ _ hi,
      runs_scalar (still_regs bitInsert a b c) rfl rfl rfl⟩⟩

/-- Settles O17: SDIV and SREM give the truncated quotient and remainder, and hold for a free number of 1 to 40 cycles
(16 R307). -/
theorem scalarDivide : Obligations.ScalarDivide := by
  unfold Obligations.ScalarDivide
  refine fun s d a b u => ⟨1 + Config.freeNat s.freeCtr % 40, by omega, by omega, ?_, ?_⟩
  · exact runs_div rfl rfl (divide_eq u _ _)
  · exact runs_div rfl rfl (remainder_eq u _ _)

end Sys2Proof
end

section
/-! PROOF. Rejected syllables of the C slot (02 R42; 16 R309, R332): what their bits read as, and the ILLOP trap of a bundle
that holds one alone. -/

namespace Sys2Proof

/-! ## The reported detail -/

/-- The reported detail is one that applies. -/
theorem mem_of_lowest {l : List (Bool × Nat)} {d : Nat} (h : lowest l = some d) : (true, d) ∈ l := by
  induction l generalizing d with
  | nil => simp [lowest] at h
  | cons p l ih =>
    obtain ⟨b, e⟩ := p
    cases b with
    | false => exact List.mem_cons_of_mem _ (ih h)
    | true =>
      cases hl : lowest l with
      | none =>
        obtain rfl : e = d := by simpa [lowest, hl] using h
        exact List.mem_cons_self
      | some r =>
        obtain rfl : min e r = d := by simpa [lowest, hl] using h
        rcases min_choice e r with hm | hm
        · rw [hm]; exact List.mem_cons_self
        · rw [hm]; exact List.mem_cons_of_mem _ (ih hl)

/-- A slot that is rejected reads with its lowest detail. -/
theorem lowest_of_decodeSlot_error {sl : Slot} {w d : Nat} (h : decodeSlot sl w = .error d) :
    lowest ((decodeSyl sl w).bad ++ (decodeSyl sl w).i.details) = some d := by
  unfold decodeSlot at h
  split at h
  next => cases h
  next e he => obtain rfl := Except.error.inj h; exact he

/-- A C syllable of the immediate form. -/
theorem decodeSyl_cImm {w : Nat} (h0 : fld w 48 8 ≠ 0) (hf : cRegForm (fld w 48 8) = false) :
    decodeSyl .C w = ⟨(decodeCImm (.of w)).i, (decodeCImm (.of w)).bad ++ (CImm.of w).topBad⟩ := by
  simp [decodeSyl, decodeC, h0, hf]

/-! ## Opcodes that are not instructions (16 R332) -/

/-- Only what is no instruction is rejected with detail 1. -/
theorem decodeCReg_detail_one {r : CReg} (h : (true, 1) ∈ (decodeCReg r).bad ++ (decodeCReg r).i.details) :
    (decodeCReg r).i = .cnop := by
  revert h
  unfold decodeCReg
  split
  case h_33 => split <;> simp [CReg.zBad, Instr.details]
  all_goals simp [CReg.zBad, Instr.details]

theorem decodeCImm_detail_one {r : CImm} (h : (true, 1) ∈ (decodeCImm r).bad ++ (decodeCImm r).i.details) :
    (decodeCImm r).i = .cnop := by
  revert h
  unfold decodeCImm
  split <;> simp [Instr.details]

theorem decodeC_detail_one {w : Nat} (h : lowest ((decodeC w).bad ++ (decodeC w).i.details) = some 1) :
    (decodeC w).i = .cnop := by
  replace h := mem_of_lowest h
  unfold decodeC at h ⊢
  split_ifs at h ⊢
  · rfl
  · refine decodeCReg_detail_one ?_
    simpa [CReg.topBad] using h
  · refine decodeCImm_detail_one ?_
    simpa [CImm.topBad] using h

/-- The opcodes that R332 lists. -/
def unassignedC (op : Nat) : Prop :=
  op ∈ [0x17, 0x22, 0x23] ∨ 0x28 ≤ op ∧ op ≤ 0x2F ∨ 0x3B ≤ op ∧ op ≤ 0x3F ∨ 0x49 ≤ op ∧ op ≤ 0x4F ∨
    0x56 ≤ op

theorem decodeCImm_unassigned {r : CImm} (h : unassignedC r.op) : decodeCImm r = ⟨.cnop, [(true, 1)]⟩ := by
  simp only [unassignedC, List.mem_cons, List.not_mem_nil, or_false] at h
  unfold decodeCImm
  split
  case h_27 => rfl
  all_goals omega

theorem cRegForm_unassigned {op : Nat} (h : unassignedC op) : cRegForm op = false := by
  simp only [unassignedC, List.mem_cons, List.not_mem_nil, or_false] at h
  simp only [cRegForm, List.contains_eq_mem, List.mem_cons, List.not_mem_nil, or_false, Bool.or_eq_false_iff,
    decide_eq_false_iff_not]
  omega

theorem decodeSlot_unassigned {w : Nat} (h : unassignedC (fld w 48 8)) : decodeSlot .C w = .error 1 := by
  have h0 : fld w 48 8 ≠ 0 := by
    simp only [unassignedC, List.mem_cons, List.not_mem_nil, or_false] at h
    omega
  have hi : decodeCImm (.of w) = ⟨.cnop, [(true, 1)]⟩ := decodeCImm_unassigned h
  have hl (top : Bool) : lowest [(true, 1), (top, 5)] = some 1 := by cases top <;> rfl
  have hd : lowest ((decodeSyl .C w).bad ++ (decodeSyl .C w).i.details) = some 1 := by
    rw [decodeSyl_cImm h0 (cRegForm_unassigned h), hi]
    exact hl _
  unfold decodeSlot
  rw [hd]

/-! ## Shift counts above 63 (16 R309) -/

/-- Detail 4 is the lowest of a shift's checks, whatever else its fields break. -/
theorem lowest_longShift (sub top : Bool) : lowest [(sub, 4), (true, 4), (top, 5)] = some 4 := by
  cases sub <;> cases top <;> rfl

theorem longShift_bit {w : Nat} (h : 64 ≤ fld w 0 32) : ((CImm.of w).imm / 64 != 0) = true := by
  have himm : (CImm.of w).imm = fld w 0 32 := rfl
  rw [bne_iff_ne]
  omega

theorem decodeSyl_sshli {w : Nat} (hop : fld w 48 8 = 0x1E) (himm : 64 ≤ fld w 0 32) :
    (∃ d a n, (decodeSyl .C w).i = .sshli d a n) ∧
      lowest ((decodeSyl .C w).bad ++ (decodeSyl .C w).i.details) = some 4 := by
  have hr : (CImm.of w).op = 0x1E := hop
  rw [decodeSyl_cImm (by rw [hop]; decide) (by rw [hop]; rfl)]
  unfold decodeCImm
  rw [hr]
  dsimp only
  rw [longShift_bit himm]
  exact ⟨⟨_, _, _, rfl⟩, lowest_longShift _ _⟩

theorem decodeSyl_sshri {w : Nat} (hop : fld w 48 8 = 0x1F) (himm : 64 ≤ fld w 0 32) :
    (∃ d a n ar, (decodeSyl .C w).i = .sshri d a n ar) ∧
      lowest ((decodeSyl .C w).bad ++ (decodeSyl .C w).i.details) = some 4 := by
  have hr : (CImm.of w).op = 0x1F := hop
  rw [decodeSyl_cImm (by rw [hop]; decide) (by rw [hop]; rfl)]
  unfold decodeCImm
  rw [hr]
  dsimp only
  rw [longShift_bit himm]
  exact ⟨⟨_, _, _, _, rfl⟩, lowest_longShift _ _⟩

end Sys2Proof

namespace Sys2Proof.Machine

/-! ## The trap at an undisturbed boundary -/

theorem Calm.hits {s : State} (h : Calm s) (b : Bun) : b.hits s = [] := by
  simp [Bun.hits, State.pcHits, State.dataHits, h.pcCmp, h.dataCmp, h.twinPc, h.twinData]

/-- What is taken at the boundary stands in place of the bundle. -/
theorem Calm.issue_taken {s t : State} {b : Bun} (h : Calm s) (ht : b.taken s = some t) : b.issue s = .next t := by
  unfold Bun.issue
  simp only [h.at_, Bool.not_true, Bool.false_eq_true, if_false, h.boundary, h.restart, bne_self_eq_false, Bool.false_and,
    h.parts, ht]

/-- One cause alone is reported as it is (18 R353). -/
theorem report_one (c : Cause) : report (gathered [c] []) = some c := by
  have hg : gathered [c] [] = [c] := by simp [gathered, lowestCode]
  have hs : bySlot [c] = [c] := by
    unfold bySlot
    by_cases h : c.slots = 0 <;> simp [h]
  have hf : ([c].filter fun d => d.code == lowestCode [c]) = [c] := by simp [lowestCode]
  unfold report
  rw [hg, hf, hs]
  simp

theorem otherBits_one (c : Cause) : otherBits c.code [c] = 0 := by
  have hn : ((List.range 17).filter fun k => k != c.code && [c].any fun d => d.code == k) = [] := by
    rw [List.filter_eq_nil_iff]
    intro k _
    simp
    exact fun h => Ne.symm h
  unfold otherBits
  rw [hn]
  rfl

/-- It is delivered as a trap where nothing else is pending (18 R355). -/
theorem deliver_one {s : State} (ha : s.asyncCauses = []) (hhm : s.w.hm = false) (c : Cause) (via : Cause → Bool) :
    s.deliver [c] none via = s.unhold.takeTrap c 0 none := by
  unfold State.deliver
  rw [ha, report_one]
  simp [hhm, otherBits_one]

theorem Calm.taken_one {s : State} {b : Bun} {c : Cause} (h : Calm s) (hhm : s.w.hm = false) (hh : b.holds s = [])
    (hc : b.causes s = [c]) : b.taken s = some (s.unhold.takeTrap c 0 none) := by
  unfold Bun.taken Bun.padCause
  rw [h.owed, h.settledW]
  simp [h.async, hh, hc, deliver_one h.async hhm]

/-! ## A C syllable alone in its bundle -/

/-- A slot that holds its NOP. -/
def nopSyl (sl : Slot) : Syl := { sl := sl, i := nopOf sl, ill := none, op := .nop }

/-- A bundle that holds a C syllable alone. -/
def ctlBun (y : Syl) (g : Nat) (ys : Bool) : Bun := { syls := [nopSyl .V, nopSyl .M, nopSyl .E, y], gap := g, ys := ys }

theorem readBun_ctl {w : Nat} (h : w < 2 ^ 64) :
    readBun (w * 2 ^ 192) = ctlBun (sylOf .C w) (fld (w * 2 ^ 192) 253 3) (isOne (fld (w * 2 ^ 192) 252 1)) := by
  have hv : fld (w * 2 ^ 192) 0 64 = 0 := by unfold fld; omega
  have hm : fld (w * 2 ^ 192) 64 64 = 0 := by unfold fld; omega
  have he : fld (w * 2 ^ 192) 128 64 = 0 := by unfold fld; omega
  have hc : fld (w * 2 ^ 192) 192 64 = w := by unfold fld; omega
  unfold readBun
  rw [hv, hm, he, hc]
  unfold sylOf
  rw [decodeSyl_v_nop (w := 0) rfl, decodeSyl_m_nop (w := 0) rfl, decodeSyl_e_nop (w := 0) rfl]
  rfl

/-- Ports of scalar registers alone, within the limits (02 R51). -/
structure Ports.FewScalars (p : Ports) : Prop where
  vr : p.vr = []
  vw : p.vw = []
  xw : p.xw = []
  sr : p.sr.length ≤ 6
  sw : p.sw.length ≤ 3

theorem fewScalars_none : Ports.none.FewScalars := ⟨rfl, rfl, rfl, by decide, by decide⟩

/-- A shift by an immediate reads one register and writes one. -/
theorem fewScalars_shift (a d : Reg) : ((Ports.sIn [a]).both (Ports.sOut d)).FewScalars := by
  refine ⟨rfl, rfl, rfl, ?_, ?_⟩
  · show ([a.val].filter (· != 0) ++ []).length ≤ 6
    rw [List.append_nil]
    exact (List.length_filter_le _ _).trans (by simp)
  · show (if d.val = 0 then [] else [d.val]).length ≤ 3
    split <;> simp

theorem nop_causes (s : State) (sl : Slot) : (nopSyl sl).causes s = [] := by
  simp [nopSyl, Syl.causes, ports_nop, overRegs_none, SlotOp.nop]

theorem ctlBun_portFaults {w : Warp} {y : Syl} {g : Nat} {ys : Bool} (hp : (portsOf w.zfBit y.i).FewScalars) :
    portFaults ((ctlBun y g ys).ports w) = [] := by
  obtain ⟨hvr, hvw, hxw, hsr, hsw⟩ := hp
  have hports : (ctlBun y g ys).ports w =
      [⟨.V, Ports.none⟩, ⟨.M, Ports.none⟩, ⟨.E, Ports.none⟩, ⟨y.sl, portsOf w.zfBit y.i⟩] := by
    simp [Bun.ports, ctlBun, nopSyl, ports_nop]
  have hbank (b : Nat) : overBank ((ctlBun y g ys).ports w) b = false := by
    simp [hports, overBank, distinct, Ports.none, hvr]
  have hone (f : Ports → List Nat) (hf : f Ports.none = []) (r : Nat) : shared ((ctlBun y g ys).ports w) f r = false := by
    have hle : ([⟨y.sl, portsOf w.zfBit y.i⟩].filter fun q : SlotPorts => (f q.p).contains r).length ≤ 1 :=
      List.length_filter_le _ _
    simpa [hports, shared, hf] using hle
  have hread : (distinct ((ctlBun y g ys).ports w) Ports.sr).length ≤ 6 := by
    simpa [hports, distinct, Ports.none] using (List.dedup_sublist _).length_le.trans hsr
  have hwrite : (distinct ((ctlBun y g ys).ports w) Ports.sw).length ≤ 3 := by
    simpa [hports, distinct, Ports.none] using (List.dedup_sublist _).length_le.trans hsw
  unfold portFaults
  simp [hbank, hread, hwrite, hone Ports.vw rfl, hone Ports.sw rfl, hone Ports.xw rfl]

/-- A rejected C syllable alone in its bundle traps ILLOP with its detail and the C slot's bit (02 R42). -/
theorem ctlBun_rejected {s : State} {y : Syl} {d g : Nat} {ys : Bool} (hcalm : s.calm = true) (hhm : s.w.hm = false)
    (hsl : y.sl = .C) (hill : y.ill = some d) (hop : y.op.causes s = []) (hflag : y.op.flag = none)
    (hp : (portsOf s.w.zfBit y.i).FewScalars) : (ctlBun y g ys).issue s = .next (s.trapNow 2 d 8 s.w.pc 0) := by
  have h := calm_iff hcalm
  have hover : overRegs s.w.nregs (portsOf s.w.zfBit y.i) = false := by simp [overRegs, hp.vr, hp.vw]
  have hy : y.causes s = [illopOf s.w.pc .C d] := by simp [Syl.causes, hover, hill, hop, hsl]
  have hc : (ctlBun y g ys).causes s = [illopOf s.w.pc .C d] := by
    unfold Bun.causes illbun
    rw [ctlBun_portFaults hp, h.hits]
    simp [ctlBun, nop_causes, hy]
  have hh : (ctlBun y g ys).holds s = [] := by
    simp [Bun.holds, Bun.flags, ctlBun, Syl.hold, hill, hflag, nopSyl, SlotOp.nop, State.overFull]
  exact h.issue_taken (h.taken_one hhm hh hc)

/-- The same of the bundle's bits: the syllable names an instruction that has no check of its own and counts no flag. -/
theorem readBun_rejected {s : State} {w d : Nat} {i : Instr} (hw : w < 2 ^ 64) (hcalm : s.calm = true) (hhm : s.w.hm = false)
    (hl : lowest ((decodeSyl .C w).bad ++ (decodeSyl .C w).i.details) = some d) (hi : (decodeSyl .C w).i = i)
    (hop : (slotOp i).causes s = []) (hflag : (slotOp i).flag = none) (hp : (portsOf s.w.zfBit i).FewScalars) :
    (readBun (w * 2 ^ 192)).issue s = .next (s.trapNow 2 d 8 s.w.pc 0) := by
  subst hi
  rw [readBun_ctl hw]
  exact ctlBun_rejected hcalm hhm rfl hl hop hflag hp

end Sys2Proof.Machine

namespace Sys2Proof
open Sys2Proof.Machine

/-- Settles O13: R332's opcodes read as no instruction, and what reads so traps (16 R332, 02 R42). -/
theorem undefinedControlOpcodes : Obligations.UndefinedControlOpcodes := by
  unfold Obligations.UndefinedControlOpcodes
  refine ⟨fun w => ⟨decodeSlot_unassigned, fun h0 => ?_⟩, fun s w hw hd hcalm hhm => ?_⟩
  · rw [decodeSlot, decodeSyl_c_nop h0]
    rfl
  · have hl := lowest_of_decodeSlot_error hd
    exact readBun_rejected hw hcalm hhm hl (decodeC_detail_one hl) rfl rfl fewScalars_none

/-- Settles O15: each value is that of R309, and a shift by more than 63 reads with detail 4 (16 R309). -/
theorem scalarImmediates : Obligations.ScalarImmediates := by
  unfold Obligations.ScalarImmediates
  refine ⟨fun s d a imm => ⟨runs_oneReg rfl rfl rfl, runs_oneReg rfl rfl rfl, runs_oneReg rfl rfl rfl, runs_oneReg rfl rfl rfl,
    runs_scalar (f := fun _ => imm.signExtend 64) (fun _ _ _ => rfl) rfl rfl rfl, runs_oneReg rfl rfl rfl,
    fun n => ⟨runs_oneReg rfl rfl rfl, runs_oneReg rfl rfl rfl, runs_oneReg rfl rfl rfl⟩⟩, fun s w hw hop himm hcalm hhm => ?_⟩
  simp only [List.mem_cons, List.not_mem_nil, or_false] at hop
  rcases hop with hop | hop
  · obtain ⟨⟨d, a, n, hi⟩, hl⟩ := decodeSyl_sshli hop himm
    exact readBun_rejected hw hcalm hhm hl hi rfl rfl (fewScalars_shift a d)
  · obtain ⟨⟨d, a, n, ar, hi⟩, hl⟩ := decodeSyl_sshri hop himm
    exact readBun_rejected hw hcalm hhm hl hi rfl rfl (fewScalars_shift a d)

end Sys2Proof
end
